-- ==== Sys2Proof/Word.lean ====
section
/-! DEFINITION. Word.lean: the word types of the model and their plainest arithmetic. -/

namespace Sys2Proof

/-- One byte. -/
abbrev Byte := BitVec 8
/-- A 16-bit field. -/
abbrev Half := BitVec 16
/-- A 32-bit register or field; every register of the module is one (R11). -/
abbrev Word := BitVec 32
/-- A 64-bit bus address or key. -/
abbrev Word64 := BitVec 64

end Sys2Proof
end

