-- ==== Sys2Proof/Syntax.lean ====
section
/-! DEFINITION. Syntax.lean: the commands and events of the block, one constructor of Instr per row of
spec/opcode_table.json, and the plain data that they carry. -/

namespace Sys2Proof

/-! ## Functions and command headers -/

/-- A PCIe function: PF0 (the PF0 of link 0 when the endpoint is bifurcated), the PF0 of link 1, and
VF(p+1), which serves polder p (R70, R102). -/
inductive Fn where
  | pf0
  | pf0b
  | vf (p : Nat)
deriving DecidableEq, Repr

/-- The command header of the command packet (bytes 0 to 15), with the sluice that carried it, and, in bounce-buffer
mode, the highest COUNTER of the bounce records that the command names (R436). -/
structure Hdr where
  fn : Fn
  sluice : Nat
  opcode : Nat
  targetValid : Bool
  fence : Bool
  nowait : Bool
  polder : Nat
  sluiceField : Nat
  seq : Word
  targetTn : Word
  bounce : Nat
deriving DecidableEq, Repr

/-- A host buffer that a command names: its length, its bus address, and whether the bus answers an
access to it with an error (R108). -/
structure Buf where
  len : Nat
  addr : Word64
  fault : Bool
deriving DecidableEq, Repr

/-- Criticality classes (R75). -/
inductive Class where
  | S
  | Q
  | B
deriving DecidableEq, Repr

/-- The ordering tag of R57. -/
structure Tag where
  epoch : Nat
  tn : Nat
  rank : Nat
  srcMod : Nat
  srcLocal : Nat
  seq : Word
deriving DecidableEq, Repr

/-! ## What a Rilam image declares (Sections read by the module) -/

/-- Roles of a tensor in the TENSORS section. -/
inductive Role where
  | weight
  | activation
  | state
  | input
  | output
  | kv
deriving DecidableEq, Repr

/-- A tensor of the TENSORS section. `format` is the format byte of R135. `meta24` holds the metadata of a
2:4 sparse tensor, one pair of positions per group (R151); `scale` names the scale plane of a block tensor. -/
structure Tensor where
  id : Nat
  format : Nat
  role : Role
  bytes : Nat
  sparse : Bool
  meta24 : List (Nat × Nat)
  zeroCompressed : Bool
  scalePlane : Bool
  scale : Option Nat
deriving DecidableEq, Repr

/-- The thirteen limits that R203 checks on a convolution. -/
structure ConvParams where
  n : Nat
  fh : Nat
  fw : Nat
  sh : Nat
  sw : Nat
  dh : Nat
  dw : Nat
  pt : Nat
  pb : Nat
  pl : Nat
  pr : Nat
  h : Nat
  w : Nat
  cin : Nat
  cout : Nat
  g : Nat
deriving DecidableEq, Repr

/-- The parameters of an attention operator (Attention limits, R226). Scales and the soft cap are FP32 codes. -/
structure AttnParams where
  dh : Nat
  hq : Nat
  hkv : Nat
  layers : Nat
  kScale : List Word
  vScale : List Word
  scale : Word
  cap : Word
  window : Nat
  mask : Nat
  context : Nat
  active : Nat
deriving DecidableEq, Repr

/-- Operator kinds that the module names. FP32 parameters are 32-bit codes. -/
inductive OpKind where
  | matmul
  | conv (p : ConvParams)
  | crop (boxes oh ow mode : Nat) (extrapolation : Word)
  | boxAnchor (boxes : Nat) (sy sx sh sw clamp : Word)
  | boxCentre (gh gw priors : Nat) (gs clamp : Word) (sigmoid : Bool)
  | suppress (cands classes maxPer skip mode : Nat) (iou score sigma : Word)
  | attention (p : AttnParams)
  | rowNorm (row : Nat)
  | router
  | experts
  | vector
  | unknown
deriving DecidableEq, Repr

/-- One entry of the OPERATORS section: its kind, the tensors it reads (a stationary operand first), the
tensor it writes, and whether it selects stochastic rounding (R154). `acrossBlocks`: it reduces a block
tensor in another dimension (R141). -/
structure Operator where
  kind : OpKind
  ins : List Nat
  out : Nat
  stochastic : Bool
  acrossBlocks : Bool
deriving DecidableEq, Repr

/-- Serving declarations of R250, from MAXIMA and EXPERTS. -/
structure Serving where
  vocab : Nat
  context : Nat
  active : Nat
  batch : Nat
  prefillMin : Nat
deriving DecidableEq, Repr

/-- The EXPERTS section: the serving declarations, for a variant image the base's MODEL digest and its
shape, for a training image the linked handle and variant (R269, R277). -/
structure Experts where
  serving : Option Serving
  baseModel : BitVec 384
  layers : Nat
  hidden : Nat
  expertLayers : Nat
  linkHandle : Nat
  linkVariant : Nat
  trainsOnlyPrivate : Bool
deriving DecidableEq, Repr

/-- The SAFETY section: whether results carry a fallback trajectory, and the declared result size. -/
structure SafetySec where
  carriesTrajectory : Bool
  resultBytes : Nat
deriving DecidableEq, Repr

/-- An output port of the IO section: its number, its tensor and its result size (R109, R284). -/
structure OutPort where
  port : Nat
  tensor : Nat
  bytes : Nat
deriving DecidableEq, Repr

/-- What the module reads of a Rilam container (R76, R77, R478). `maxima`: the largest size of each data-dependent tensor
(R78); `weights` and `initState`: what its weight and state tensors hold at first (R96). -/
structure Image where
  headerOk : Bool
  size : Nat
  digestOk : Bool
  model : BitVec 384
  version : Nat
  unknownRequired : Bool
  hasClass : Bool
  hasOperators : Bool
  hasTensors : Bool
  needsMaxima : Bool
  hasMaxima : Bool
  hasIo : Bool
  cls : Class
  training : Bool
  maxima : List (Nat × Nat)
  weights : List Byte
  initState : List Byte
  tensors : List Tensor
  operators : List Operator
  inputs : List (Nat × Nat)
  lists : List (Nat × Nat)
  outPorts : List OutPort
  safety : Option SafetySec
  experts : Option Experts
  fault : Bool
deriving DecidableEq, Repr

/-! ## Plans: the module's own search gives candidates, with their worst-case costs (R84, R87) -/

/-- One tile of a plan: its stack (or position in a degraded plan), its index, the cycles of the graph's quanta on it in each
of the tides over which an invocation is laid (R84), the cycles of its golden run, and the KiB of on-stack SRAM it takes. -/
structure TileUse where
  stack : Nat
  tile : Nat
  quanta : List (List Nat)
  golden : Nat
  sramKiB : Nat
deriving DecidableEq, Repr

/-- Consecutive 4 KiB frames of a tier of external memory, by their numbers in the tier. -/
structure Extent where
  base : Nat
  frames : Nat
deriving DecidableEq, Repr

/-- Frames of a list of extents. -/
def frameSum (es : List Extent) : Nat := (es.map (·.frames)).sum

/-- A candidate plan: tiles per channel, the degraded plan, the frames of HBM and of the spillway that its tensors take and those
of the image copy, the HBM frames of the degraded plan by position, bytes per tide on each channel of R89 and, for a linked job,
on each Levee port (R423) at the costing point,
state bytes for R323 and results per tide, replacement degraded plans for other Class Q graphs (R90), the tier of each tensor,
and the sizes at which the data-dependent tensors are costed (R78). `decodeNs` and `prefillNsPerToken` cost a serving graph's
step and chunk, `windowNs` its window time in one tide, and `attnTiles` is the number of tiles that it gives to attention
(R235). -/
structure Plan where
  tiles : List TileUse
  degraded : List TileUse
  hbm : List Extent
  spill : List Extent
  copy : List Extent
  degHbm : List (Nat × Nat)
  hbmBytes : List (Nat × Nat)
  spillBytes : List (Nat × Nat)
  d2dBytes : List (Nat × Nat)
  leveeBytes : List (Nat × Nat)
  stateBytes : Nat
  resultsPerTide : Nat
  replans : List (Nat × Nat × List TileUse)
  tiers : List (Nat × Nat)
  sizes : List (Nat × Nat)
  windowNs : Nat
  decodeNs : Nat
  prefillNsPerToken : Nat
  attnTiles : Nat
deriving DecidableEq, Repr

/-- Bytes of on-stack SRAM that a plan holds, for Class S on one channel, and frames of the two other tiers, the image copy with
the spillway's (R72, R73). -/
def Plan.sramHeld (p : Plan) : Nat := 1024 * (p.tiles.map (·.sramKiB)).sum
def Plan.hbmFrames (p : Plan) : Nat := frameSum p.hbm
def Plan.spillFrames (p : Plan) : Nat := frameSum p.spill + frameSum p.copy

/-- The plan puts a tensor outside on-stack SRAM. -/
def Plan.spills (p : Plan) : Bool := p.hbm ≠ [] || p.spill ≠ [] || p.tiers.any (·.2 ≠ 0)

/-! ## Runs, requests and codec sessions -/

/-- Run descriptor entry (16 bytes, R108 and R109). `output` is DIR; `fault`: the bus answers an access to the buffer with an
error; `count`: the COUNT of a list in the buffer (R216). -/
structure Desc where
  port : Nat
  output : Bool
  len : Nat
  addr : Word64
  count : Nat
  fault : Bool
deriving DecidableEq, Repr

/-- A grammar table (R255): start state, and for each state its (token, next state) pairs. -/
structure Grammar where
  start : Nat
  states : List (List (Nat × Nat))
deriving DecidableEq, Repr

/-- Request descriptor (128 bytes) of REQUEST_SUBMIT with the prompt and the grammar table that it names. -/
structure ReqDesc where
  promptLen : Nat
  maxNew : Nat
  seed : Word64
  temperature : Word
  topP : Word
  minP : Word
  repPenalty : Word
  topK : Nat
  repWindow : Nat
  stop : List Nat
  outAddr : Word64
  outLen : Nat
  prompt : List Nat
  grammarLen : Nat
  grammar : Option Grammar
  fault : Bool
deriving DecidableEq, Repr

/-- The 64-byte configuration block of CODEC_SESSION_OPEN. -/
structure CodecCfg where
  source : Nat
  sink : Nat
  layout : Nat
  lowLatency : Nat
  split : Nat
  refs : Nat
  structure_ : Nat
  rcMode : Nat
  qpMin : Nat
  qpMax : Nat
  qpI : Nat
  qpP : Nat
  intraPeriod : Nat
  frameRate : Nat
  bitrate : Nat
  vbv : Nat
  maxPicBytes : Nat
  graphHandle : Nat
  graphPort : Nat
  ringLen : Nat
  ringAddr : Word64
  fault : Bool
deriving DecidableEq, Repr

/-! ## Work of a quantum (the operator it ends, with the operands it read) -/

/-- One operand vector of an array product: the format byte, the element code of each position of K, and for a block format
the scale X of each block of 32 or 16 consecutive positions. A 2:4 sparse one holds the kept elements only, with the two kept
positions of each group of four (R141, R151, R152). -/
structure Vec where
  format : Nat
  elems : List Nat
  scales : List Nat := []
  groups : List (Nat × Nat) := []
deriving DecidableEq, Repr

/-- A box record in corner form, FP32 codes (R216), or the four inputs of box decoding in their format (R220). -/
structure Box where
  y1 : Word
  x1 : Word
  y2 : Word
  x2 : Word
deriving DecidableEq, Repr

/-- The operator that a quantum ends, with the operands that it read. -/
inductive QWork where
  /-- A quantum whose output another quantum consumes on the tile. -/
  | inner
  /-- One output row of a matrix product: the row's number, the stationary columns, one streamed vector, the tiles' shares of
  the reduction (the first the receiving tile's own, then in the order in which they are added; each its first chunk and its
  number of chunks; none: one tile holds it all), rounding and output format (R145, R148, R153, R154). -/
  | dot (row : Nat) (columns : List Vec) (streamed : Vec) (shares : List (Nat × Nat)) (stochastic : Bool) (outFormat : Nat)
  /-- Outputs of a convolution at one position (n, y, x) of its output: the first output channel, and for each channel from it
  on its filter and its bias; one activation, shares and rounding as in a matrix product (R205 to R211). `input` holds the
  whole map of image n. -/
  | conv (p : ConvParams) (n y x : Nat) (input : Vec) (first : Nat) (columns : List (Vec × Option Word)) (activation : Nat)
      (ceiling : Word) (shares : List (Nat × Nat)) (stochastic : Bool) (outFormat : Nat)
  /-- One output position of crop-and-resize for one box: COUNT and the box's number in the list, and the map of the box's image
  in storage order with its channels (R217 to R219). -/
  | crop (count no : Nat) (oh ow mode : Nat) (extrapolation : Word) (h w n : Nat) (batch : Int) (box : Box) (i j : Nat)
      (channels : Nat) (map : Vec) (outFormat : Nat)
  /-- A list of boxes decoded in anchor form, each from its delta and its anchor, in the format of the inputs (R220). -/
  | boxAnchor (inFormat : Nat) (boxes : List (Box × Box)) (sy sx sh sw clamp : Word) (clip : Option (Word × Word)) (declared : Nat)
  /-- A list of boxes decoded in centre-size form, from the deltas of a grid of GW columns and the sizes of the priors, in the
  order of the record index (R220). -/
  | boxCentre (inFormat : Nat) (deltas : List Box) (gw : Nat) (priors : List (Word × Word)) (gs clamp : Word) (sigmoid : Bool)
      (clip : Option (Word × Word)) (declared : Nat)
  /-- Suppression of overlapping detections (R221 to R224): COUNT, the records of the box list, and for each class the scores in
  their format. -/
  | suppress (count : Nat) (boxes : List Box) (inFormat : Nat) (scores : List (List Word)) (maxPer skip mode : Nat)
      (iou score sigma : Word) (declared : Nat)
  /-- One block of an attention row: its scores, and for each element of the head dimension the values of the block's keys:
  the partial (m, l, o) (R228, R235). -/
  | attnBlock (scores : List Word) (values : List Vec)
  /-- A row of a query head of an attention operator's layer merged from its partials (m, l, o) in ascending block index, with
  the residues of their words as they arrived (R237, R239). -/
  | merge (op layer head : Nat) (parts : List (Word × Word × List Word)) (residues : List Nat) (outFormat : Nat)
  /-- The score of one query and key position in a query head of an attention operator's layer (R226, R227): the query and key
  vectors, the two positions, and whether the key's has been written. -/
  | score (op layer head : Nat) (q k : Vec) (i j : Nat) (written : Bool)
  /-- Keys or values of one position written into their page, by attention operator, layer and KV head (R229, R230, R246). -/
  | kvStore (op position layer head : Nat) (values : Bool) (elems : List Nat)
  /-- One tile of 16 x 16 stored attention weights of a training image, from its scores and the maximum of each row's block
  (R247, R248). -/
  | weightTile (qi kj mask groups : Nat) (scores : List Word) (maxima : List Word)
  /-- The statistics record of one attention row of a training image (R247). -/
  | rowStats (m lsum : Word) (mBlk : List Word)
  /-- A probability recovered in the backward pass (R249). -/
  | backward (e mBlk m lsum : Word)
  /-- An expert layer for one token: the outputs of the shared experts, those of the routed experts by variant and number, and
  the numbers that the variant's router selects (R270). -/
  | experts (shared : List (List Word)) (routed : List (Nat × Nat × List Word)) (selected : List Nat)
  /-- Zero compression of one block of 64 elements, by its number in the tensor (R213, R214). -/
  | compress (format block : Nat) (elems : List Nat)
  /-- One block of a zero-compressed tensor read from on-stack SRAM, from a line and an offset on (R213, R214). -/
  | expand (format line offset : Nat)
  /-- Quantisation of a row into a block format (R142). -/
  | quantise (format : Nat) (values : List Word)
  /-- Conversion of FP32 values into an output format, by RNE or, in a training image, stochastically (R153, R154). -/
  | convert (format : Nat) (values : List Word) (stochastic : Bool)
  /-- A vector operation (R160, R161): function number, the format of its lanes (FP32, BF16, FP16 or INT32), and its
  operands. -/
  | vector (fn format : Nat) (a b c : Word)
  /-- A row reduced on one tile (R161, R162): 0 softmax, 1 layer normalisation, 2 RMS normalisation. -/
  | row (fn : Nat) (xs : List Word) (epsilon : Word)
  /-- One decode step's or final chunk's logits, in their format, sampled in the sampling unit (R252, R271). -/
  | sample (format : Nat) (logits : List Word)
  /-- Bytes of a tensor read from lines of the working set in on-stack SRAM (R167). -/
  | load (line offset count : Nat)
  /-- Bytes of a tensor written to lines of the working set, in the tier where the plan puts it (R168, R180). -/
  | store (tensor line offset : Nat) (bytes : List Byte)
  /-- The recurrent state that the invocation computes, in the working copy until its commit (R158, R323). -/
  | newState (bytes : List Byte)
  /-- The private experts and the router of the variant that a training image updates (R278). -/
  | newExperts (bytes : List Byte)
deriving DecidableEq, Repr

/-- Whose quantum it is. -/
inductive WorkRef where
  | run (polder run inv : Nat)
  | step (polder sluice : Nat) (seq : Word)
  | golden (polder handle channel : Nat)
deriving DecidableEq, Repr

/-- QUANTUM_END's operand: tile (stack 4: the sampling unit of IO die 0 or 1), owner, its start from the tide's edge, the cycles of
the arithmetic clock that it takes when every cycle issues (in the sampling unit, ns), whether it is the invocation's last quantum or
its last one in this tide, the operator, the tensor and the element of it from which its output goes, a fault of the arithmetic
(the output that it hits, and what it adds to its window or code), and the time to the tile's next quantum (0: none in this
tide). -/
structure QuantumEnd where
  stack : Nat
  tile : Nat
  who : WorkRef
  startNs : Nat
  cycles : Nat
  last : Bool
  tideLast : Bool
  work : QWork
  tensor : Nat
  element : Nat
  upset : Option (Nat × Int)
  nextDueNs : Nat
deriving DecidableEq, Repr

/-! ## Edges, samples and supplies -/

/-- What asks an arbiter for a channel (R190, R191): vote and warden traffic, a polder's work, a codec session, a scrub
(polder 64: the module's own), a re-encryption sweep of a polder, and the debug port. -/
inductive Requester where
  | vote
  | polder (p : Nat)
  | codec (session : Nat)
  | scrub (p : Nat)
  | sweep (p : Nat)
  | debug
deriving DecidableEq, Repr

/-- What the module reads at a tide edge: each regulator's energy of the closed tide in mJ (none where its reading failed),
whether the core voltage and the staging PLL were ready by P − E (R360), the activity estimate in mJ, the diode readings of the hotspots that changed, the pages that each polder's
re-encryption sweep passed in the closed tide (R182), and the requests at the arbiters in it: for an arbiter instance, the
requesters that ask in each of its cycles (R190). -/
structure EdgeIn where
  energyMj : List (Option Nat)
  opReady : Bool
  estimateMj : Nat
  hotspots : List (Nat × Option Int × Option Int)
  keeperOffsetNs : Int
  portsDown : Nat × Nat
  sweeps : List (Nat × Nat)
  traffic : List (Nat × List (List Requester))
deriving DecidableEq, Repr

/-- The grid of an installation that a module joins: the count of the tide that its first edge opens, the tides elapsed from
the installation's origin to that edge, and the period (R50). -/
structure Join where
  count : Nat
  elapsed : Nat
  periodQ : Nat
deriving DecidableEq, Repr

/-- The outcome of the parts of a cold start that the spec lets fail (R448 to R450): validity of the two banks, the
failed stage if one fails, the item whose failed test or injection failed stage 7, the stacks that pass stages 5
to 7, the time on the module's clock from which the tide origin is taken, in quarter-ms (that of the first edge where an
installation is joined), and the grid of such an installation. -/
structure BootIn where
  bankValid : Bool × Bool
  failedStage : Option Nat
  failedItem : Option Nat
  stackOk : List Bool
  originQ : Nat
  join : Option Join
deriving DecidableEq, Repr

/-- A datum's consumer: a graph input port of a polder, a codec session, or a linked module. -/
structure Consumer where
  polder : Nat
  handle : Nat
  port : Nat
  linked : Bool
deriving DecidableEq, Repr

/-- An input at its ingress port (R60): source, payload, camera data type and size, and the linked modules and consumers to
which it is forwarded; for a datum that came over Levee also the module where it arrived and its SEQ. -/
structure Datum where
  rank : Nat
  srcMod : Nat
  srcLocal : Nat
  payload : List Byte
  dataType : Nat
  width : Nat
  height : Nat
  seq : Word
  atEdge : Bool
  forward : List (Nat × Consumer)
deriving DecidableEq, Repr

/-- Role of the data that an uncorrectable error hits (R177). -/
inductive ErrRole where
  | invData (run : Nat)
  | weight (handle : Nat) (copyAlso : Bool)
  | state (run : Nat)
  | kv (sluice : Nat) (seq : Word)
  | classS (run channel : Nat)
  | warmImage
  | firmware
  | codecInput (session : Nat)
  | codecRef (session : Nat)
deriving DecidableEq, Repr

/-- An uncorrectable error: the role of its data, and whether a transfer finds it (R177). -/
structure HardError where
  role : ErrRole
  transfer : Bool
deriving DecidableEq, Repr

/-- Memory tiers. -/
inductive Tier where
  | sram
  | hbm
  | spill
deriving DecidableEq, Repr

/-- One access of a scratchpad port in one REG cycle (R196 to R200). -/
structure ScrAccess where
  port : Nat
  addr : Nat
  size : Nat
  write : Bool
  data : List Byte
  machineMode : Bool
deriving DecidableEq, Repr

/-! ## Vote, warden and link frames -/

/-- A vote frame of R310, as a warden receives it. -/
structure VoteFrame where
  tag : Tag
  channel : Nat
  stack : Nat
  marker : Bool
  trajectory : Bool
  payload : List Byte
  digest : BitVec 128
  crcOk : Bool
  testFrame : Bool
deriving DecidableEq, Repr

/-- One line of a verdict (R313): the result's key, the digest emitted, and per live channel what was seen:
none missing, some none a fault marker, some (some d) a digest. -/
structure VerdictLine where
  polder : Nat
  run : Nat
  emitted : Option (BitVec 128)
  seen : List (Nat × Option (Option (BitVec 128)))
deriving DecidableEq, Repr

/-- An AUTH frame of R413. `busy`: the exchange shows that the peer has admitted work. -/
structure AuthFrame where
  port : Nat
  peer : Nat
  fleet : Nat
  fwVersion : Nat
  periodQ : Nat
  nonce : BitVec 256
  macOk : Bool
  busy : Bool
deriving DecidableEq, Repr

/-- What a Levee data frame carries. -/
inductive LinkPayload where
  | input (c : Consumer) (intake : Nat) (d : Datum)
  | tensor (polder run inv : Nat)
deriving DecidableEq, Repr

/-- A Levee data frame (TYPE 0). -/
structure DataFrame where
  port : Nat
  src : Nat
  counter : Nat
  keyGen : Bool
  tagOk : Bool
  payload : LinkPayload
deriving DecidableEq, Repr

/-- A forwarded command packet: SET_TIDE, TIDE_PRESET, or any other opcode (R129). -/
inductive Forwarded where
  | setTide (periodQ swellLen : Nat)
  | tidePreset (epoch tn : Nat)
  | other (opcode : Nat)
deriving DecidableEq, Repr

/-- A record of a control frame (R418). -/
inductive LinkRecord where
  | command (origin : Nat) (seq : Word) (cmd : Forwarded)
  | status (member origin : Nat) (seq : Word) (status reason : Nat)
deriving DecidableEq, Repr

/-- A Levee control frame (TYPE 1) with its receive time; times in units of 1/16 ns from S0. -/
structure ControlFrame where
  port : Nat
  src : Nat
  counter : Nat
  keyGen : Bool
  tagOk : Bool
  correction : Int
  tide : Nat
  epochNext : Nat
  timeState : Nat
  hops : Nat
  keeper : Nat
  opTarget : Nat
  periodQ : Nat
  announceRelabel : Bool
  announcePeriod : Bool
  announceKey : Bool
  tSend : Int
  tEcho : Int
  tEchoRx : Int
  rxAt : Int
  atTide : Nat
  relabelTo : Nat
  records : List LinkRecord
deriving DecidableEq, Repr

/-- What the decoder of a picture detected, with the units that it costs (R300): from the first CTU of the damaged slice segment
or tile to the unit before the resume point. -/
inductive DecodeError where
  /-- a NAL unit header, or an OBU header; resumes at the next start code or OBU -/
  | header (first resume : Nat)
  /-- a syntax element, the arithmetic decoder's end, or a missing end_of_slice_segment_flag; resumes at the next independent slice
  segment or tile -/
  | syntaxElement (first resume : Nat)
  /-- a slice_segment_address not after the previous one: that segment is skipped, with the units that no other one holds -/
  | sliceOrder (first resume : Nat)
  /-- parameter sets, the frame header, or the picture size: the whole picture -/
  | picture
  /-- an uncorrectable memory error in the input slot or a reference slot: the units that it reaches -/
  | memory (units : List Nat)
deriving DecidableEq, Repr

/-- What the decoder of a picture found: what it detected, for each unit the units of reference pictures that it predicts from
(picture number and unit), and the number of units that each core had to take. -/
structure DecodeFound where
  errors : List DecodeError
  reads : List (List (Nat × Nat))
  cores : List Nat
deriving DecidableEq, Repr

/-- What a picture's headers say of it: whether it is an inter picture, is shown, is an IRAP picture, has film grain, has 10 bits. -/
structure PictureHead where
  inter : Bool
  shown : Bool
  irap : Bool
  filmGrain : Bool
  deep : Bool
deriving DecidableEq, Repr

/-- A picture as the decoder leaves it: what it found, what the headers say, the sample planes, the numbers of the pictures that
it may reference, and its output order. -/
structure DecodedIn extends DecodeFound, PictureHead where
  planes : List Byte
  refs : List Nat
  order : Int
deriving DecidableEq, Repr

/-- The output buffer of a picture: its length, and whether an access to either buffer of the command ends with a bus error
(R108). -/
structure OutArea where
  len : Nat
  fault : Bool
deriving DecidableEq, Repr

/-- A write of a register: its value, and the W1C bits that hardware sets in the clock cycle of the write (R8). -/
structure WriteIn where
  value : Word
  same : Word
deriving DecidableEq, Repr

/-- Where a read begins and how many bytes it reads (R11). -/
structure ReadIn where
  offset : Nat
  size : Nat
deriving DecidableEq, Repr

/-- A write of REARM: its value, and whether a new seal has been fitted since the old one broke (R429). -/
structure RearmIn where
  value : Word
  fitted : Bool
deriving DecidableEq, Repr

/-- Where a correctable error lies and how it was found: its row, its address in the tier, and whether a read-modify-write found
it (R176). -/
structure SoftError where
  row : Nat
  addr : Nat
  rmw : Bool
deriving DecidableEq, Repr

/-- A cable as its management interface describes it (R412). -/
structure Cable where
  cmisOk : Bool
  app106 : Bool
deriving DecidableEq, Repr

/-- A part entry of a manifest (R445), with what the checks of its region find (R446): both signatures, the tag, the digest. The
manifest itself, as KIND 7, has the digest of its header and entries. -/
structure PartCheck where
  kind : Nat
  svn : Nat
  version : Nat
  offset : Nat
  length : Nat
  digest : BitVec 384
  signatureOk : Bool
  tagOk : Bool
  digestOk : Bool
deriving DecidableEq, Repr

/-- A staged bank: its manifest, six parts, FLEET, FW_VERSION and SETTINGS_FORMAT (R445), and the RILAM versions that its firmware
accepts. -/
structure BankImage where
  manifest : PartCheck
  parts : List PartCheck
  fleet : Nat
  fwVersion : Nat
  settingsFormat : Nat
  rilamMin : Nat
  rilamMax : Nat
deriving DecidableEq, Repr

/-- One warden of the two. -/
inductive Warden where
  | A
  | B
deriving DecidableEq, Repr

/-! ## The commands and events: one constructor per row of spec/opcode_table.json -/

inductive Instr where
  -- commands of the opcode table of R119
  | identify (h : Hdr)
  | setTide (h : Hdr) (periodQ swellLen : Nat)
  | setTimebase (h : Hdr) (source domain : Nat)
  | getHealth (h : Hdr)
  | polderCreate (h : Hdr) (cls sluices bwWeight sramMiB hbmUnits spillGiB : Nat)
  | polderDestroy (h : Hdr)
  | polderReset (h : Hdr)
  | polderQuery (h : Hdr)
  | setTokenBudget (h : Hdr) (refill burst : Nat)
  | graphLoad (h : Hdr) (handle t d imageLen : Nat) (img : Image)
  | graphUnload (h : Hdr) (handle : Nat)
  | graphQueryPlacement (h : Hdr) (handle : Nat) (buf : Buf)
  | runAtTide (h : Hdr) (handle run deadline descCount : Nat) (descs : List Desc) (fault : Bool)
  | runPeriodic (h : Hdr) (handle run period deadline descCount count : Nat) (descs : List Desc) (fault : Bool)
  | streamBind (h : Hdr) (rank port srcLocal handle unbind srcMod : Nat)
  | runStop (h : Hdr) (handle run : Nat)
  | modelVariantAdd (h : Hdr) (handle variant imageLen : Nat) (img : Image)
  | requestSubmit (h : Hdr) (handle variant deadline reqLen : Nat) (req : ReqDesc)
  | requestCancel (h : Hdr) (reqSeq : Word) (reqSluice : Nat)
  | commonsJoin (h : Hdr) (group : Nat)
  | codecSessionOpen (h : Hdr) (kind profile width height interval : Nat) (cfg : CodecCfg)
  | codecSessionClose (h : Hdr) (session : Nat)
  | codecPicture (h : Hdr) (session inLen : Nat) (inAddr outAddr : Word64) (out : OutArea)
  | setPhaseOp (h : Hdr) (ops : List Nat)
  | setPowerCap (h : Hdr) (capW windowS leaseS orphanW : Nat)
  | getTelemetry (h : Hdr) (buf : Buf)
  | safetyProfileSet (h : Hdr) (sShare qAdmit : Nat)
  | goldenSet (h : Hdr) (handle : Nat) (digest : BitVec 128)
  | breachLogRead (h : Hdr) (first : Nat) (buf : Buf)
  | attest (h : Hdr) (nonce : BitVec 256) (buf : Buf)
  | keyRotateMemory (h : Hdr)
  | keyRotateLink (h : Hdr) (key : Nat)
  | lifecycleAdvance (h : Hdr) (target : Nat)
  | fwStage (h : Hdr) (offset len : Nat) (last : Bool) (buf : Buf) (image : BankImage)
  | fwVerify (h : Hdr)
  | fwActivate (h : Hdr) (condition : Nat) (overrun : Option (Nat × Nat))
  | selftestReport (h : Hdr) (buf : Buf)
  | debugUnlock (h : Hdr) (scope : Nat)
  | tidePreset (h : Hdr) (epoch tn : Nat)
  | linkConfig (h : Hdr) (portMask enableMask : Byte) (index : Nat)
  | linkStatus (h : Hdr) (port : Nat)
  -- register accesses of the host
  | sluiceEnable (fn : Fn) (n : Nat) (value : Word)
  | sluiceDisable (fn : Fn) (n : Nat) (value : Word)
  | doorbell (fn : Fn) (n : Nat) (value : Word)
  | cplOnly (fn : Fn) (n : Nat) (value : Word)
  | ringFaultClear (fn : Fn) (n : Nat) (data : WriteIn)
  | tideNowLoRead (fn : Fn) (read : ReadIn)
  | rearm (data : RearmIn)
  | modCtrClr (value : Word)
  | vfCtrClr (p : Nat) (value : Word)
  | arbClrClear (value : Word)
  | arbClrClearAll (value : Word)
  | scrClr (io : Nat) (value : Word)
  | dormantRequest
  | dormantWakeWrite
  | holdSet (hub : Nat)
  | holdRelease (hub : Nat)
  | registerWrite (fn : Fn) (offset size : Nat) (data : WriteIn)
  -- interrupt hub and host link
  | interruptClaim (hub core : Nat)
  | endOfInterrupt (hub core : Nat)
  | msixUnmask (fn : Fn) (vector : Nat)
  | busMasterEnable (fn : Fn)
  | numVfsEnable (n : Nat)
  | pcieConventionalReset
  | pf0FunctionLevelReset (link : Nat)
  | vfFunctionLevelReset (p : Nat)
  | ringBusError (fn : Fn) (n : Nat)
  -- presence, seal, supplies
  | presenceHoldTimeout
  | presenceAssert
  | presenceDeassert
  | buttonStuck
  | sealBreak
  | glitchDetect (clock : Bool)
  | wipeDone (io : Nat)
  | mateSenseOpen (pin : Nat)
  | switch48vClose (boot : BootIn)
  | aonPowerOn (w : Warden) (slotId : Nat)
  | auxWarn (w : Warden) (tenMv : Nat)
  | auxWarnEnd (w : Warden) (tenMv : Nat)
  | auxOff (w : Warden)
  | auxRise (w : Warden) (tenMv : Nat)
  | sagWarn (tenMv : Nat)
  | sagWarnEnd (tenMv : Nat)
  | trip48 (tenMv : Nat)
  | supplyRestart (boot : BootIn)
  | brakeAssert
  | brakeRelease
  -- coolant and heat
  | coolantSample (flow : Nat) (inlet outlet : Int) (hotRise : Bool)
  | flowWarning
  | flowWarningEnd
  | flowBShed
  | flowBShedEnd
  | coolantStop
  | coolantStopEnd
  | coolantRestart (boot : BootIn)
  | thermalComparatorTrip (hotspot : Nat) (a b : Int)
  -- tide and power
  | tideEdge (e : EdgeIn)
  | timeAlignFault
  | leaseExpiry
  | rungClimb
  | rungLift
  | powerModelMismatch
  | sensorSuspect (hotspot : Nat)
  | gptpSync (port : Nat) (domain : Nat) (offsetNs : Int)
  | syncTimeout
  -- clocks
  | clockMonitorFlag (domain : Nat) (duringSwitch : Bool)
  | clockWatchdogExpiry (domain : Nat)
  | judgeWindow (osc : Nat) (ratioPpm : Int)
  | rejudgeTimer (osc : Nat)
  | controlCoreWatchdog (io core : Nat)
  -- inputs, checks and memory
  | inputArrival (d : Datum)
  | arithCheck (polder run inv stack tile unit : Nat)
  /-- `stack`: the compute stack of SRAM, the DRAM stack of HBM, the channel of the spillway. -/
  | uncorrectable (polder : Nat) (tier : Tier) (tensor stack tile row : Nat) (error : HardError)
  | correctableError (polder : Nat) (tier : Tier) (error : SoftError)
  | arbiterStarvation (inst input : Nat)
  | scratchpadAccess (io : Nat) (accesses : List ScrAccess)
  | scrubDone (job : Nat)
  | scrubPending (fn : Fn) (sluice : Nat) (seq : Word)
  | keySweepDone (p : Nat)
  | kvCopyDone (p sluice : Nat) (seq : Word) (page : Nat)
  -- self-test, promotion, vote and wardens
  | selftestSliceEnd (stack tile item number : Nat) (passed : Bool)
  | slicePreempt (stack tile : Nat)
  | promotionCopyDone (ok : Bool)
  | resultReady (polder run channel : Nat) (payload : List Byte)
  | voteFrame (w : Warden) (f : VoteFrame)
  | voteCutoff (w : Warden)
  | verdict (w : Warden) (lines : List VerdictLine)
  | segmentSent (w : Warden) (port : Nat)
  | wardenTideMark (w : Warden) (count : Nat) (relabel late : Bool)
  | tideMarkMissing (w : Warden)
  | fallbackPointRelease (w : Warden)
  | wardenBootDone (w : Warden) (injectionOk : Bool)
  | wardenLockstepMismatch (w : Warden)
  -- codec engine
  | codecSliceDone (session index : Nat) (payload : List Byte) (rows : List Nat)
  | codecCore (core : Nat)
  -- DORMANT and activation
  | dormantEntryDone
  | dormantWake
  | wardenTrialBoot (w : Warden) (reachedVoting : Bool)
  -- Levee
  | cableDetect (port : Nat) (cable : Cable)
  | trainingTimeout (port : Nat)
  | laneFailure (port lane : Nat)
  | portDown (port : Nat)
  | authFrame (f : AuthFrame)
  | authRetry (peer : Nat)
  | dataFrame (f : DataFrame)
  | controlFrame (f : ControlFrame)
  | peerFailed (member : Nat)
  | codewordUncorrectable (port : Nat)
  | keySwitchTimeout (peer : Nat)
  -- security
  | attestSigned (fn : Fn)
  | breachLogFlush
  | getMeasurements (fn : Fn) (nonce : BitVec 256)
  | ideKm (fn : Fn) (stream : Nat)
  | lockInterfaceRequest (p : Nat)
  | getDeviceInterfaceReport (p : Nat)
  | stopInterfaceRequest (p : Nat)
  | ideIntegrityFailure (p : Nat)
  | spdmSessionEnd (fn : Fn)
  -- management bus
  | readVin (addr : Nat)
  | readIin (addr : Nat)
  | readTemperature1 (addr : Nat)
  | readTemperature2 (addr : Nat)
  | readPin (addr : Nat)
  -- debug port
  | tapInstruction (code : Byte)
  | dbgSelect (seq : Byte) (target : Nat)
  | dbgHalt (seq : Byte)
  | dbgResume (seq : Byte)
  | dbgStep (seq : Byte) (arg : Nat)
  | dbgBreakSet (seq : Byte) (slot : Nat) (addr : Word64)
  | dbgBreakClear (seq : Byte) (slot : Nat)
  | dbgSetAddr (seq : Byte) (space : Nat) (addr : Word64)
  | dbgRead (seq : Byte)
  | dbgWrite (seq : Byte) (data : Word64)
  | dbgStatus (seq : Byte)
  | breakpointHit (target slot : Nat) (stepEnd : Bool) (pc : Word64)
  -- decisions and ends of work
  | admissionDecision (plans : List Plan)
  | quantumEnd (q : QuantumEnd)
  | edgeBand
  | codecPictureDone (codedBytes : Nat) (planes : List Byte) (found : DecodeFound) (refs : List Nat) (order : Int)
      (head : PictureHead)
  -- links, signals and timers
  | trainingStepDone (port : Nat)
  | hopAcknowledgement (port : Nat) (count : Nat)
  | lossOfSignal (domain : Nat)
  | signalReturn (domain : Nat)
  | buttonRelease
  | coalescingTimer (hub source : Nat)
  | ihTgtThrWrite (fn : Fn) (offset : Nat) (value : Word)
  | hostLinkDown
  -- SPDM, TDISP, firmware ends
  | keyExchange (fn : Fn)
  | challenge (fn : Fn) (nonce : BitVec 256)
  | startInterfaceRequest (p : Nat)
  | fwStageDone
  | fwVerifyDone
deriving DecidableEq, Repr

end Sys2Proof
end

