-- ==== Sys2Proof/Config.lean ====
section
/-! DEFINITION. Config.lean: what an implementation fixes, and the free values. An opaque constant here has no
body that a proof can see, so a claim holds whatever it is. The figures are those of R5, R37, R79, R82,
R312, R358 and the capacity tables. -/

namespace Sys2Proof.Config

/-! ## Free values (assumption logs 3 to 9, 40, 50 and 63) -/

/-- Vector functions of R161, whose result is fixed only to an accuracy: function number and FP32 input. -/
opaque vectorFn : Nat → Word → Word
/-- What a comparison of the vector unit writes, by format and operands: R160 states neither the relation nor the result. -/
opaque compareResult : Nat → Word → Word → Word
/-- The softmax of a row of kept logits at one position (R161, R271). -/
opaque softmaxAt : List Word → Nat → Word
/-- A row through softmax or a normalisation (R161): number, epsilon, the row, and the position. -/
opaque rowFn : Nat → Word → List Word → Nat → Word
/-- The key of an invocation's generator of random bits, from the module's random source, by the draw (R154). -/
opaque invocationKey : Nat → Word64
/-- Whether a mean that lies between two whole numbers is rounded up, by its sum and count (R301; assumption log 73). -/
opaque meanUp : Nat → Nat → Bool
/-- heat_limit of an edge (R376), by the fresh counter; the thermal model's coefficients are fitted. -/
opaque heatLimit : Nat → Nat
/-- Highest forecast of a hotspot over the next 50 tides (R376), by hotspot and the fresh counter. -/
opaque forecast : Nat → Nat → Int
/-- The pace n of a hotspot's tile (R377), by hotspot and the fresh counter. -/
opaque tilePace : Nat → Nat → Nat
/-- Forecast mean power in W of the next 50 tides at an operating point and rung (R368). -/
opaque forecastPower : Nat → Nat → Nat → Nat
/-- The input current in 10 mA at a measured power (R386), by the fresh counter. -/
opaque inputCurrent : Nat → Nat
/-- SHA-384 of bytes. -/
opaque sha384 : List Byte → BitVec 384
/-- First 128 bits of SHA-256 of bytes (R310, R348). -/
opaque sha256Head : List Byte → BitVec 128
/-- First 128 bits of HMAC-SHA-256 of bytes under a prefix key (R264). -/
opaque hmacHead : BitVec 256 → List Byte → BitVec 128
/-- RSA signature bytes and SLH-DSA signature bytes (R440). -/
opaque rsaSign : List Byte → List Byte
opaque slhSign : List Byte → List Byte
/-- The two public keys of the attestation key pairs (R430, R440). -/
opaque rsaPublic : List Byte
opaque slhPublic : List Byte
/-- SHA-384 of an active firmware part, by version and manifest index (R440). -/
opaque partDigest : Nat → Nat → BitVec 384
/-- Version of an active firmware part, by FW_VERSION and manifest index (R440). -/
opaque partVersion : Nat → Nat → Nat
/-- Words that the spec bounds or names and does not state, by the fresh counter. -/
opaque freeWord : Nat → Word

/-- Whether a decision of a tide came after the whole second that lies within that tide (R55), by the fresh counter. -/
opaque secondPassed : Nat → Bool

/-- The tile 32s+n to which the k-th tile use of a move goes, and the tides until the move's edge (R95), by the fresh
counter. -/
opaque newPlace : Nat → Nat → Nat
opaque moveTides : Nat → Nat

/-- Quarter-ms that the phases 1 to 7 of a warm restart or an activation pause take, and those until the
control cores start, each within its bound (R330, R458), by the fresh counter. -/
opaque restartQuarters : Nat → Nat
opaque darkQuarters : Nat → Nat

/-- AES-256-XTS of a 4 KiB page: key, tweak (frame number and tier) and plaintext (R180). -/
opaque xts : BitVec 512 → Nat × Nat → List Byte → List Byte
/-- 512 bits of the counter-mode KDF of NIST SP 800-108r1 with HMAC-SHA-384 (R431): by root (0 memory, 1 link, 2
firmware-image), its input (label, zero byte, context), and how often the module has derived before with that input. -/
opaque kdf : Nat → List Byte → Nat → BitVec 512
/-- The nonce of this module in an AUTH exchange, by the fresh counter (R413). -/
opaque authNonce : Nat → BitVec 256
/-- The check codes of one 64-byte line of the spillway, 4 bytes (R174, R176). -/
opaque spillCode : List Byte → BitVec 32
/-- What training finds for a DRAM stack (0 to 7) or a spillway channel (8 to 23), by the fresh counter (R175). -/
opaque trainingValue : Nat → Nat → Nat
/-- What the pacing calendar adds to a turn hint, by instance and the fresh counter (R192). -/
opaque paceCalendar : Nat → Nat → Nat
/-- Rows that post-package repair can replace in a device over life (R179). -/
opaque repairLimit : Nat → Nat

/-- Which of the sources 1,696 to 1,759 of a hub an event of the module raises (R401), by event. -/
opaque eventSource : Nat → Nat

/-- Bytes of the local memory of a debug unit other than a tile sequencer, and of a warden's SRAM, by unit and space (R465). -/
opaque unitMemory : Nat → Nat → Nat
/-- What stands in that memory, by the fresh counter. -/
opaque unitByte : Nat → Byte
/-- The program counter of a debug unit, and a RESULT that R464 does not state, by the fresh counter. -/
opaque unitPc : Nat → Word64
opaque unstatedResult : Nat → Nat

/-! ## Figures -/

/-- E, the edge band, in ns (R79). -/
def edgeBandNs : Nat := 20000
/-- The vote cut-off lies this many ns before the edge band (R312). -/
def cutoffLeadNs : Nat := 30000
/-- One quarter-millisecond in ns. -/
def quarterNs : Nat := 250000
/-- Arithmetic clock of an operating point in MHz (R358). -/
def clockMhz : Nat → Nat
  | 0 => 600
  | 1 => 720
  | 2 => 830
  | 3 => 940
  | 4 => 1050
  | 5 => 1160
  | 6 => 1280
  | _ => 1400
/-- Core voltage of an operating point in mV (R358). -/
def coreMv : Nat → Nat
  | 0 => 620
  | 1 => 650
  | 2 => 680
  | 3 => 710
  | 4 => 740
  | 5 => 770
  | 6 => 810
  | _ => 850
/-- Full-load power of an operating point in W (R358). -/
def fullLoadW : Nat → Nat
  | 0 => 650
  | 1 => 745
  | 2 => 845
  | 3 => 960
  | 4 => 1090
  | 5 => 1235
  | 6 => 1430
  | _ => 1650
/-- Allocatable SRAM in MiB, HBM in 256 MiB units, spillway in GiB (R72). -/
def allocSram : Nat := 6016
def allocHbm : Nat := 752
def allocSpill : Nat := 512
/-- Allocatable SRAM of one tile in KiB (R72). -/
def tileSramKiB : Nat := 48128
/-- Channel capacities in bytes per microsecond (R89): HBM stack, spillway half, die-to-die link. -/
def hbmBytesPerUs : Nat := 1225000
def spillBytesPerUs : Nat := 273000
def d2dBytesPerUs : Nat := 1000000
/-- Class S results per second (R5, R87). -/
def resultsPerSecond : Nat := 24000
/-- Prefix-store entries per key (R265). -/
def pfxLimit : Nat := 65536
/-- Breach-log entries kept (R354). -/
def logLimit : Nat := 16384
/-- Rated flow in mL/min: 3,000 for a C fit, 4,000 for a V fit (R380). -/
def ratedFlow (cabinet : Bool) : Nat := if cabinet then 3000 else 4000
/-- IDCODE (R462). -/
def idcode : Word := 0x09640A5D

end Sys2Proof.Config
end

