-- ==== Sys2Proof/Machine/State.lean ====
section
/-! DEFINITION. Machine/State.lean: the state of the module as plain data, its faults and refusals, and
State.reset. Each field's docstring gives: what it holds | width or range | the rule | its reset value.
Tides are kept by their elapsed index (`ix`), which no relabel changes (R55); the label of a tide is its
48-bit count. Times of edges are in quarter-milliseconds of the TIME domain. -/

namespace Sys2Proof.Machine

/-- A sparse table: key and value, keys strictly ascending. -/
abbrev Table (α : Type) := List (Nat × α)

/-! ## Statuses, reasons, completions and outputs -/

/-- Status codes of R124. -/
inductive Status where
  | ok
  | accepted
  | badOpcode
  | badParam
  | notPermitted
  | presenceRequired
  | noFit
  | overrunRisk
  | quota
  | kvFull
  | cancelled
  | deadlineMissed
  | alreadyDone
  | breach
  | polderReset
  | dataError
  | verifyFail
  | rollbackDenied
  | capUnattainable
deriving DecidableEq, Repr

/-- Reason codes of R91 and R125. -/
inductive Reason where
  | none
  | seqOrder
  | seqRepeat
  | targetPast
  | targetInvalid
  | wrongFunction
  | wrongPolder
  | busyAdmitted
  | runsActive
  | presenceTimeout
  | presenceBusy
  | lifecycle
  | scrubPending
  | bufferFault
  | bufferShort
  | noGraph
  | handleInUse
  | fieldRange
  | counterExhausted
  | noCondition
  | peerFailed
  | imageDigest
  | imageVersion
  | unknownSection
  | operatorLimit
  | classMismatch
  | timingRange
  | missingSection
  | resultSize
  | sramQuota
  | hbmQuota
  | spillQuota
  | graphCount
  | noSpare
  | sramSpace
  | memorySpace
  | sWindow
  | resultRate
  | qbWindow
  | degradedQ
  | bandwidth
  | singleQuantum
deriving DecidableEq, Repr

/-- A completion record (32 bytes): the fields of the completion layout; PAYLOAD is bytes 16 to 31. -/
structure Completion where
  seq : Word
  status : Status
  phase : Bool
  final : Bool
  lateInput : Bool
  shed : Bool
  dropped : Bool
  held : Bool
  opcode : Nat
  epoch : Nat
  tn : Nat
  reason : Reason
  payload : List Byte
deriving DecidableEq, Repr

/-- A segment that a warden offers to one of its ports: the output header of R316 without its reserved
bytes, and the segment's payload bytes. -/
structure Segment where
  port : Nat
  tag : Tag
  bootEpoch : Nat
  warden : Warden
  fallback : Bool
  seg : Nat
  segs : Nat
  len : Nat
  point : Nat
  dual : Bool
  carries : Bool
  repeat_ : Bool
  digest : BitVec 128
  bytes : List Byte
deriving DecidableEq, Repr

/-- What the module puts on a pin or a bus: the model's record of its outputs. -/
inductive Out where
  | completion (fn : Fn) (sluice slot : Nat) (c : Completion)
  | hostWrite (fn : Fn) (addr : Word64) (bytes : List Byte)
  | msix (fn : Fn) (vector : Nat)
  | coreInterrupt (hub source : Nat)
  | busRead (fn : Fn) (offset : Nat) (value : Word)
  | tideMark (w : Warden) (count : Nat) (relabel : Bool)
  | schedule (polder run period deadline : Nat) (seq : Word) (ended : Bool)
  | segment (s : Segment) (bytes : List Byte)
  | voteFrame (w : Warden) (f : VoteFrame) (bytes : List Byte)
  | verdict (w : Warden) (lines : List VerdictLine)
  | leveeControl (peer port tide epochNext timeState hops keeper opTarget periodQ : Nat) (tEcho tEchoRx : Int)
      (relabel period key : Bool) (atTide relabelTo : Nat) (records : List LinkRecord)
  | leveeResend (port frames : Nat)
  | leveeInput (peer port : Nat) (tag : Tag) (consumer : Consumer) (payload : List Byte)
  | leveeAuth (port index fleet fwVersion periodQ : Nat) (nonce : BitVec 256)
  | forwarded (origin : Nat) (seq : Word) (cmd : Forwarded)
  | codecRecord (session type index picture len arg : Nat) (seq : Word) (flags : Nat)
  | spdm (fn : Fn) (busy : Bool) (bytes : List Byte)
  | tdisp (p : Nat) (accepted : Bool) (bytes : List Byte)
  | pmbus (cmd : Nat) (value : Half)
  | memoryPins (tier frame : Nat) (cipher : List Byte)
  | scrubPins (tier base frames : Nat)
  | idcode (value : Word)
  | dtrans (cmd : Nat) (seq : Byte) (result : Nat) (data : Word64) (state : Nat)
deriving DecidableEq, Repr

/-! ## Identity, life cycle and flash -/

/-- Life-cycle states (R424). -/
inductive Lifecycle where
  | blank
  | sealed
  | service
  | decommissioned
deriving DecidableEq, Repr

structure Ident where
  /-- cabinet fit (C) or vehicle fit (V) | 1 bit | R1, R473 | DC V (bit 0; from fuses) -/
  cabinet : Bool := false
  /-- fleet code | 16 bits | R1, R473 | DC 0x0001 (from fuses; 0x0000 is not issued) -/
  fleet : Nat := 1
  /-- serial number | 48 bits | R119 | DC 0 -/
  serial : Nat := 0
  /-- FW_VERSION of the running firmware | 32 bits | R119, R468 | DC 1 -/
  fwVersion : Nat := 1
  /-- RILAM_MIN | 16 bits | R477 | 1 -/
  rilamMin : Nat := 1
  /-- RILAM_MAX | 16 bits | R477 | 1 -/
  rilamMax : Nat := 1
  /-- active parts in manifest order, the manifest last: KIND, version, digest | 7 entries | R440, R446 | DC empty: those as shipped, free -/
  parts : List (Nat × Nat × BitVec 384) := []
  /-- life-cycle state, in fuses | 2 bits | R424 | SEALED (the state in which modules ship) -/
  lifecycle : Lifecycle := .sealed
  /-- every root fuse programmed | 1 bit | R425, R430 | true (a SEALED module) -/
  rootsFused : Bool := true
  /-- decommission fuse | 1 bit | R427 | false -/
  decommissionFuse : Bool := false
  /-- entries to SERVICE over life, fuses | 0 to 64 | R425 | DC 0 -/
  serviceEntries : Nat := 0
  /-- DEBUG_UNLOCK commands over life, fuses | 0 to 32 | R437 | DC 0 -/
  debugUnlocks : Nat := 0
  /-- anti-rollback counter, fuses | 16 bits | R447 | DC 0 -/
  antiRollback : Nat := 0
  /-- the 65 monotonic key counters, fuses (unlisted: 0) | 65 x 16 bits | R432 | DC 0 -/
  keyCounters : Table Nat := []
  /-- DEBUG_OPEN | 1 bit | R429, R437 | 0 -/
  debugOpen : Bool := false
  /-- WARDEN_DEBUG | 1 bit | R429, R437 | 0 -/
  wardenDebug : Bool := false
  /-- DEBUG byte of the key derivations | 1 bit | R431, R437 | 0 -/
  debugDerivation : Bool := false
deriving DecidableEq, Repr

/-- A settings record: the SETTINGS_FORMAT that wrote it and its values (R460). -/
structure SettingRec where
  /-- SETTINGS_FORMAT of the firmware that wrote the record | 16 bits | R460 | written with the record -/
  format : Nat
  /-- its first value | 16 bits | R460 | written with the record -/
  a : Nat
  /-- its second value | 16 bits | R460 | written with the record -/
  b : Nat
deriving DecidableEq, Repr

structure Flash where
  /-- bank pointer: the active bank | 1 bit | R444 | DC 0 -/
  bankPointer : Nat := 0
  /-- epoch record: last epoch used (0: never run) | 16 bits | R48 | 0 (a module that has never run) -/
  epochRec : Nat := 0
  /-- installation index, none while never set | 9 bits | R411 | none (never set) -/
  index : Option Nat := none
  /-- settings record 0: tide period and SWELL_LEN | record | R460 | 4 quarters and 50 -/
  recTide : SettingRec := ⟨1, 4, 50⟩
  /-- settings record 1: time source and domain | record | R460 | no source, domain 0 -/
  recTime : SettingRec := ⟨1, 0, 0⟩
  /-- settings record 2: S_SHARE (5% steps) and Q_ADMIT_OP | record | R460 | 8 (40%) and OP7 -/
  recSafety : SettingRec := ⟨1, 8, 7⟩
  /-- settings record 3: Levee port enables | record | R460 | all ports enabled -/
  recPorts : SettingRec := ⟨1, 255, 0⟩
  /-- SETTINGS_FORMAT of the running firmware | 16 bits | R445 | DC 1 -/
  settingsFormat : Nat := 1
  /-- breach-log entries copied to flash | index | R354 | 0 -/
  breachCopied : Nat := 0
  /-- DRAM rows to be replaced at the next cold start, as 2^32 x device + row | list | R179 | empty -/
  repairRows : List Nat := []
  /-- correctable errors of DRAM rows since cold start | per row | R179 | empty -/
  rowErrors : Table Nat := []
  /-- rows repaired over life, by DRAM stack (0 to 7) and spillway channel (8 to 23) | per device | R179 | DC 0 -/
  repaired : Table Nat := []
  /-- the inactive bank's staged image | bank | R454 | none -/
  staged : Option BankImage := none
  /-- an end of the staged image is recorded | 1 bit | R454 | false -/
  stagedEnd : Bool := false
  /-- the inactive bank is marked verified | 1 bit | R455 | false -/
  verified : Bool := false
  /-- bytes staged into the inactive bank: (offset, length) | list | R454 | empty -/
  stagedChunks : List (Nat × Nat) := []
deriving DecidableEq, Repr

/-! ## Always-on logic: supplies, presence, seal, pins -/

/-- A command held for presence, or an arrival-applied command that still owes its final completion. -/
structure OpenCmd where
  /-- the command | record | R106, R126 | as it comes -/
  cmd : Instr
  /-- its intake tide (elapsed) | 48 bits | R126 | as it comes -/
  intakeIx : Nat
deriving DecidableEq, Repr

structure Aon where
  /-- the AON logic is powered | 1 bit | R17 | true (R448: running when a cold start begins) -/
  up : Bool := true
  /-- 48 V input in 10 mV | 16 bits | R18, R385 | DC 4800 (nominal) -/
  vin48 : Nat := 4800
  /-- AUX12_A in 10 mV | 16 bits | R385 | DC 1200 (nominal) -/
  auxA : Nat := 1200
  /-- AUX12_B in 10 mV | 16 bits | R385 | DC 1200 (nominal) -/
  auxB : Nat := 1200
  /-- auxiliary input A is present (has not fallen below 8 V) | 1 bit | R383 | true -/
  auxAOn : Bool := true
  /-- auxiliary input B is present | 1 bit | R383 | true -/
  auxBOn : Bool := true
  /-- 48 V switch closed | 1 bit | R20 | true (a cold start begins with its closing) -/
  switchClosed : Bool := true
  /-- both MATE_SENSE pins mated | 1 bit | R20 | true -/
  mated : Bool := true
  /-- SLOT_ID read at AON power-up | 5 bits | R22 | DC 0 -/
  slotId : Nat := 0
  /-- SAG_WARN | 1 bit | R473 | 0 -/
  sagWarn : Bool := false
  /-- SAG_SEEN | 1 bit | R473 | 0 -/
  sagSeen : Bool := false
  /-- TRIP48_SEEN | 1 bit | R473 | 0 -/
  trip48Seen : Bool := false
  /-- AUXA_WARN | 1 bit | R473 | 0 -/
  auxAWarn : Bool := false
  /-- AUXB_WARN | 1 bit | R473 | 0 -/
  auxBWarn : Bool := false
  /-- AUXA_OFF_SEEN | 1 bit | R473 | 0 -/
  auxAOffSeen : Bool := false
  /-- AUXB_OFF_SEEN | 1 bit | R473 | 0 -/
  auxBOffSeen : Bool := false
  /-- SAG_COUNT | 16 bits | R473 | 0x0000 -/
  sagCount : Nat := 0
  /-- PWR_BRAKE_N filtered low | 1 bit | R369 | DC false (the bay pulls it up, R23) -/
  brakeLow : Bool := false
  /-- presence asserted | 1 bit | R428, R429 | 0 -/
  presence : Bool := false
  /-- service button held | 1 bit | R428 | false -/
  buttonHeld : Bool := false
  /-- stuck-button lockout | 1 bit | R428 | false -/
  buttonLockout : Bool := false
  /-- WINDOW: seconds left | 8 bits | R429 | 0x00 -/
  window : Nat := 0
  /-- quarter-ms left of the presence window after the button's release (the model's own) | count | R428, R429 | 0 -/
  windowQ : Nat := 0
  /-- BROKEN | 1 bit | R429 | 0 as shipped -/
  broken : Bool := false
  /-- SENSE | 1 bit | R429 | 1 -/
  sense : Bool := true
  /-- BREAKS | 16 bits | R429 | 0x0000 as shipped -/
  breaks : Nat := 0
  /-- the command held for presence | command | R126, R127 | none -/
  held : Option OpenCmd := none
  /-- the start-up self-test has failed (FLT at 4 Hz) | 1 bit | R28, R449 | false -/
  startFailed : Bool := false
  /-- a breach that calls for replacement since the cold start (FLT steady) | 1 bit | R28 | false -/
  replace : Bool := false
  /-- fewer than three usable stacks at the cold start (FLT steady) | 1 bit | R450 | false -/
  noClassS : Bool := false
  /-- last hottest reading held for READ_TEMPERATURE_1 | °C | R386 | DC 0 -/
  heldHottest : Int := 0
  /-- READ_VIN as of the last edge, in 10 mV | number | R386 | DC 0 -/
  edgeVin : Nat := 0
  /-- fresh counter of the last edge, to which the free input current is applied (the model's own) | count | R386 | 0 -/
  edgeIin : Nat := 0
  /-- why the main package is down: the row of R326 that powered it down, 9 withdrawn, 10 a 48 V trip | 1 to 10 | R20, R326, R383 | none -/
  downRow : Option Nat := none
  /-- loss of the AON clock to be recorded when it returns | 1 bit | R396 | false -/
  clockLost : Bool := false
deriving DecidableEq, Repr

/-! ## Tides and time -/

/-- Time states (R43). -/
inductive TimeState where
  | free
  | acquire
  | locked
  | follow
  | holdover
deriving DecidableEq, Repr

/-- A SET_TIDE that has been accepted (R54), with its effect edge in quarter-ms and the answering command. -/
structure PeriodChange where
  /-- the period that takes effect | 1 to 40 quarter-ms | R37, R54 | set by SET_TIDE -/
  periodQ : Nat
  /-- SWELL_LEN that takes effect | 1 to 1,024 | R53, R54 | set by SET_TIDE -/
  swellLen : Nat
  /-- time of its effect edge | quarter-ms | R54 | set by SET_TIDE -/
  atQ : Nat
  /-- the command that it answers, none for a forwarded one | record | R54, R130 | set by SET_TIDE -/
  cmd : Option Instr
  /-- every member has accepted it, as its origin's announcement or the statuses say | 1 bit | R130, R421 | set with the change -/
  firm : Bool := true
deriving DecidableEq, Repr

/-- A relabel that has been decided (R55): new count, earliest whole second, and the answering command. -/
structure Relabel where
  /-- the count of the first tide at the new labels | 48 bits | R55 | set by TIDE_PRESET or a joined module -/
  count : Nat
  /-- earliest time of its edge, a whole second | quarter-ms | R55 | set with the relabel -/
  atQ : Nat
  /-- the command that it answers, if any | record | R56 | set with the relabel -/
  cmd : Option Instr
  /-- every member has accepted it, as its origin's announcement or the statuses say | 1 bit | R130, R421 | set with the relabel -/
  firm : Bool := true
deriving DecidableEq, Repr

/-- An input awaiting the edge at which it becomes visible (R61). -/
structure Waiting where
  /-- the input's tag | 10 bytes | R57, R58 | as the input came -/
  tag : Tag
  /-- label of its intake tide | 48 bits | R60 | as the input came -/
  intakeCount : Nat
  /-- elapsed index of the edge at which it becomes visible | 48 bits | R61 | intake + 1, linked + 2 -/
  visibleIx : Nat
  /-- the port or session that takes it | record | R284 | from its binding -/
  consumer : Consumer
  /-- its rank, source, SEQ and payload | record | R57 | as the input came -/
  datum : Datum
deriving DecidableEq, Repr

/-- A tide-launched command that has passed its arrival checks: intake and the edge at which it applies,
both as elapsed indices, and its ordering key (R62, R114). -/
structure Queued where
  /-- the command | record | R114 | as it came -/
  cmd : Instr
  /-- elapsed index of its intake tide | 48 bits | R114 | as it came -/
  intakeIx : Nat
  /-- elapsed index of the edge at which it applies | 48 bits | R114, R115 | intake + 1 or its target -/
  dueIx : Nat
  /-- its ordering key | 10 bytes | R58, R62 | from its sluice and SEQ -/
  tag : Tag
deriving DecidableEq, Repr

structure Tide where
  /-- tides are being formed (the first tide has started) | 1 bit | R38, R451 | false -/
  running : Bool := false
  /-- BOOT_STAGE | 4 bits | R448, R473 | 0x5 -/
  bootStage : Nat := 5
  /-- PERIOD_Q in force | 1 to 40 | R37 | 4 (from flash; default) -/
  periodQ : Nat := 4
  /-- SWELL_LEN in force | 1 to 1024 | R53 | 50 -/
  swellLen : Nat := 50
  /-- 48-bit tide count of the tide in progress (epoch, TN) | 48 bits | R47, R473 | 0 -/
  count : Nat := 0
  /-- elapsed index of the tide in progress (the model's own) | count | R55 | 0 -/
  ix : Nat := 0
  /-- 48-bit tide count of the tide that closed last (the model's own) | 48 bits | R55 | 0 -/
  closedCount : Nat := 0
  /-- gPTP time of the opening edge of the tide in progress | quarter-ms | R38 | DC 0 -/
  nowQ : Nat := 0
  /-- tide origin S0 | quarter-ms | R38 | DC 0 -/
  originQ : Nat := 0
  /-- first tide of swell 0 | elapsed index | R53 | 0 -/
  swellIx : Nat := 0
  /-- epoch opened at the last cold start (BOOT_EPOCH) | 16 bits | R316, R431 | 0 (before the first tide) -/
  bootEpoch : Nat := 0
  /-- the grid that an installation gives the first tide on joining | record | R50 | none -/
  join : Option Join := none
  /-- the epoch that the last cold start would open by itself (EPOCH_NEXT) | 16 bits | R48, R50, R418 | 0 (before the first tide) -/
  epochNext : Nat := 0
  /-- spans of labels, newest first: elapsed index and count of the first tide of each (the model's own) | list | R55, R61 | empty -/
  labels : List (Nat × Nat) := []
  /-- EPOCHS_EXHAUSTED | 1 bit | R51 | 0 -/
  exhausted : Bool := false
  /-- EPOCH_LOW | 1 bit | R51 | 0 -/
  epochLow : Bool := false
  /-- accepted period change | record | R54 | none -/
  change : Option PeriodChange := none
  /-- decided relabels, in the order of their edges | records | R55 | none -/
  relabels : List Relabel := []
  /-- the tide in progress is to be discarded at its closing edge | 1 bit | R332 | false -/
  discard : Bool := false
  /-- the edge band of the tide in progress has begun | 1 bit | R81 | false -/
  inBand : Bool := false
  /-- tide-launched commands waiting for their edge | list | R114 | empty -/
  queued : List Queued := []
  /-- inputs waiting for their edge | list | R61 | empty -/
  waiting : List Waiting := []
  /-- per-source SEQ counters | 32 bits each | R59 | 0 at a cold start -/
  srcSeq : Table Nat := []
  /-- ORD_INVALID | 32 bits | R474 | 0 -/
  ordInvalid : Nat := 0
  /-- ORD_LATE | 32 bits | R474 | 0 -/
  ordLate : Nat := 0
  /-- LEVEE_CMD_DROPPED | 32 bits | R474 | 0 -/
  leveeDropped : Nat := 0
  /-- DEAD_DB | 32 bits | R474 | 0 -/
  deadDb : Nat := 0
deriving DecidableEq, Repr

structure Time where
  /-- time state | 3 bits | R43, R473 | FREE -/
  state : TimeState := .free
  /-- SOURCE of SET_TIMEBASE | 0 to 3 | R43 | 0 -/
  source : Nat := 0
  /-- gPTP domain | 0 to 127 | R43 | 0 -/
  domain : Nat := 0
  /-- consecutive Sync intervals within 100 ns | count | R43 | 0 -/
  goodSyncs : Nat := 0
  /-- last measured offset in ns | ns | R43, R419 | 0 -/
  offsetNs : Int := 0
  /-- measured path delay to the source of time in 1/16 ns | 1/16 ns | R419 | 0 -/
  delay16 : Int := 0
  /-- installation index of the keeper followed | 9 bits | R45 | none -/
  keeper : Option Nat := none
  /-- HOPS to the keeper | 0 to 255 | R418 | 255 -/
  hops : Nat := 255
  /-- TIME_ALIGN_FAULT | 1 bit | R42 | 0 -/
  alignFault : Bool := false
  /-- consecutive tides beyond 200 ns | count | R42 | 0 -/
  outTides : Nat := 0
  /-- consecutive tides within 200 ns | count | R42 | 0 -/
  inTides : Nat := 0
deriving DecidableEq, Repr

/-! ## Host side: sluices, functions, interrupt hub -/

/-- A fetched command that is owed a final completion: its SEQ, whether its first completion is still owed,
its intake as an elapsed index, and whether a fence awaits only its first completion (R104, R106). -/
structure Owed where
  /-- SEQ of the command | 32 bits | R106 | as it came -/
  seq : Word
  /-- its first completion is still owed | 1 bit | R110, R117 | true -/
  first : Bool
  /-- elapsed index of its intake tide | 48 bits | R60 | as it came -/
  intakeIx : Nat
  /-- a fence awaits only its first completion | 1 bit | R119 | by its opcode -/
  light : Bool
  /-- number of the command among those that its sluice fetched (the model's own) | count | R117 | the sluice's count -/
  no : Nat := 0
deriving DecidableEq, Repr

/-- A completion gathered during an edge, to be written in merge order at its end (R117). -/
structure Gathered where
  /-- function whose sluice takes the record | 65 | R102 | with the completion -/
  fn : Fn
  /-- number of the sluice | 0 to 15 | R102 | with the completion -/
  sluice : Nat
  /-- elapsed index of its command's intake tide | 48 bits | R117 | with the completion -/
  intakeIx : Nat
  /-- an interim completion | 1 bit | R106, R111 | with the completion -/
  interim : Bool
  /-- the record | 32 bytes | R110 | with the completion -/
  cpl : Completion
deriving DecidableEq, Repr

/-- One sluice's registers and rings (R103 to R107, R113). -/
structure Sluice where
  /-- SLC_CMDBASE_LO/HI | 64 bits | R103 | DC 0 -/
  cmdBase : Word64 := 0
  /-- SLC_CPLBASE_LO/HI | 64 bits | R103 | DC 0 -/
  cplBase : Word64 := 0
  /-- ENABLE | 1 bit | R103 | 0 -/
  enable : Bool := false
  /-- SIZE_LOG2 | 4 bits | R103 | 0x4 -/
  sizeLog2 : Nat := 4
  /-- DEV_MEM | 1 bit | R103 | 0 -/
  devMem : Bool := false
  /-- IRQ_EN | 1 bit | R103 | 0 -/
  irqEn : Bool := false
  /-- CMD_HEAD | 12 bits | R103 | 0 -/
  cmdHead : Nat := 0
  /-- CMD_TAIL | 12 bits | R103 | 0 -/
  cmdTail : Nat := 0
  /-- CPL_HEAD | 12 bits | R103 | 0 -/
  cplHead : Nat := 0
  /-- CPL_TAIL | 12 bits | R103 | 0 -/
  cplTail : Nat := 0
  /-- PHASE | 1 bit | R103 | 1 -/
  phase : Bool := true
  /-- RING_FAULT | 1 bit | R103 | 0 -/
  ringFault : Bool := false
  /-- DB_ERROR | 1 bit | R103 | 0 -/
  dbError : Bool := false
  /-- CFG_ERROR | 1 bit | R103 | 0 -/
  cfgError : Bool := false
  /-- a bounce-mode sluice stopped by the end of its session | 1 bit | R436 | false -/
  bounceStopped : Bool := false
  /-- the next record carries DROPPED | 1 bit | R106 | false -/
  dropped : Bool := false
  /-- the previous SEQ, none after enabling | 32 bits | R113 | none -/
  prevSeq : Option Word := none
  /-- commands owed a final completion, newest first | list | R106 | empty -/
  owed : List Owed := []
  /-- completions held while the ring cannot be written | list | R107, R398 | empty -/
  heldCpl : List Completion := []
  /-- committed fetch position and previous SEQ | record | R118 | 0 and none -/
  committedHead : Nat := 0
  /-- committed previous SEQ | 32 bits | R118 | none -/
  committedSeq : Option Word := none
  /-- SEQs applied on arrival since the last commit | list | R118 | empty -/
  applied : List Word := []
  /-- the last accepted bounce-record COUNTER | 64 bits | R436 | 0 -/
  bounceCounter : Nat := 0
  /-- commands fetched since the cold start (the model's own) | count | R117 | 0 -/
  fetches : Nat := 0
  /-- the last record: elapsed index of its tide, and the number of the command that it answers (the model's own) | pair | R117 | none -/
  lastPut : Option (Nat × Nat) := none
deriving DecidableEq, Repr

/-- Per-function PCIe state: bus mastering, MSI-X masks and pending bits, captured _HI values (R404, R471). -/
structure Func where
  /-- Bus Master Enable | 1 bit | R398 | PRESUMED 0 (PCIe) -/
  busMaster : Bool := false
  /-- MSI-X vectors unmasked by the host | set of 0 to 17 | R404 | PRESUMED none (PCIe: masked) -/
  unmasked : List Nat := []
  /-- MSI-X table words but the vector controls, by offset in the table | 54 x 32 bits | R468, R470 | PRESUMED 0 (PCIe) -/
  msixTable : Table Nat := []
  /-- MSI-X pending-bit array | 18 bits | R404 | PRESUMED 0 (PCIe) -/
  msixPending : List Nat := []
  /-- captured TIDE_NOW_HI | 32 bits | R52, R471 | none -/
  capTide : Option Word := none
  /-- captured ARB_GRANTS_HI | 32 bits | R471 | none -/
  capGrants : Option Word := none
  /-- captured ARB_WAIT_HI | 32 bits | R471 | none -/
  capWait : Option Word := none
  /-- captured PWR_ENERGY_HI | 32 bits | R471 | none -/
  capEnergy : Option Word := none
  /-- an SPDM secure session is open | 1 bit | R436, R439 | false -/
  session : Bool := false
  /-- ATTEST whose report is being signed | record | R442 | none -/
  signing : Option OpenCmd := none
  /-- the report or SPDM message captured for the signing outstanding | bytes | R441, R442 | empty -/
  captured : List Byte := []
  /-- an SPDM signing is outstanding | 1 bit | R442 | false -/
  spdmSigning : Bool := false
  /-- selective IDE streams programmed | list | R433 | empty -/
  ideStreams : List Nat := []
deriving DecidableEq, Repr

/-- Configuration and pending state of one interrupt source (IH_SRC_CFG, R402 to R408). -/
structure Source where
  /-- PRIORITY | 4 bits | R402, R408 | 0x8 -/
  priority : Nat := 8
  /-- COAL_COUNT | 8 bits | R406, R408 | 0x01 -/
  coalCount : Nat := 1
  /-- COAL_TIME | 10 bits | R406, R408 | 0x001 -/
  coalTime : Nat := 1
  /-- WAKE | 1 bit | R400, R408 | 0 -/
  wake : Bool := false
  /-- COUNT of pending events | 8 bits | R406, R408 | 0x00 -/
  count : Nat := 0
  /-- ready: its coalescing count or time has been reached | 1 bit | R406 | false -/
  ready : Bool := false
deriving DecidableEq, Repr

/-- One interrupt hub (one per I/O die). -/
structure Hub where
  /-- IH_GLOBAL.HOLD | 1 bit | R407, R408 | 0 -/
  hold : Bool := false
  /-- IH_GLOBAL.FW_HOLD | 1 bit | R407, R408 | 0 -/
  fwHold : Bool := false
  /-- sources that differ from their reset (unlisted: reset) | 2048 | R401 | all at reset -/
  sources : Table Source := []
  /-- running-priority stacks of the control cores | 15 entries each | R403 | empty -/
  running : Table (List Nat) := []
  /-- thresholds of the control cores | 4 bits each | R402 | DC 0 -/
  coreThr : Table Nat := []
  /-- ignored end-of-interrupt writes | count | R403 | 0 -/
  eoiIgnored : Nat := 0
  /-- sources latched by the AON logic in DORMANT | list | R408 | empty -/
  latched : List Nat := []
deriving DecidableEq, Repr

structure HostSide where
  /-- endpoint bifurcated into two x4 links | 1 bit | R70, R102 | DC false -/
  bifurcated : Bool := false
  /-- SR-IOV NumVFs | 0 to 64 | R70 | PRESUMED 0 (PCIe) -/
  numVfs : Nat := 0
  /-- host link up | 1 bit | R398 | DC true (R448: the link trains in stage 4) -/
  linkUp : Bool := true
  /-- functions by key (PF0 0, PF0 of link 1 1, VF p 2+p) | table | R70 | reset -/
  funcs : Table Func := []
  /-- sluices by 16 x function key + number | table | R102 | reset -/
  sluices : Table Sluice := []
  /-- doorbells latched while BAR0 is unreachable or before the first tide | list | R451, R472 | empty -/
  latchedDb : List (Fn × Nat × Word) := []
  /-- buffer writes held while the function's bus cannot be used | list | R398, R434 | empty -/
  heldWrites : List (Fn × Word64 × List Byte) := []
  /-- IH_SEL.SOURCE | 11 bits | R408 | 0 -/
  ihSource : Nat := 0
  /-- IH_SEL.HUB | 1 bit | R408 | 0 -/
  ihHub : Nat := 0
  /-- IH_TGT_THRn (unlisted: 0) | 66 x 4 bits | R475 | 0x0 -/
  tgtThr : Table Nat := []
  /-- IH_PIN_FILTERn (unlisted: 8) | 16 x 8 bits | R405, R475 | 0x08 -/
  pinFilter : Table Nat := []
  /-- hub of IO0 | record | R401 | reset -/
  hub0 : Hub := {}
  /-- hub of IO1 | record | R401 | reset -/
  hub1 : Hub := {}
  /-- an edge is gathering its completions (the model's own; false between steps) | 1 bit | R117 | false -/
  gathering : Bool := false
  /-- completions gathered in this edge (the model's own; empty between steps) | list | R117 | empty -/
  gathered : List Gathered := []
  /-- SAFE_HOLD since GET_HEALTH was last read | 1 bit | R123 | false -/
  safeHoldSeen : Bool := false
deriving DecidableEq, Repr

/-! ## Polders, graphs, runs, requests -/

/-- An entry of a tile's accumulator store (R132). -/
structure Window where
  /-- window A | 48 bits, signed | R132, R145 | 0 -/
  a : Int
  /-- exponent E_A of its least significant bit | 16 bits, signed | R132, R145 | 0 -/
  e : Int
  /-- residue | 7 bits | R132, R155 | 0 -/
  r : Nat
deriving DecidableEq, Repr

/-- The arithmetic units of one tile (R132, R154, R157). -/
structure TileUnits where
  /-- accumulator store, by 128 x entry + column | 1,024 entries a column | R132 | DESIGN CHOICE empty: every entry 0 -/
  acc : Table Window := []
  /-- vector results with their residues, as the last quantum left them | 512 lanes | R132, R155, R160 | DESIGN CHOICE empty -/
  lanes : List (Nat × Nat) := []
  /-- random numbers drawn by the tile's generator | number | R154 | 0 -/
  drawn : Nat := 0
deriving DecidableEq, Repr

/-- Elements of a tensor that an invocation writes. -/
structure TensorData where
  /-- bits of an element | 4 to 32 | R135 | its format's -/
  bits : Nat
  /-- element codes from element 0 on | list | R138 | zeros -/
  codes : List Nat
deriving DecidableEq, Repr

/-- 64 bytes of memory as they stood before a tide's first store to them (the model's own: a withheld tide's stores do not
stand, R158). -/
structure SavedLine where
  /-- address / 64 | number | R158 | the stored line's -/
  line : Nat
  /-- its holder, if its written bit was set | number | R158, R167 | as it was -/
  holder : Option Nat
  /-- its bytes | 64 | R158 | as they were -/
  bytes : List Byte
deriving DecidableEq, Repr

/-- One invocation in progress (R84, R85): its number, the tide it launched in, the edge at which it commits,
the tide in which its last quantum ended, whether a quantum is running in the tide in progress, the failure with
which it completes, its flags, and its result. -/
structure Invocation where
  /-- invocation number | 32 bits | R84 | next number of its run -/
  no : Nat
  /-- elapsed index of the tide in which it launches | 48 bits | R84 | at launch -/
  launchIx : Nat
  /-- elapsed index of the edge at which it commits | 48 bits | R85 | launch + d -/
  commitIx : Nat
  /-- elapsed index of the tide in which its last quantum ended | 48 bits | R84, R85 | none -/
  finished : Option Nat := none
  /-- quanta remain | 1 bit | R84 | true -/
  running : Bool := true
  /-- the status and reason with which it completes, if not ST_OK | record | R110, R158, R159 | none -/
  fail : Option (Status × Reason) := none
  /-- shed | 1 bit | R370 | false -/
  shed : Bool := false
  /-- an input of it came late | 1 bit | R64 | false -/
  late : Bool := false
  /-- what its quanta have written, by 2^16 x tensor + channel (0 for Class Q and Class B) | table | R109, R138, R164 | empty -/
  tensors : Table TensorData := []
  /-- result of a Class S invocation as it is voted | bytes | R308 | none -/
  result : Option (List Byte) := none
  /-- its draw from the module's random source, which keys its generators | number | R154 | at launch -/
  key : Nat := 0
  /-- private experts and router that a training invocation computes | bytes | R278 | none -/
  newExperts : Option (List Byte) := none
  /-- working copy of the recurrent state, none before it is computed | bytes | R158, R323 | none -/
  newState : Option (List Byte) := none
deriving DecidableEq, Repr

/-- A run of a graph (R73, R83, R119): `originIx` and `baseNo` fix the phase and the number of its invocations,
which are counted in elapsed tides (R55, R330). -/
structure Run where
  /-- graph handle | 16 bits | R119 | from the command -/
  handle : Nat
  /-- the open RUN_AT_TIDE or RUN_PERIODIC | record | R119 | the command -/
  cmd : Instr
  /-- elapsed index of its intake tide | 48 bits | R62 | the command's -/
  intakeIx : Nat
  /-- started by RUN_PERIODIC | 1 bit | R119 | by the command -/
  periodic : Bool
  /-- PERIOD in tides | 16 bits | R83 | from the command -/
  period : Nat
  /-- DEADLINE in tides | 16 bits | R83 | from the command -/
  deadline : Nat
  /-- COUNT of invocations, 0 without end | 32 bits | R119 | from the command -/
  countLimit : Nat
  /-- input and output descriptors | list | R109 | from the command -/
  descs : List Desc
  /-- elapsed index of the tide in which invocation baseNo launches | 48 bits | R55, R83 | the first launch -/
  originIx : Nat
  /-- number of the invocation that launches there | 32 bits | R330 | 0 -/
  baseNo : Nat := 0
  /-- number of the next invocation | 32 bits | R84 | 0 -/
  nextNo : Nat := 0
  /-- invocations committed | 32 bits | R119 | 0 -/
  committed : Nat := 0
  /-- invocations in progress | list | R84 | empty -/
  invs : List Invocation := []
  /-- consecutive missed invocations | 32 bits | R330 | 0 -/
  missStreak : Nat := 0
  /-- its recurrent state is lost and starts from the image's with the next launch | 1 bit | R96, R177 | false -/
  restartState : Bool := false
  /-- committed recurrent state | bytes | R96, R158, R323 | the image's initial state -/
  recurrent : List Byte := []
deriving DecidableEq, Repr

/-- A golden input's bookkeeping (R348 to R352). -/
structure Golden where
  /-- golden offset | 0 to SWELL_LEN - 1 | R349 | at placement -/
  offset : Nat
  /-- reference digest, none until learnt | 128 bits | R351 | none -/
  reference : Option (BitVec 128) := none
  /-- digest that GOLDEN_SET or the image expects | 128 bits | R348, R351 | 0 -/
  expected : BitVec 128 := 0
  /-- a learning run is due | 1 bit | R351 | true -/
  learning : Bool := true
  /-- elapsed index of the tide of the run in progress | 48 bits | R350 | none -/
  runningIx : Option Nat := none
  /-- swell in which its golden run was last placed | 48 bits | R350 | none -/
  doneSwell : Option Nat := none
  /-- digests of the run in progress by channel | list | R352 | empty -/
  digests : List (Nat × Option (BitVec 128)) := []
  /-- what the run in progress has written, by 2^16 x tensor + channel | table | R348 | empty -/
  parts : Table TensorData := []
deriving DecidableEq, Repr

/-- A block of one row's pages: the request's place in tag order, its KV head, the block's index, and its page count
(R235). -/
structure AttnWork where
  /-- place of its request in tag order | number | R235 | none at reset -/
  req : Nat
  /-- KV head | number | R235 | none at reset -/
  head : Nat
  /-- block of pages | number | R235 | none at reset -/
  block : Nat
  /-- pages of the block | number | R235 | none at reset -/
  cost : Nat
deriving DecidableEq, Repr

/-- A decided move of Class Q or Class B work (R95). -/
structure Move where
  /-- elapsed index of its switching edge | 48 bits | R95 | at most 50 tides after the event -/
  edge : Nat
  /-- the search that found its places (the model's own) | number | R93 | the fresh counter -/
  search : Nat
  /-- the tile 32s+n that it leaves | 0 to 127 | R93 | by its cause -/
  place : Nat
deriving DecidableEq, Repr

/-- The fixed ring of keys and values of a Class S graph, the same on every channel (R246): logical page j lies in slot j modulo
its size. -/
structure KvRing where
  /-- slots, whole pages of the declared context | number | R246 | 0 -/
  size : Nat := 0
  /-- positions whose keys and values are committed | number | R246 | 0 -/
  count : Nat := 0
  /-- positions that the invocation in progress has written | number | R246 | 0 -/
  new : Nat := 0
  /-- page blocks by slot | table | R229, R246 | empty -/
  blocks : Table (List Byte) := []
deriving DecidableEq, Repr

/-- A loaded graph: what it declares, its timing and its placement (R83 to R92). Once its degraded plan is in force, its
tiles are those of that plan. `ports`: the latest datum delivered to each bound input port, none where it
exceeded the port's largest size (R62, R78). -/
structure Graph where
  /-- the image as it declares itself | record | R75 | from GRAPH_LOAD -/
  img : Image
  /-- T in tides | 16 bits | R83 | from GRAPH_LOAD -/
  t : Nat
  /-- D in tides | 16 bits | R83 | from GRAPH_LOAD -/
  d : Nat
  /-- its placement | record | R92 | the accepted plan -/
  plan : Plan
  /-- REPLACE_COUNT | 32 bits | R95 | 0 -/
  replaceCount : Nat := 0
  /-- label of the tide of its last re-placement | 48 bits | R92 | 0 -/
  lastCount : Nat := 0
  /-- its degraded plan is in force | 1 bit | R87, R93 | false -/
  degraded : Bool := false
  /-- a decided move | record | R95 | none -/
  moveAt : Option Move := none
  /-- its weights as they are resident | bytes | R73, R96 | the image's -/
  weights : List Byte := []
  /-- tensors that something has been written to since the load | list | R92 | empty -/
  touched : List Nat := []
  /-- golden input | record | R348 | none -/
  golden : Option Golden := none
  /-- golden offset under a period change that is pending, if any | number | R54, R349 | none -/
  goldenNew : Option Nat := none
  /-- model variants with their plans | list | R269 | empty -/
  variants : List (Nat × Plan) := []
  /-- weights to be loaded again from the copy | 1 bit | R177 | false -/
  reloadWeights : Bool := false
  /-- the spillway copy of its image is bad | 1 bit | R177 | false -/
  copyBad : Bool := false
  /-- data at its ports, none where the payload was oversize | per port | R62, R78 | empty -/
  ports : Table (Option (Tag × List Byte)) := []
  /-- private experts and routers of its variants as they are resident | bytes by variant | R269, R278 | the variant image's -/
  experts : Table (List Byte) := []
  /-- ring of keys and values of a Class S graph | record | R246 | empty -/
  ring : KvRing := {}
  /-- decode attention work of this tide, each block with its attention tile | list | R235 | empty -/
  decodeWork : List (AttnWork × Nat) := []
  /-- attention work of this tide's prefill chunks, each block with its attention tile | list | R235 | empty -/
  prefillWork : List (AttnWork × Nat) := []
deriving DecidableEq, Repr

/-- One logical page block of a request (page-table entry of R231); `copied`: the copy of STATE 2 or 3 has ended. Frames
are numbered by the model in the order of their use. -/
structure PageEntry where
  /-- FRAME | 32 bits | R231 | as allocated -/
  frame : Nat
  /-- TIER: 1 HBM, 2 spillway | 2 bits | R231 | 1 -/
  tier : Nat := 1
  /-- STATE: 0 to 3 | 2 bits | R231 | 0 -/
  state : Nat := 0
  /-- VALID positions | 0 to 16 | R231 | 0 -/
  valid : Nat := 0
  /-- SHARED | 1 bit | R231 | 0 -/
  shared : Bool := false
  /-- LAST | 1 bit | R231 | 0 -/
  last : Bool := false
  /-- PFX reference | 16 bits | R231 | 0 -/
  pfxRef : Nat := 0
  /-- SHADOW frame of a copy | 32 bits | R231 | 0 -/
  shadow : Nat := 0
  /-- the copy of STATE 2 or 3 has ended | 1 bit | R243 | false -/
  copied : Bool := false
deriving DecidableEq, Repr

/-- Request states. -/
inductive ReqState where
  | waitingSlot
  | waiting
  | prefill
  | decode
deriving DecidableEq, Repr

/-- The work of a request in the tide in progress. -/
inductive StepWork where
  | decode
  | chunk (n : Nat) (last : Bool)
deriving DecidableEq, Repr

/-- A serving request (R252 to R276). `blockFrames`: the frames of one page block; `reserved`: the frames of its own page
blocks, reserved for its whole length; `tables`: the frames of its page table and grammar table; `gstate`: the state of
its grammar; `sampled`: the token chosen in this tide and its grammar pair's next state. -/
structure Request where
  /-- the open REQUEST_SUBMIT | record | R119, R253 | the command -/
  cmd : Instr
  /-- its tag | 10 bytes | R256 | the command's -/
  tag : Tag
  /-- elapsed index of its intake tide | 48 bits | R256 | the command's -/
  intakeIx : Nat
  /-- graph handle | 16 bits | R120 | from the command -/
  handle : Nat
  /-- variant, 0 the graph's own | 16 bits | R269 | from the command -/
  variant : Nat
  /-- request descriptor | record | R251, R253 | read at its edge -/
  desc : ReqDesc
  /-- elapsed index of its deadline edge, if any | 48 bits | R275 | from the command -/
  deadlineIx : Option Nat
  /-- state of the request | list of R256 | R256 | WAITING_SLOT -/
  state : ReqState := .waitingSlot
  /-- prompt tokens computed | 32 bits | R260 | 0 -/
  promptDone : Nat := 0
  /-- tokens generated | list | R254, R257 | empty -/
  tokens : List Nat := []
  /-- tokens charged to the budget | 32 bits | R260 | 0 -/
  charged : Nat := 0
  /-- frames of one page block | number | R230 | from the image -/
  blockFrames : Nat := 1
  /-- frames reserved for its own page blocks | number | R232 | 0 -/
  reserved : Nat := 0
  /-- frames of its page tables | number | R231, R232 | 0 -/
  tables : Nat := 0
  /-- where they lie in HBM | extents | R231 | none -/
  tableAt : List Extent := []
  /-- page table | list | R231 | empty -/
  pages : List PageEntry := []
  /-- state of its grammar | 32 bits | R255, R257 | START -/
  gstate : Nat := 0
  /-- work of the tide in progress | record | R262 | none -/
  work : Option StepWork := none
  /-- token sampled in this tide with the grammar's next state | record | R255, R271 | none -/
  sampled : Option (Nat × Option Nat) := none
  /-- its step's last quantum has ended | 1 bit | R262 | false -/
  stepDone : Bool := false
  /-- uncorrectable data read | 1 bit | R177 | false -/
  dataError : Bool := false
  /-- elapsed index of its last step | 48 bits | R262 | none -/
  lastStepIx : Option Nat := none
deriving DecidableEq, Repr

/-- A token budget (R258, R259); level in 1/4,000 token. -/
structure Budget where
  /-- REFILL in tokens per second | 32 bits | R258 | from SET_TOKEN_BUDGET -/
  refill : Nat
  /-- BURST in tokens | 32 bits | R258 | from SET_TOKEN_BUDGET -/
  burst : Nat
  /-- level in 1/4,000 token | number | R259 | full -/
  level : Nat
deriving DecidableEq, Repr

/-- A memory-key rotation of a polder (R182 to R185). -/
structure Rotation where
  /-- the KEY_ROTATE_MEMORY that it answers | record | R182 | the command -/
  cmd : Instr
  /-- the sweep has ended | 1 bit | R184 | false -/
  swept : Bool := false
  /-- first page that the sweep has not passed: tier (1 HBM, 2 spillway) and frame | pair | R182 | the first of HBM -/
  pos : Nat × Nat := (1, 0)
  /-- the page in the sweep buffer: tier, frame and its plaintext | 4 KiB | R182, R183 | none -/
  buffer : Option (Nat × Nat × List Byte) := none
deriving DecidableEq, Repr

/-- An entry of the prefix store (R265). -/
structure PfxEntry where
  /-- number of the entry, which PREFIX_REF names | 32 bits | R231 | the lowest free one -/
  no : Nat
  /-- hash of the block's chain | 128 bits | R264 | from its tokens -/
  hash : BitVec 128
  /-- hash of its parent | 128 bits | R264 | from its tokens -/
  parent : BitVec 128
  /-- tokens of the block | 16 | R264 | from the request -/
  tokens : List Nat
  /-- sharing key: commons group or polder | record | R268 | from its polder -/
  key : Nat × Nat
  /-- model digest | 384 bits | R264 | from the image -/
  model : BitVec 384
  /-- polder that entered it | 0 to 63 | R265 | the request's -/
  creator : Nat
  /-- requests that read it | list | R265 | the one that entered it -/
  holders : List (Nat × Nat)
  /-- elapsed index of its last use | 48 bits | R265 | the present tide -/
  lastUse : Nat
  /-- tier of its block: 1 HBM, 2 spillway | 2 bits | R243 | the request's block -/
  tier : Nat := 1
  /-- first frame | 28 bits | R265 | the request's block -/
  frame : Nat
  /-- frames of the block | number | R230 | the request's -/
  frames : Nat
deriving DecidableEq, Repr

/-- A polder: creation parameters, keys, work and counters. -/
structure Polder where
  /-- CLASS | S, Q, B | R71 | set at POLDER_CREATE -/
  cls : Class
  /-- SLUICES | 1 to 16 | R71 | set at POLDER_CREATE -/
  sluices : Nat
  /-- BW_WEIGHT | 8 bits | R71 | set at POLDER_CREATE -/
  bwWeight : Nat
  /-- SRAM_QUOTA in MiB | 16 bits | R71 | set at POLDER_CREATE -/
  sramQuota : Nat
  /-- HBM_QUOTA in 256 MiB units | 16 bits | R71 | set at POLDER_CREATE -/
  hbmQuota : Nat
  /-- SPILL_QUOTA in GiB | 16 bits | R71 | set at POLDER_CREATE -/
  spillQuota : Nat
  /-- generation that the polder was created with | 16 bits | R432 | set at POLDER_CREATE -/
  createdGen : Nat
  /-- current key generation | 16 bits | R181 | set at POLDER_CREATE -/
  keyGen : Nat
  /-- the engines' previous slot: the generation being left | 16 bits | R181, R184, R186 | none -/
  prevGen : Option Nat := none
  /-- rotation whose sweep is running | record | R182 | none -/
  rotation : Option Rotation := none
  /-- rotations that wait | list | R185 | empty -/
  rotationsWaiting : List Instr := []
  /-- loaded graphs by handle | 16 | R73 | empty -/
  graphs : Table Graph := []
  /-- runs by number | 64 | R73 | empty -/
  runs : Table Run := []
  /-- serving requests in tag order | list | R256 | empty -/
  requests : List Request := []
  /-- token budget | record | R258 | none -/
  budget : Option Budget := none
  /-- commons group, 0 none | 16 bits | R268 | 0 -/
  group : Nat := 0
  /-- ARITH_EXC | 32 bits | R474 | 0 -/
  arithExc : Nat := 0
  /-- CE_SRAM | 32 bits | R474 | 0 -/
  ceSram : Nat := 0
  /-- CE_HBM | 32 bits | R474 | 0 -/
  ceHbm : Nat := 0
  /-- CE_SPILL | 32 bits | R474 | 0 -/
  ceSpill : Nat := 0
  /-- CODEC_SKIP | 32 bits | R474 | 0 -/
  codecSkip : Nat := 0
  /-- RESETTING, with the command that waits for the scrub | 1 bit | R99, R470 | 0 -/
  resetting : Bool := false
  /-- the reset also destroys the polder | 1 bit | R100 | 0 -/
  destroying : Bool := false
  /-- an arithmetic check failure withholds this tide's effects | 1 bit | R158 | false -/
  withheld : Bool := false
  /-- lines as they stood before the stores of the tide in progress (the model's own) | list | R158 | empty -/
  saved : List SavedLine := []
  /-- shed by rung 2 or by the flow condition | 1 bit | R370 | false -/
  shedNow : Bool := false
deriving DecidableEq, Repr

/-- A command waiting for a placement decision, in the order of R86. -/
structure Decision where
  /-- the command | record | R86 | as it came -/
  cmd : Instr
  /-- elapsed index of its intake tide | 48 bits | R62, R86 | as it came -/
  intakeIx : Nat
  /-- its place among decisions and releases (the model's own) | number | R86, R101 | next number -/
  no : Nat := 0
deriving DecidableEq, Repr

/-- Capacity that has been released and does not count yet in decisions ordered before its release (R86, R101): a graph's
placement, or the quotas of a destroyed polder. -/
structure Released where
  /-- its place among decisions and releases (the model's own) | number | R86 | next number -/
  no : Nat
  /-- polder that held it | 0 to 63 | R86 | the polder's number -/
  polder : Nat
  /-- class of its polder | S, Q, B | R86 | the polder's -/
  cls : Class
  /-- the graph as it was placed, none for a destroyed polder | record | R86 | the graph -/
  graph : Option Graph
  /-- SRAM, HBM and spillway quotas, in the units of POLDER_CREATE | numbers | R72, R100 | 0 for a graph -/
  quotas : Nat × Nat × Nat
deriving DecidableEq, Repr

/-- What a scrub is for (R187): a polder reset or destruction, frames that a graph left, DEBUG_UNLOCK (R437),
or decommissioning (R427). -/
inductive ScrubKind where
  | reset
  | destroy
  | frames
  | debug
  | decommission
deriving DecidableEq, Repr

/-- A scrub job (R187, R188): its number, its polder (64 for every holder), the command that waits for it, and
whether a STOP_INTERFACE_REQUEST waits for it too (R435). -/
structure ScrubJob where
  /-- number of the job (the model's own) | number | R187 | next number -/
  id : Nat
  /-- polder, 64 for every holder | 0 to 64 | R187 | by its cause -/
  polder : Nat
  /-- why it scrubs | kind | R187 | by its cause -/
  kind : ScrubKind
  /-- the command that waits for it, if any | record | R99, R100, R427, R437 | by its cause -/
  cmd : Option Instr
  /-- a STOP_INTERFACE_REQUEST waits for it | 1 bit | R435 | by its cause -/
  tdisp : Bool
  /-- the frames that it writes, each extent with its tier | list | R187 | by its cause -/
  extents : List (Nat × Extent)
  /-- time of the edge at which it started | quarter-ms | R188 | that edge -/
  startQ : Nat
deriving DecidableEq, Repr

/-- A stream binding (R284). -/
structure Bind where
  /-- source rank | 3 to 6 | R58, R119 | from STREAM_BIND -/
  rank : Nat
  /-- source module | 16 bits | R119 | from STREAM_BIND -/
  srcMod : Nat
  /-- source number at that module | 16 bits | R119 | from STREAM_BIND -/
  srcLocal : Nat
  /-- polder of the consumer | 0 to 63 | R119 | the command's -/
  polder : Nat
  /-- graph handle | 16 bits | R119 | from STREAM_BIND -/
  handle : Nat
  /-- graph port | 8 bits | R119 | from STREAM_BIND -/
  port : Nat
deriving DecidableEq, Repr

/-- A spare promotion in progress (R322): first edge, the channel replaced, and its step. -/
structure Promotion where
  /-- elapsed index of its first edge e0 | 48 bits | R322 | the deciding edge -/
  e0 : Nat
  /-- the channel that the spare replaces | 0 to 2 | R322 | the breached one -/
  channel : Nat
  /-- stack whose state is copied | 0 to 3 | R322 | a live channel's -/
  source : Nat
  /-- the spare's other work has left | 1 bit | R322 | false -/
  switched : Bool := false
  /-- the copy has ended | 1 bit | R322 | false -/
  copied : Bool := false
deriving DecidableEq, Repr

structure Work where
  /-- polders by number | 64 | R70 | none exist -/
  polders : Table Polder := []
  /-- S_SHARE in 5% steps | 0 to 12 | R79 | 8 -/
  sShare : Nat := 8
  /-- Q_ADMIT_OP | 0 to 7 | R79 | 7 -/
  qAdmitOp : Nat := 7
  /-- commands waiting for a placement decision | list | R86 | empty -/
  decisions : List Decision := []
  /-- next place among decisions and releases (the model's own) | count | R86 | 0 -/
  orderNo : Nat := 0
  /-- released capacity that waiting decisions may not count | list | R86, R101 | empty -/
  released : List Released := []
  /-- last quantum of each tile: elapsed index of its tide, its end in ns from the edge, its place in the order of R81 | table | R81 | empty -/
  tileLast : Table (Nat × Nat × Nat) := []
  /-- scrubs in progress | list | R187 | empty -/
  scrubs : List ScrubJob := []
  /-- next scrub job number (the model's own) | count | R187 | 0 -/
  nextScrub : Nat := 0
  /-- stream bindings | list | R284 | empty -/
  binds : List Bind := []
  /-- prefix store | at most 65,536 per key | R265 | empty -/
  pfx : List PfxEntry := []
  /-- STACK_OK: stacks in service | 4 bits | R473 | 0x0 -/
  stackOk : List Bool := [false, false, false, false]
  /-- channel map: the stack of each channel | 3 x 2 bits | R306 | none before the first tide -/
  channels : List (Option Nat) := [none, none, none]
  /-- DUAL | 1 bit | R473 | 0 -/
  dual : Bool := false
  /-- NO_SPARE | 1 bit | R97, R473 | 0 -/
  noSpare : Bool := false
  /-- spare promotion in progress | record | R322 | none -/
  promotion : Option Promotion := none
  /-- channels breached by a decision, to leave the vote at the closing edge | list | R314 | empty -/
  breached : List Nat := []
  /-- stacks to be removed at the next edge, with cause | list | R340 | empty -/
  removals : List (Nat × Nat) := []
  /-- results expected of the tide in progress: polder and run, produced payload digests per channel | list | R308 | empty -/
  results : List (Nat × Nat × Nat × Option (BitVec 128)) := []
  /-- class B pacing reductions by arbiter instance and input | table | R193 | empty -/
  paced : Table Nat := []
  /-- inputs found starving since the last edge, by arbiter instance | list | R193 | empty -/
  starving : List (Nat × Nat) := []
  /-- uncorrectable errors found by transfers since the last edge: polder and role | list | R177 | empty -/
  transferErrors : List (Nat × ErrRole) := []
  /-- page tables that the control cores cache: polder, request, entries | list | R231 | empty -/
  tableCache : List (Nat × Nat × List PageEntry) := []
deriving DecidableEq, Repr

/-! ## Codec engine -/

/-- A picture waiting for the engine or being coded (R290, R294, R297 to R304): the edge at which it becomes visible and the
first tide in which it may be coded; its first record's SEQ; the bytes written to its output buffer; its complete slices
(index, payload, bits) and how many records of them are written; the decoded picture; its target and hard limit in bits. -/
structure Picture where
  /-- session | 0 to 63 | R283 | the picture's -/
  session : Nat
  /-- the CODEC_PICTURE that it answers, none for an input | record | R298 | by its source -/
  cmd : Option Instr
  /-- elapsed index of the edge at which it becomes visible | 48 bits | R290 | from its intake -/
  visibleIx : Nat
  /-- elapsed index before which it does not start | 48 bits | R303 | visible edge -/
  notBefore : Nat
  /-- its ordering key | 10 bytes | R291 | its input's -/
  tag : Tag
  /-- the engine has started it | 1 bit | R290 | false -/
  started : Bool := false
  /-- the engine has finished it | 1 bit | R290 | false -/
  done : Bool := false
  /-- coded as IDR | 1 bit | R283, R304 | by its session -/
  idr : Bool := false
  /-- coded as intra | 1 bit | R294 | by its session -/
  intra : Bool := false
  /-- SEQ of its first record | 32 bits | R297 | the session's -/
  firstSeq : Word := 0
  /-- bytes of its output buffer already written | number | R298 | 0 -/
  outOff : Nat := 0
  /-- completed slices: index, bytes | list | R299 | empty -/
  slices : List (Nat × List Byte) := []
  /-- bits of each CTU row when its last slice completed | list | R294 | empty -/
  rows : List Nat := []
  /-- slices of a coding that was discarded, which the next one repeats | list | R295, R303 | empty -/
  again : List (Nat × List Byte) := []
  /-- slice records written | number | R299 | 0 -/
  emitted : Nat := 0
  /-- coded bytes | number | R297 | 0 -/
  codedBytes : Nat := 0
  /-- input slot of an encode picture: its samples, where the module has them | bytes | R281, R282, R285 | empty -/
  input : List Byte := []
  /-- the picture as the decoder left it | record | R300 to R302 | none -/
  decoded : Option DecodedIn := none
  /-- its input was damaged | 1 bit | R305 | false -/
  inputError : Bool := false
  /-- a reference was damaged | 1 bit | R304 | false -/
  refError : Bool := false
  /-- QP in force | 0 to 51 | R294 | starting QP -/
  qp : Nat := 0
  /-- target in bits | number | R294 | from the session -/
  target : Nat := 0
  /-- hard limit in bits | number | R294 | from the session -/
  limit : Nat := 0
deriving DecidableEq, Repr

/-- The rate control of one picture type: the last starting QP, the bits of the last picture with its target, and its bits
by CTU row (R294). -/
structure RateType where
  /-- QP at which the next picture of the type starts, none before the first | 0 to 51 | R294 | none -/
  qp0 : Option Nat := none
  /-- bits of the last picture with its target | pair | R294 | none -/
  last : Option (Nat × Nat) := none
  /-- bits of the last picture by CTU row | list | R294 | empty -/
  cx : List Nat := []
deriving DecidableEq, Repr

/-- How a unit of a picture comes out (R300 to R302). -/
inductive UnitMark where
  | decoded
  | damaged
  | tainted
deriving DecidableEq, Repr

/-- A reference picture of a decode session (R285, R301); its compression in the slot is lossless, and exposes nothing (R296). -/
structure RefPicture where
  /-- PICTURE number | 32 bits | R302 | its session's -/
  no : Nat
  /-- POC or order hint | 32 bits, signed | R301, R302 | the stream's -/
  order : Int
  /-- samples of its planes | bytes | R281, R285 | as decoded and concealed -/
  planes : List Byte
  /-- concealment map | 2 bits a unit | R302 | as concealed -/
  map : List Nat
deriving DecidableEq, Repr

/-- A codec session (R283 to R285, R294, R298); `closing`: a CODEC_SESSION_CLOSE applies at the edge under way (the model's
own). -/
structure Session where
  /-- polder | 0 to 63 | R283 | the command's -/
  polder : Nat
  /-- KIND: 0 encode, 1 decode | 8 bits | R283 | from CODEC_SESSION_OPEN -/
  kind : Nat
  /-- PROFILE | 8 bits | R279 | from CODEC_SESSION_OPEN -/
  profile : Nat
  /-- width | 16 bits | R283 | from CODEC_SESSION_OPEN -/
  width : Nat
  /-- height | 16 bits | R283 | from CODEC_SESSION_OPEN -/
  height : Nat
  /-- INTERVAL in tides | 16 bits | R283 | from CODEC_SESSION_OPEN -/
  interval : Nat
  /-- the other fields of the session | record | R283 | from CODEC_SESSION_OPEN -/
  cfg : CodecCfg
  /-- the HBM frames of its buffers | extents | R285, R286 | the accepted plan's -/
  buffers : List Extent := []
  /-- a CODEC_SESSION_CLOSE applies at the edge under way (the model's own) | 1 bit | R285 | false -/
  closing : Bool := false
  /-- number of the next picture | 32 bits | R297 | 0 -/
  pictureNo : Nat := 0
  /-- SEQ of the next record | 32 bits | R297 | 0 -/
  recordSeq : Word := 0
  /-- bytes written to the ring | number | R299 | 0 -/
  written : Nat := 0
  /-- COMMITTED of the ring | number | R299 | 0 -/
  committed : Nat := 0
  /-- elapsed index at which its last picture became visible | 48 bits | R290 | none -/
  lastVisibleIx : Option Nat := none
  /-- level D of the decoder's buffer model | number | R294 | 0 -/
  vbvD : Nat := 0
  /-- rate control of intra pictures | record | R294 | none yet -/
  intra : RateType := {}
  /-- rate control of inter pictures | record | R294 | none yet -/
  inter : RateType := {}
  /-- the next picture is coded as IDR | 1 bit | R283, R304 | true -/
  forceIdr : Bool := true
  /-- pictures since the last IDR | number | R283 | 0 -/
  sinceIdr : Nat := 0
  /-- reference pictures of a decode session, oldest first | 7 or 9 | R285, R301 | none -/
  refs : List RefPicture := []
deriving DecidableEq, Repr

structure Codec where
  /-- open sessions by number | 64 | R283 | none -/
  sessions : Table Session := []
  /-- pictures visible or queued | list | R290 | empty -/
  queue : List Picture := []
  /-- time of the codec window used in the tide in progress | 1/10 ns | R290 | 0 -/
  used : Nat := 0
deriving DecidableEq, Repr

/-! ## Power, heat and coolant -/

/-- One hotspot of R375. -/
structure Hotspot where
  /-- reading in use | °C | R375, R473 | 0 -/
  reading : Int := 0
  /-- diode a, none when dropped | °C | R375 | DC 0 -/
  a : Option Int := some 0
  /-- diode b, none when dropped | °C | R375 | DC 0 -/
  b : Option Int := some 0
  /-- SENSOR_SUSPECT | 1 bit | R375 | 0 -/
  suspect : Bool := false
  /-- consecutive tides that differ by more than 6 °C | count | R375 | 0 -/
  differ : Nat := 0
  /-- consecutive tides in agreement | count | R375 | 0 -/
  agree : Nat := 0
  /-- PACE | 4 to 16 | R377, R473 | 16 -/
  pace : Nat := 16
deriving DecidableEq, Repr

/-- A power-cap lease: the open command and the quarter-ms at which it expires. -/
structure Lease where
  /-- the open SET_POWER_CAP | record | R122, R367 | the command -/
  cmd : Instr
  /-- time at which the lease expires | quarter-ms | R367 | from LEASE -/
  expiresQ : Nat
deriving DecidableEq, Repr

structure Power where
  /-- operating point in force | 0 to 7 | R363, R473 | 0 -/
  op : Nat := 0
  /-- WANT | 0 to 7 | R363 | 0 -/
  want : Nat := 0
  /-- LIMITS | 6 bits | R385 | 0 -/
  limits : Nat := 0
  /-- voltage of the core regulators in mV | 10 bits | R360 | 620 (that of OP0) -/
  coreMv : Nat := 620
  /-- operating point whose clock the staging PLL locks | 0 to 7 | R360 | none -/
  staging : Option Nat := none
  /-- voltage and staging PLL were ready by P − E of the closed tide | 1 bit | R360 | true -/
  opReady : Bool := true
  /-- a raise prepared for the next edge | 1 bit | R360 | false -/
  raising : Bool := false
  /-- tides since the last rise or the end of a forced drop or stop | count | R361 | 0 -/
  sinceRise : Nat := 0
  /-- a forced drop has put the clock on the fixed PLL | 1 bit | R360 | false -/
  forced : Bool := false
  /-- the tide of the last forced drop | index | R365 | none -/
  forcedIx : Option Nat := none
  /-- the brake is in force | 1 bit | R369 | false -/
  brake : Bool := false
  /-- elapsed index of the tide in which the brake pin went high | index | R369 | none -/
  brakeHighIx : Option Nat := none
  /-- preferred OPs of the six phases | 6 x 3 bits | R362 | 7, 7, 7, 0, 5, 0 -/
  prefs : List Nat := [7, 7, 7, 0, 5, 0]
  /-- CAP_W | 16 bits | R367, R473 | 1,400 -/
  capW : Nat := 1400
  /-- WINDOW_S | 8 bits | R367, R473 | 10 -/
  windowS : Nat := 10
  /-- ORPHAN_W | 16 bits | R367, R473 | 900 -/
  orphanW : Nat := 900
  /-- lease | record | R367, R473 | none (LEASE_MS all ones) -/
  lease : Option Lease := none
  /-- RUNG | 0 to 3 | R370, R473 | 0 -/
  rung : Nat := 0
  /-- tides that rung 3 has been in force (fully, 4 of 16, from the fourth on) | count | R370, R371 | 0 -/
  rung3Tides : Nat := 0
  /-- tides the condition of the next climb has held | count | R370 | 0 -/
  climbTides : Nat := 0
  /-- tides the condition of the next lift has held | count | R372 | 0 -/
  liftTides : Nat := 0
  /-- energy of each closed tide of the last 30 s, newest first: quarter-ms and mJ | list | R368 | empty -/
  history : List (Nat × Nat) := []
  /-- POWER_W of the last tide | 16 bits | R366, R473 | 0 -/
  powerW : Nat := 0
  /-- energy since cold start in mJ | 64 bits | R385, R473 | 0 -/
  energyMj : Nat := 0
  /-- POWER_MODEL_MISMATCH | 1 bit | R373 | 0 -/
  mismatch : Bool := false
  /-- consecutive tides with the ratio out of range | count | R373 | 0 -/
  ratioOut : Nat := 0
  /-- consecutive tides with the ratio in range | count | R373 | 0 -/
  ratioIn : Nat := 0
  /-- RATIO in 1/1,024 | 16 bits | R385 | DC 1,024 -/
  ratio : Nat := 1024
  /-- quarter-ms at which the refit in progress ends | time | R373 | none -/
  refitEndQ : Option Nat := none
  /-- a regulator reading was missing in the last tide | 1 bit | R374 | false -/
  readingMissing : Bool := false
  /-- consecutive tides with a missing reading | count | R374 | 0 -/
  missingTides : Nat := 0
  /-- hotspots that differ from their reset (unlisted: reset) | 146 | R375 | all at reset -/
  hotspots : Table Hotspot := []
  /-- THERM_SEL | 8 bits | R473 | 0x00 -/
  thermSel : Nat := 0
  /-- coolant flow in mL/min | 16 bits | R380, R473 | 0 -/
  flow : Nat := 0
  /-- inlet temperature | °C | R380, R473 | 0 -/
  inlet : Int := 0
  /-- outlet temperature | °C | R380, R473 | 0 -/
  outlet : Int := 0
  /-- FLOW as the registers show it: that of the last edge | 16 bits | R473 | 0 -/
  edgeFlow : Nat := 0
  /-- INLET as the registers show it | °C | R473 | 0 -/
  edgeInlet : Int := 0
  /-- OUTLET as the registers show it | °C | R473 | 0 -/
  edgeOutlet : Int := 0
  /-- consecutive samples below 70%, 40% and 15% of rated flow | 3 counts | R380 | 0 -/
  below : Nat × Nat × Nat := (0, 0, 0)
  /-- consecutive samples of at least 75%, 45%, 40% and 70% | 4 counts | R380, R382 | 0 -/
  above : Nat × Nat × Nat × Nat := (0, 0, 0, 0)
  /-- a hotspot rose faster than forecast in the last sample | 1 bit | R380 | false -/
  hotRise : Bool := false
  /-- FLOW_WARN | 1 bit | R380, R473 | 0 -/
  flowWarn : Bool := false
  /-- B_SHED by flow | 1 bit | R380, R473 | 0 -/
  flowShed : Bool := false
  /-- STOP: coolant stop in force | 1 bit | R381, R473 | 0 -/
  stop : Bool := false
  /-- the coolant stop takes its effect at the next edge | 1 bit | R381 | false -/
  stopPending : Bool := false
  /-- the second report of a deficit has been written in this rung 3 | 1 bit | R371 | false -/
  reported3 : Bool := false
  /-- fresh counter of the last edge, to which the free forecasts are applied (the model's own) | count | R376 | none -/
  fcAt : Option Nat := none
  /-- AVG_W | 16 bits | R473 | 0 -/
  avgW : Nat := 0
  /-- DEFICIT_W | 16 bits | R385 | 0 -/
  deficitW : Nat := 0
deriving DecidableEq, Repr

/-! ## Memory: arbiters, scratchpads, bytes -/

/-- The three counters of one arbiter input (R194). -/
structure ArbCounters where
  /-- grants | 48 bits | R194 | 0 -/
  grants : Nat := 0
  /-- cycles waited | 48 bits | R194 | 0 -/
  wait : Nat := 0
  /-- longest wait | 32 bits | R194 | 0 -/
  maxWait : Nat := 0
deriving DecidableEq, Repr

/-- A request that waits at an arbiter: its input, its requester's place among those that share the input, and the cycles
that it has waited (R190, R191, R193). -/
structure ArbReq where
  /-- input | 0 to 15 | R190 | by its requester -/
  input : Nat
  /-- place among the requesters of its input | number | R191 | by its requester -/
  rank : Nat
  /-- cycles waited | count | R193 | 0 -/
  waited : Nat := 0
deriving DecidableEq, Repr

/-- One arbiter: its threshold, starvation flags, counters, waiting requests and turn hints. -/
structure Arbiter where
  /-- STARVE_THR | 16 bits | R193, R473 | 0x1000 -/
  threshold : Nat := 4096
  /-- ARB_STARVE.FLAG: inputs flagged | 16 bits | R193, R473 | 0x0000 -/
  flags : List Nat := []
  /-- counters by input (unlisted: 0) | 16 x (48, 48, 32 bits) | R194 | 0 -/
  counters : Table ArbCounters := []
  /-- requests that wait, oldest first | list | R190, R191 | empty -/
  queue : List ArbReq := []
  /-- turn hint of each input that waited in the last cycle | 16 x 12 bits | R192 | none -/
  hints : Table Nat := []
  /-- requests that pacing holds back until a later tide | list | R98 | empty -/
  paced : List Requester := []
  /-- requests issued in the tide, by requester | table | R98 | empty -/
  issued : Table Nat := []
deriving DecidableEq, Repr

/-- One registry scratchpad's registers (R196 to R201). -/
structure Scratch where
  /-- ROTATE | 6 bits | R200, R473 | 0x00 -/
  rotate : Byte := 0
  /-- SCR_WIPE.ACTIVE | 1 bit | R201, R473 | 0 -/
  wiping : Bool := false
  /-- SCR_WIPE.CAUSE | 3 bits | R201, R473 | 0 -/
  cause : Nat := 0
  /-- SCR_WIPE.WIPES | 16 bits | R201, R473 | 0 -/
  wipes : Nat := 0
  /-- SCR_SECURE_DENY | 32 bits | R197, R474 | 0 -/
  deny : Nat := 0
  /-- SCR_CONFLICTp | 6 x 32 bits | R198, R474 | 0 -/
  conflicts : Table Nat := []
  /-- SCR_COLLISIONp | 6 x 32 bits | R199, R474 | 0 -/
  collisions : Table Nat := []
  /-- accesses that wait one cycle and try again | list | R198 | empty -/
  retry : List ScrAccess := []
  /-- responses of the last cycle: port, error or collision, data read | list | R197, R199 | empty -/
  responses : List (Nat × Nat × List Byte) := []
deriving DecidableEq, Repr

/-- Consecutive frames of external memory that a polder holds: the page-tag table's view of them (R181, R187). -/
structure Span where
  /-- tier: 1 HBM, 2 spillway | 2 bits | R180 | by its extent -/
  tier : Nat
  /-- first frame | number | R180 | by its extent -/
  base : Nat
  /-- frames | number | R180 | by its extent -/
  frames : Nat
  /-- holder | 0 to 63 | R187 | the polder -/
  polder : Nat
  /-- the pages' generation tag | 1 bit | R181 | that of the polder's current generation -/
  tag : Nat
  /-- group under whose memory key the pages are encrypted, 0 for the polder's own | 16 bits | R268 | 0 -/
  group : Nat := 0
  /-- something of the polder lies in them | 1 bit | R233 | true -/
  used : Bool
deriving DecidableEq, Repr

structure Mem where
  /-- every byte of SRAM, HBM, spillway and scratchpads, in one canonical list | bytes | R165, R171, R173, R196, R465 | nothing listed -/
  cells : List Host.Cell := []
  /-- arithmetic units of the tiles, by 32 x stack + tile | 128 | R132 | DESIGN CHOICE empty -/
  units : Table TileUnits := []
  /-- written bits: SRAM lines (address / 64) whose bit is set, with the line's holder, 16 x polder + handle of the graph | 1 bit a line | R167 | all clear -/
  written : Table Nat := []
  /-- ARB_SEL.INSTANCE | 11 bits | R473 | 0x000 -/
  arbInstance : Nat := 0
  /-- ARB_SEL.INPUT | 4 bits | R473 | 0x0 -/
  arbInput : Nat := 0
  /-- arbiters that differ from their reset | 1,058 | R190 | all at reset -/
  arbiters : Table Arbiter := []
  /-- scratchpad of IO0 | record | R196 | reset -/
  scr0 : Scratch := {}
  /-- scratchpad of IO1 | record | R196 | reset -/
  scr1 : Scratch := {}
  /-- DRAM and spillway in self-refresh | 1 bit | R175 | false -/
  selfRefresh : Bool := false
  /-- frames that polders hold, with their page tags (unlisted: the module's or the pool's) | list | R181, R187 | empty -/
  spans : List Span := []
  /-- addresses of locations that keep a correctable error | list | R176 | empty -/
  flaws : List Nat := []
  /-- memory-training values in the retention registers, by DRAM stack (0 to 7) and spillway channel (8 to 23) | table | R175 | DESIGN CHOICE empty (stage 5 trains) -/
  training : Table Nat := []
deriving DecidableEq, Repr

/-! ## Clocks -/

/-- A judge's count (R390). -/
structure Judge where
  /-- consecutive passes | number | R390 | 0 -/
  passes : Nat := 0
  /-- consecutive failures | number | R390 | 0 -/
  fails : Nat := 0
  /-- the clock is judged stable | 1 bit | R390 | false -/
  stable : Bool := false
  /-- a switch waits for it | 1 bit | R391 | false -/
  waiting : Bool := false
deriving DecidableEq, Repr

/-- A clock domain's condition (R392 to R396). -/
structure Domain where
  /-- its monitor has flagged | 1 bit | R392 | false -/
  flagged : Bool := false
  /-- flagged during a switch | 1 bit | R392 | false -/
  duringSwitch : Bool := false
  /-- runs on its fallback | 1 bit | R392, R394 | false -/
  fallback : Bool := false
  /-- lost without a fallback | 1 bit | R396 | false -/
  lost : Bool := false
deriving DecidableEq, Repr

structure Clocks where
  /-- domains that differ from running on their source | 100 | R387 | all running -/
  domains : Table Domain := []
  /-- judges: 0 TCXO, 1 and 2 10GBASE-T1 receivers, 3 to 10 Levee receivers, 11 and 12 wardens | table | R390 | reset -/
  judges : Table Judge := []
  /-- REFSEL input: 0 TCXO, else the judged oscillator's number | index | R388, R389 | 0 -/
  refsel : Nat := 0
  /-- cleaner in holdover | 1 bit | R388, R392 | false -/
  holdover : Bool := false
deriving DecidableEq, Repr

/-! ## Levee -/

/-- One Levee port (R410 to R412, LVL_STATn). -/
structure Port where
  /-- enabled by LINK_CONFIG | 1 bit | R411, R460 | 1 -/
  enabled : Bool := true
  /-- STATE | 2 bits | R423 | 0 -/
  state : Nat := 0
  /-- LANES | 3 bits | R423 | 0 -/
  lanes : Nat := 0
  /-- STEP | 3 bits | R423 | 0 -/
  step : Nat := 0
  /-- CAUSE | 4 bits | R423 | 0 -/
  cause : Nat := 0
  /-- RESENT | 1 bit | R423 | 0 -/
  resent : Bool := false
  /-- LOST | 1 bit | R423 | 0 -/
  lost : Bool := false
  /-- PEER | 9 bits | R423 | 0 -/
  peer : Nat := 0
  /-- lanes that have failed | set | R410 | none -/
  failed : List Nat := []
  /-- training attempts failed in a row | count | R412 | 0 -/
  attempts : Nat := 0
  /-- seconds to wait before step 1 | 0, 1 or 10 | R412 | 0 -/
  waitS : Nat := 0
  /-- replay drops | 32 bits | R119, R415 | 0 -/
  replayDrops : Nat := 0
  /-- frame errors | 32 bits | R119, R415 | 0 -/
  frameErrors : Nat := 0
  /-- frames in the retry buffer: destination and counter | 256 KiB | R417 | empty -/
  retry : List (Nat × Nat) := []
  /-- a cable has been detected | 1 bit | R412 | false -/
  cable : Bool := false
  /-- nonce of the AUTH frame last sent on it | 256 bits | R413 | free at sending (0 before) -/
  nonce : BitVec 256 := 0
deriving DecidableEq, Repr

/-- An association with a peer module (R413 to R416). -/
structure Assoc where
  /-- ports over which the peer is reached | list | R413 | as authenticated -/
  ports : List Nat
  /-- in force | 1 bit | R413 | true -/
  live : Bool
  /-- nonce of its authentication | 256 bits | R413 | as given -/
  nonce : BitVec 256 := 0
  /-- this module's nonce in it | 256 bits | R413, R431 | free -/
  ownNonce : BitVec 256 := 0
  /-- key and salt of the direction in which this module sends | 256 + 32 bits | R414, R431 | derived -/
  txKey : BitVec 288 := 0
  /-- cause of its end | 8 bits | R413 | 0 -/
  cause : Nat := 0
  /-- highest frame counter received | 64 bits | R414, R415 | 0 -/
  rxHigh : Nat := 0
  /-- counters received within the window | list | R415 | empty -/
  rxSeen : List Nat := []
  /-- counter of the next frame sent | 64 bits | R414 | 1 -/
  txCounter : Nat := 1
  /-- transmit key generation | 1 bit | R416 | 0 -/
  txGen : Bool := false
  /-- receive key generation | 1 bit | R416 | 0 -/
  rxGen : Bool := false
  /-- time until which the old receive key is kept | quarter-ms | R416 | none -/
  rxOldUntil : Option Nat := none
  /-- edge at which the transmit key switches | elapsed index | R416 | none -/
  switchAt : Option Nat := none
  /-- the transmit key has switched | 1 bit | R416 | false -/
  switched : Bool := false
  /-- operating-point target announced | record | R364, R421 | none -/
  opTarget : Option (Nat × Nat) := none
  /-- count in its last control frame | 48 bits | R418 | none -/
  lastTide : Option Nat := none
  /-- time state of the peer | 8 bits | R45, R418 | 0 -/
  timeState : Nat := 0
  /-- hops to its keeper | 8 bits | R45, R418 | 255 -/
  hops : Nat := 255
  /-- its keeper | 16 bits | R45, R418 | 0 -/
  keeper : Nat := 0
  /-- its next epoch | 16 bits | R50, R418 | 0 -/
  epochNext : Nat := 0
  /-- its period | 1 to 40 quarter-ms | R37, R418 | 4 -/
  periodQ : Nat := 4
  /-- T_SEND of its last control frame | ns | R419 | 0 -/
  lastSend : Int := 0
  /-- arrival of its last control frame | ns | R419 | 0 -/
  lastRx : Int := 0
  /-- records that its next control frame carries | list | R130, R418 | empty -/
  replyRecords : List LinkRecord := []
deriving DecidableEq, Repr

/-- A forwarded command of this origin awaiting its members' statuses (R129, R130). -/
structure ForwardWait where
  /-- the command of this origin | record | R129, R130 | the command -/
  cmd : Instr
  /-- its SEQ | 32 bits | R129 | the command's -/
  seq : Word
  /-- members whose status has not come | list | R130 | every member -/
  waiting : List Nat
  /-- members that failed, with status and reason | list | R130 | empty -/
  failed : List (Nat × Nat × Nat)
  /-- payload of its completion | bytes | R130 | empty -/
  payload : List Byte
deriving DecidableEq, Repr

structure Links where
  /-- the eight ports (unlisted: reset) | 8 | R409 | reset -/
  ports : Table Port := []
  /-- associations by peer index | at most 511 | R413 | none -/
  assocs : Table Assoc := []
  /-- KEY_ROTATE commands with KEY 1 that wait for every association to switch | list | R416 | empty -/
  rotations : List (Instr × Nat) := []
  /-- SEQ counter of commands forwarded by this origin | 32 bits | R129 | 0 -/
  forwardSeq : Word := 0
  /-- forwarded commands of this origin awaiting statuses | records | R130 | none -/
  forwards : List ForwardWait := []
  /-- forwarded commands already received: origin and SEQ | list | R129 | empty -/
  seen : List (Nat × Word) := []
  /-- linked jobs: polder, run and the member that takes part (known by the tensors it sends) | list | R42, R364, R423 | empty -/
  jobs : List (Nat × Nat × Nat) := []
deriving DecidableEq, Repr

/-- A breach-log entry (R354). -/
structure Breach where
  /-- INDEX | 32 bits | R354 | next index -/
  index : Nat
  /-- count of its tide | 48 bits | R354 | the label at its record -/
  count : Nat
  /-- KIND | 8 bits | R354, R355 | by its cause -/
  kind : Nat
  /-- FLAGS | 8 bits | R354 | by its cause -/
  flags : Nat
  /-- POLDER, 255 none | 8 bits | R354 | by its cause -/
  polder : Nat
  /-- STACK, 255 none | 8 bits | R354 | by its cause -/
  stack : Nat
  /-- TILE, 255 none | 8 bits | R354 | by its cause -/
  tile : Nat
  /-- SUB | 8 bits | R355 | by its cause -/
  sub : Nat
  /-- DETAIL | 128 bits | R355 | by its cause -/
  detail : Nat
deriving DecidableEq, Repr

/-! ## Wardens -/

/-- Warden states. -/
inductive WState where
  | off
  | boot
  | armed
  | voting
  | muted
  | hold
deriving DecidableEq, Repr

/-- A kept fallback trajectory (R327). -/
structure Trajectory where
  /-- tag of its result | 10 bytes | R327 | the result's -/
  tag : Tag
  /-- its digest | 128 bits | R327 | the result's -/
  digest : BitVec 128
  /-- polder | 0 to 63 | R327 | the result's -/
  polder : Nat
  /-- run | 0 to 63 | R327 | the result's -/
  run : Nat
  /-- time of the edge that closed its tide | quarter-ms | R327 | that edge -/
  closeQ : Nat
  /-- step between points | ms | R327 | from the result -/
  stepMs : Nat
  /-- fallback points | list | R327 | from the result -/
  points : List (List Byte)
deriving DecidableEq, Repr

/-- A result queued for emission by a warden, or seen by it (R312). -/
structure Vote where
  /-- polder | 0 to 63 | R312 | the result's -/
  polder : Nat
  /-- run | 0 to 63 | R312 | the result's -/
  run : Nat
  /-- tag of the result | 10 bytes | R312 | the result's -/
  tag : Tag
  /-- digests by channel, none where a fault marker came | list | R310, R312 | as the frames came -/
  frames : List (Nat × Option (BitVec 128))
  /-- digest already emitted | 128 bits | R315, R316 | none -/
  emitted : Option (BitVec 128) := none
  /-- payload of the voted result | bytes | R316 | as the frame gave it -/
  payload : List Byte := []
  /-- the payload carries a trajectory | 1 bit | R327 | by its image -/
  trajectory : Bool := false
  /-- its deadline passed without it | 1 bit | R319 | false -/
  missing : Bool := false
deriving DecidableEq, Repr

/-- A schedule record held by the wardens (R325). -/
structure Schedule where
  /-- polder | 0 to 63 | R325 | the run's -/
  polder : Nat
  /-- run | 0 to 63 | R325 | the run's -/
  run : Nat
  /-- period in tides | 16 bits | R325 | the run's -/
  period : Nat
  /-- deadline in tides | 16 bits | R325 | the run's -/
  deadline : Nat
  /-- SEQ of the schedule record | 32 bits | R325 | the record's -/
  seq : Word
deriving DecidableEq, Repr

structure WardenSt where
  /-- warden state | 6 states | R320 | BOOT (power applied) -/
  state : WState := .boot
  /-- state from which it entered HOLD | state | R320, R329 | ARMED -/
  before : WState := .armed
  /-- muted | 1 bit | R319 | false -/
  muted : Bool := false
  /-- start-up injection passed since its boot | 1 bit | R344 | false -/
  injectionOk : Bool := false
  /-- consecutive good tide marks | count | R320 | 0 -/
  goodMarks : Nat := 0
  /-- its own tide count | 48 bits | R40 | DC 0 -/
  count : Nat := 0
  /-- tides without a mark | count | R49, R326 | 0 -/
  missing : Nat := 0
  /-- marks have stopped (TIDE_MARK recorded) | 1 bit | R49 | false -/
  stopped : Bool := false
  /-- elapsed indices of late or mismatched marks within 1,000 tides | list | R319 | empty -/
  badMarks : List Nat := []
  /-- the vote cut-off of the tide has passed | 1 bit | R312 | false -/
  cut : Bool := false
  /-- lanes faulted or with a discard: lane and elapsed index | list | R319 | empty -/
  badLanes : List (Nat × Nat) := []
  /-- CRC discards per lane | counts | R311 | 0 -/
  discards : Table Nat := []
  /-- oscillator more than 20 ppm off | 1 bit | R319 | false -/
  oscBad : Bool := false
  /-- ports of its port map that are down | count | R319 | 0 -/
  portsDown : Nat := 0
  /-- die temperature at or above 115 °C | 1 bit | R319 | DC false -/
  hot : Bool := false
  /-- results of the tide | list | R312 | empty -/
  votes : List Vote := []
  /-- verdict lines received from its peer | list | R313 | none -/
  peer : Option (List VerdictLine) := none
  /-- tides without a peer verdict | count | R320 | 0 -/
  peerSilent : Nat := 0
  /-- consecutive conflict tides | count | R319 | 0 -/
  conflicts : Nat := 0
  /-- segments queued per port, oldest first | list | R317 | empty -/
  queue : List Segment := []
  /-- kept trajectory | record | R327 | none -/
  trajectory : Option Trajectory := none
  /-- next point of the replay | index | R327 | 0 -/
  nextPoint : Nat := 0
  /-- running a trial boot | 1 bit | R457 | false -/
  trial : Bool := false
  /-- runs the image of its other bank | 1 bit | R457 | false -/
  switched : Bool := false
  /-- its own fused anti-rollback counter | 16 bits | R447 | DC 0 -/
  antiRollback : Nat := 0
  /-- breach entries kept while the main package is down | at most 1,024 | R354 | empty -/
  kept : List Breach := []
deriving DecidableEq, Repr

/-- The ports that the port map assigns to the results of a run, and to the fallback points of its trajectory. -/
structure PortEntry where
  /-- polder | 0 to 63 | R316 | the manifest's -/
  polder : Nat
  /-- run | 0 to 63 | R316 | the manifest's -/
  run : Nat
  /-- ports of its results | list | R316 | the manifest's -/
  results : List Nat
  /-- ports of its fallback points | list | R327 | the manifest's -/
  points : List Nat
deriving DecidableEq, Repr

structure Wardens where
  /-- Warden A | record | R320 | reset -/
  a : WardenSt := {}
  /-- Warden B | record | R320 | reset -/
  b : WardenSt := {}
  /-- cross-link up | 1 bit | R315 | DC true -/
  crossLink : Bool := true
  /-- schedule records | at most 4,096 | R325 | empty -/
  schedules : List Schedule := []
  /-- the port map, from the manifest | map | R316, R327 | DC one port 0 for every result and point -/
  portMap : List PortEntry := []
deriving DecidableEq, Repr

/-! ## Safe state, self-test, breach log -/

/-- SAFE_HOLD in force: the row of R326, and whether the relaunch edge has passed. -/
structure Hold where
  /-- row of R326 | 1 to 9 | R326 | its cause -/
  row : Nat
  /-- its relaunch edge has passed | 1 bit | R326, R329 | false -/
  relaunched : Bool := false
  /-- waits for the wardens' marks | 1 bit | R329 | false -/
  waitMarks : Bool := false
deriving DecidableEq, Repr

/-- A warm restart or activation pause in progress: quarter-ms of its trigger, of the end of
the span in which BAR0 is unreachable (R472), and of the end of its phases. -/
structure Restart where
  /-- time of the trigger | quarter-ms | R330 | the trigger -/
  startQ : Nat
  /-- end of the span in which BAR0 is unreachable | quarter-ms | R472 | by its phases -/
  darkEndQ : Nat
  /-- end of its phases | quarter-ms | R330, R458 | by its phases -/
  endQ : Nat
  /-- an activation's pause | 1 bit | R458 | by its cause -/
  activation : Bool
deriving DecidableEq, Repr

/-- What SELFTEST_REPORT says of one item: its result code and the quarter-ms at which its last pass began (R347). -/
structure ItemResult where
  /-- result code | 0 to 3 | R347 | 3 (not run) -/
  result : Nat := 3
  /-- time at which its last pass began | quarter-ms | R347 | none -/
  passQ : Option Nat := none
deriving DecidableEq, Repr

/-- One tile's self-test (R335 to R342). -/
structure TileTest where
  /-- results of the tile's slices by 16 x item + number (unlisted: not yet tested) | 38 | R347 | not yet tested -/
  results : Table ItemResult := []
  /-- items that failed once and are repeated | list | R341 | empty -/
  repeating : List Nat := []
  /-- TEST_STARVED | 1 bit | R338 | 0 -/
  starved : Bool := false
  /-- consecutive swells in time while the reserve stands | count | R94 | 0 -/
  cleanSwells : Nat := 0
  /-- a checker was late in the present swell | 1 bit | R94 | false -/
  late : Bool := false
  /-- elapsed indices of arithmetic check failures | list | R342 | empty -/
  arith : List Nat := []
  /-- elapsed indices of SRAM uncorrectable errors | list | R342 | empty -/
  sramErrs : List Nat := []
  /-- the item whose slice is running | item | R336 | none -/
  slice : Option Nat := none
  /-- items due at once | list | R342 | empty -/
  due : List Nat := []
deriving DecidableEq, Repr

structure SafetySt where
  /-- SAFE_HOLD in force | record | R326, R473 | none -/
  hold : Option Hold := none
  /-- warm restart or pause in progress | record | R330 | none -/
  restart : Option Restart := none
  /-- quarter-ms of the warm restarts within 60 s | list | R326 | empty -/
  restarts : List Nat := []
  /-- the main package stays down until a cold start | 1 bit | R326 | false -/
  down : Bool := false
  /-- tiles' self-test state by 32s+n | 128 | R335 | reset -/
  tiles : Table TileTest := []
  /-- results of items outside the tiles and of injections, by 32 x item + instance | table | R343, R344 | not yet tested -/
  items : Table ItemResult := []
  /-- items outside the tiles that failed once and are repeated, as those keys | list | R343 | empty -/
  itemsRepeating : List Nat := []
  /-- quarter-ms of the last start whose injection passed | time | R347 | 0 -/
  injectionQ : Nat := 0
  /-- breach log, newest first | at most 16,384 entries of 32 bytes | R354 | empty -/
  log : List Breach := []
  /-- next INDEX | 32 bits | R354 | 0 -/
  nextIndex : Nat := 0
deriving DecidableEq, Repr

/-! ## Start-up, activation, DORMANT, debug, security -/

/-- An activation from its applying edge to its commit edge (R456 to R459): `stage` is 0 while Warden B boots on trial, 1
while Warden A does, 2 once both vote, 3 from the relaunch edge. -/
structure Activation where
  /-- the open FW_ACTIVATE | record | R456 | the command -/
  cmd : Instr
  /-- the staged image | record | R456 | the inactive bank's -/
  image : BankImage
  /-- stage (0 Warden B boots, 1 Warden A, 2 both vote, 3 relaunched) | 0 to 3 | R457, R458 | 0 -/
  stage : Nat := 0
  /-- its pause has begun | 1 bit | R458 | false -/
  paused : Bool := false
  /-- parts that were replaced | 16 bits | R458 | 0 -/
  mask : Nat := 0
  /-- SETTINGS_FORMAT before it | 16 bits | R460 | the running one -/
  oldFormat : Nat := 1
  /-- it is being undone | 1 bit | R459 | false -/
  reverting : Bool := false
deriving DecidableEq, Repr

/-- A unit the debug transport selects (R464). -/
structure Unit_ where
  /-- halted | 1 bit | R464 | false -/
  halted : Bool := false
  /-- halted at a breakpoint | 1 bit | R464 | false -/
  atBreak : Bool := false
  /-- slot of that breakpoint | 0 to 3 | R464 | 0 -/
  slot : Nat := 0
  /-- program counter while halted | 64 bits | R464 | 0 -/
  pc : Word64 := 0
  /-- steps left of a STEP | 16 bits | R464 | 0 -/
  steps : Nat := 0
  /-- breakpoints by slot | 4 x 64 bits | R464 | none -/
  breaks : Table Word64 := []
deriving DecidableEq, Repr

structure Startup where
  /-- activation in progress | record | R456 | none -/
  activation : Option Activation := none
  /-- FW_STAGE commands whose chunk is being written, in order | list | R454 | empty -/
  staging : List Instr := []
  /-- FW_VERIFY commands in progress, in order | list | R455 | empty -/
  verifying : List Instr := []
  /-- PWR_SLEEP.DORMANT | 1 bit | R399, R473 | 0 -/
  dormantReq : Bool := false
  /-- PWR_SLEEP.REFUSED | 1 bit | R399, R473 | 0 -/
  refused : Bool := false
  /-- PWR_SLEEP.WAKING | 1 bit | R473 | 0 -/
  waking : Bool := false
  /-- entry under way | 1 bit | R452 | false -/
  entering : Bool := false
  /-- MOD_STATUS.DORMANT | 1 bit | R452, R473 | 0 -/
  dormant : Bool := false
  /-- a wake event occurred during entry | 1 bit | R452 | false -/
  wakeLater : Bool := false
  /-- the active bank's firmware | bank | R444 | DC version 1 -/
  bank : Nat := 0
  /-- TAP instruction register | 8 bits | R462 | PRESUMED IDCODE (IEEE 1149.1) -/
  tap : Byte := 0x01
  /-- selected debug target | 16 bits | R464 | DC none -/
  target : Option Nat := none
  /-- access pointer | 64 bits | R465 | DC 0 -/
  pointer : Nat := 0
  /-- access space | 8 bits | R465 | DC 0 -/
  space : Nat := 0
  /-- debug units that differ from running: halted, at a breakpoint, slot, program counter, steps left, breakpoints | table | R464 | all running -/
  units : Table Unit_ := []
  /-- bytes of control-core and warden memory that the debug transport has written in a halted unit, by unit, space and address | table | R465 | none -/
  poked : Table Nat := []
  /-- TDI state per virtual function (unlisted: CONFIG_UNLOCKED) | 64 x 2 bits | R433, R470 | 0 -/
  tdi : Table Nat := []
  /-- DEBUG_UNLOCK in progress: its command and scope | record | R437 | none -/
  unlocking : Option Instr := none
  /-- LIFECYCLE_ADVANCE to DECOMMISSIONED in progress | command | R427 | none -/
  decommissioning : Option Instr := none
deriving DecidableEq, Repr

/-! ## The whole state -/

/-- The state of the module. `pending` is the queue of commands that wait, first in, first out; `out` is the
record of what the module has put on its pins, newest first; `fresh` is the counter that the free values
of Config are applied to (both the model's own). -/
structure State where
  /-- commands that wait, first in first out (the model's own) | list | the block's cut | empty -/
  pending : List Instr := []
  /-- identity and fuses | record | R424, R473 | its fields -/
  ident : Ident := {}
  /-- flash | record | R444, R460 | its fields -/
  flash : Flash := {}
  /-- always-on logic | record | R17, R22 | its fields -/
  aon : Aon := {}
  /-- the tide | record | R37, R50 | its fields -/
  tide : Tide := {}
  /-- time | record | R43 | its fields -/
  time : Time := {}
  /-- host side | record | R102, R397 | its fields -/
  host : HostSide := {}
  /-- polders and admitted work | record | R70, R86 | its fields -/
  work : Work := {}
  /-- codec engine | record | R279 | its fields -/
  codec : Codec := {}
  /-- power and heat | record | R357, R375 | its fields -/
  power : Power := {}
  /-- memory | record | R165, R193 | its fields -/
  mem : Mem := {}
  /-- clocks | record | R387 | its fields -/
  clocks : Clocks := {}
  /-- Levee | record | R409 | its fields -/
  links : Links := {}
  /-- wardens | record | R307 | its fields -/
  wardens : Wardens := {}
  /-- SAFE_HOLD, self-test, breach log | record | R326, R335, R354 | its fields -/
  safety : SafetySt := {}
  /-- start-up, firmware, DORMANT, debug | record | R448, R456, R462 | its fields -/
  startup : Startup := {}
  /-- what the module has put on its pins and buses, newest first (the model's own) | list | the block's outputs | empty -/
  out : List Out := []
  /-- counter to which the free values are applied (the model's own) | number | free values | 0 -/
  fresh : Nat := 0
deriving DecidableEq, Repr

/-- Faults: reasons for which the machine stops. There is none: nothing that the spec describes stops the module, and every
command goes on to a next state. -/
inductive Fault where
deriving DecidableEq, Repr

/-- Refusals: reasons for which a command has no meaning in the model. -/
inductive Refusal where
  /-- Raised by an arm of exec for a command that has no meaning yet. Safe: nothing is claimed of it. -/
  | notModelled (mnemonic : String)
deriving DecidableEq, Repr

/-- The module right after reset: the registers at their Reset values, as the host first finds them at
the end of stage 4 of a cold start (R10, R451, R473), on a module as shipped, never yet run. -/
def State.reset : State := {}

end Sys2Proof.Machine
end

