-- ==== Sys2Proof/Machine/Ops.lean ====
section
/-! DEFINITION. Machine/Ops.lean: the named operations that the meanings share: tables, bytes, tide labels,
the breach log, the interrupt hub, completion records, and entering SAFE_HOLD. -/

namespace Sys2Proof.Machine

/-! ## Tables -/

/-- The value at a key. -/
def tget {α : Type} : Table α → Nat → Option α
  | [], _ => none
  | (k, v) :: r, x => if k = x then some v else tget r x

/-- Set a key, keeping keys strictly ascending. -/
def tset {α : Type} : Table α → Nat → α → Table α
  | [], x, a => [(x, a)]
  | (k, v) :: r, x, a =>
    if x < k then (x, a) :: (k, v) :: r
    else if x = k then (x, a) :: r
    else (k, v) :: tset r x a

/-- Remove a key. -/
def tdel {α : Type} (t : Table α) (x : Nat) : Table α := t.filter fun p => p.1 ≠ x

/-- Apply a function at a key that is present. -/
def tmod {α : Type} (t : Table α) (x : Nat) (f : α → α) : Table α :=
  t.map fun p => if p.1 = x then (p.1, f p.2) else p

/-- The first number below `n` from `k` on that is no key of the table. -/
def tfree {α : Type} (t : Table α) : Nat → Nat → Option Nat
  | 0, _ => none
  | f + 1, k => if (tget t k).isNone then some k else tfree t f (k + 1)

/-! ## Numbers and bytes -/

/-- A counter that saturates at 0xFFFF_FFFF (R474). -/
def sat32 (n : Nat) : Nat := min n 4294967295

/-- The `n` low bytes of a number, little-endian. -/
def le : Nat → Nat → List Byte
  | 0, _ => []
  | n + 1, v => BitVec.ofNat 8 v :: le n (v / 256)

/-- The number that little-endian bytes hold. -/
def unle : List Byte → Nat
  | [] => 0
  | b :: r => b.toNat + 256 * unle r

/-! ## Packing (R138) -/

/-- Elements of n bits packed in element order, little-endian, in as many bytes as they touch. -/
def packElems (n : Nat) (es : List Nat) : List Byte :=
  let total := es.length * n
  le ((total + 7) / 8) (es.reverse.foldl (fun acc e => acc * 2 ^ n + e % 2 ^ n) 0)

/-- Elements of n bits padded with zero elements to whole packing groups, and packed. -/
def packTensor (n : Nat) (es : List Nat) : List Byte :=
  let group := if n = 4 then 2 else if n = 6 then 4 else 1
  packElems n (es ++ List.replicate ((group - es.length % group) % group) 0)

/-- Bytes padded with zeros to a length. -/
def padTo (n : Nat) (bs : List Byte) : List Byte := bs.take n ++ List.replicate (n - bs.length) 0

/-- A bit of a number as 0 or 1. -/
def bit (b : Bool) : Nat := if b then 1 else 0

/-- The two's complement byte of a temperature. -/
def tempByte (t : Int) : Nat := (t % 256).toNat

/-- serial_lt of R66. -/
def serialLt (a b : Word) : Bool := let d := (b - a).toNat; d ≠ 0 && d < 2147483648

/-! ## Tide labels -/

/-- Epoch and TN of a tide count (R47). -/
def epochOf (count : Nat) : Nat := count / 4294967296
def tnOf (count : Nat) : Nat := count % 4294967296

/-- The label of a tide index at or after the tide in progress, in the labels in force. -/
def countAt (s : State) (ix : Nat) : Nat := s.tide.count + (ix - s.tide.ix)

/-- The tide period in ns. -/
def periodNs (s : State) : Nat := s.tide.periodQ * Config.quarterNs

/-- W_S in ns (R79): S_SHARE of the period, in 5% steps. -/
def windowNs (s : State) : Nat := s.work.sShare * 5 * periodNs s / 100

/-- Whether the tide index is the first of a swell (R53). -/
def swellStart (s : State) : Bool := (s.tide.ix - s.tide.swellIx) % s.tide.swellLen = 0

/-! ## The breach log (R354) -/

/-- The replacement flag of a breach. -/
def replaceFlag : Nat := 2

/-- The main package is powered. -/
def mainUp (s : State) : Bool := s.aon.switchClosed && !s.safety.down

/-- An event of the module raises one of the sources 1,696 to 1,759 of a hub, towards the control cores (R401);
the spec does not say which (assumption log 40). -/
def moduleEvent (hub k : Nat) (s : State) : State :=
  { s with out := .coreInterrupt hub (1696 + Config.eventSource k % 64) :: s.out }

/-- The hub of a place in a breach entry: IO1 for CS2, CS3 and Warden B (R401). -/
def breachHub (stack : Nat) : Nat := if stack = 2 || stack = 3 || stack = 17 then 1 else 0

/-- Record a breach: INDEX and tide are those of the moment; a breach that calls for replacement lights
FLT until the next cold start (R28); the latest 16,384 entries are kept. -/
def recordBreach (kind flags polder stack tile sub detail : Nat) (s : State) : State :=
  { moduleEvent (breachHub stack) kind s with
    safety.log := (((⟨s.safety.nextIndex, s.tide.count, kind, flags, polder, stack, tile, sub, detail⟩ : Breach) :: s.safety.log).take
      Config.logLimit)
    safety.nextIndex := s.safety.nextIndex + 1
    aon.replace := s.aon.replace || flags / 2 % 2 = 1 }

/-- Copy the breach log to flash. -/
def flushLog (s : State) : State := { s with flash.breachCopied := s.safety.nextIndex }

/-- A breach that a warden records: into the log, or, while the main package is down, into its own store
of up to 1,024 entries (R354). -/
def getWarden (s : State) (w : Warden) : WardenSt :=
  match w with
  | .A => s.wardens.a
  | .B => s.wardens.b

def setWarden (s : State) (w : Warden) (x : WardenSt) : State :=
  match w with
  | .A => { s with wardens.a := x }
  | .B => { s with wardens.b := x }

def wardenNo : Warden → Nat
  | .A => 0
  | .B => 1

def otherWarden : Warden → Warden
  | .A => .B
  | .B => .A

def wardenBreach (w : Warden) (kind flags polder tile sub detail : Nat) (s : State) : State :=
  let st := 16 + wardenNo w
  if mainUp s then recordBreach kind flags polder st tile sub detail s
  else
    let x := getWarden s w
    let s := { s with aon.replace := s.aon.replace || flags / 2 % 2 = 1 }
    setWarden s w { x with kept := (x.kept ++ [(⟨0, x.count, kind, flags, polder, st, tile, sub, detail⟩ : Breach)]).take 1024 }

/-! ## Functions, sluices and hubs -/

/-- Key of a function in the tables. -/
def fnKey : Fn → Nat
  | .pf0 => 0
  | .pf0b => 1
  | .vf p => 2 + p

/-- Key of a sluice; the two PF0 instances divide one set of 16 sluices between them (R102). -/
def sluiceKey : Fn → Nat → Nat
  | .vf p, n => 16 * (2 + p) + n
  | _, n => n

def getFunc (s : State) (fn : Fn) : Func := (tget s.host.funcs (fnKey fn)).getD {}
def setFunc (s : State) (fn : Fn) (f : Func) : State := { s with host.funcs := tset s.host.funcs (fnKey fn) f }
def getSluice (s : State) (fn : Fn) (n : Nat) : Sluice := (tget s.host.sluices (sluiceKey fn n)).getD {}
def setSluice (s : State) (fn : Fn) (n : Nat) (x : Sluice) : State :=
  { s with host.sluices := tset s.host.sluices (sluiceKey fn n) x }

def getPolder (s : State) (p : Nat) : Option Polder := tget s.work.polders p
def setPolder (s : State) (p : Nat) (x : Polder) : State := { s with work.polders := tset s.work.polders p x }
def modPolder (s : State) (p : Nat) (f : Polder → Polder) : State := { s with work.polders := tmod s.work.polders p f }

def isPf0 : Fn → Bool
  | .vf _ => false
  | _ => true

/-- The function exists on the bus: PF0, PF0 of link 1 in bifurcated mode only, an enabled VF (R70). -/
def fnEnabled (s : State) : Fn → Bool
  | .pf0 => true
  | .pf0b => s.host.bifurcated
  | .vf p => decide (p < s.host.numVfs) && decide (p < 64)

/-- Whether the function owns the sluice number (R102). -/
def ownsSluice (s : State) : Fn → Nat → Bool
  | .pf0, n => if s.host.bifurcated then n < 8 else n < 16
  | .pf0b, n => s.host.bifurcated && 8 ≤ n && n < 16
  | .vf p, n => match getPolder s p with
    | some x => n < x.sluices
    | none => false

def sluiceSize (x : Sluice) : Nat := 2 ^ x.sizeLog2

/-- Free completion slots of R106. -/
def cplFree (x : Sluice) : Nat := (x.cplHead + 2 * sluiceSize x - x.cplTail - 1) % sluiceSize x

/-- Completions owed to fetched commands (R106). -/
def owedCount (x : Sluice) : Nat := (x.owed.map fun e => 1 + bit e.first).sum

/-- A completion settles what its command was owed (R106). -/
def settle (seq : Word) (final : Bool) : List Owed → List Owed
  | [] => []
  | e :: r => if e.seq = seq then (if final then r else { e with first := false } :: r) else e :: settle seq final r

/-- Completions that stay owed once the held ones are written. -/
def owedAfter (x : Sluice) : Nat := owedCount { x with owed := x.heldCpl.foldl (fun l c => settle c.seq c.final l) x.owed }

def getHub (s : State) (h : Nat) : Hub := if h = 0 then s.host.hub0 else s.host.hub1
def setHub (s : State) (h : Nat) (x : Hub) : State :=
  if h = 0 then { s with host.hub0 := x } else { s with host.hub1 := x }

def getTdi (s : State) (p : Nat) : Nat := (tget s.startup.tdi p).getD 0
def setTdi (s : State) (p v : Nat) : State := { s with startup.tdi := tset s.startup.tdi p v }

/-- Record an output. -/
def emit (o : Out) (s : State) : State := { s with out := o :: s.out }

/-! ## The interrupt hub (R401 to R407, R480) -/

/-- Hub and source of a function's vector (R401, R480). -/
def vectorSource : Fn → Nat → Nat × Nat
  | .pf0, v => (0, 576 + v)
  | .pf0b, v => (1, 576 + v)
  | .vf p, v => (p / 32, 18 * (p % 32) + v)

/-- The function that a host source serves, and its vector; none for a control-core source. -/
def sourceTarget (hub src : Nat) : Option (Fn × Nat) :=
  if src < 576 then some (.vf (32 * hub + src / 18), src % 18)
  else if src < 594 then some (if hub = 0 then .pf0 else .pf0b, src - 576)
  else none

/-- Threshold of a host target (R475). -/
def hostThreshold (s : State) : Fn → Nat
  | .pf0 => (tget s.host.tgtThr 64).getD 0
  | .pf0b => (tget s.host.tgtThr 65).getD 0
  | .vf p => (tget s.host.tgtThr p).getD 0

/-- A source at its reset: firmware holds the clock monitor flags at priority 15; the others come up at the register's 8
(R402, R408; assumption log 60). -/
def sourceReset (src : Nat) : Source := { priority := if 1568 ≤ src && src < 1668 then 15 else 8 }

def getSource (s : State) (hub src : Nat) : Source := (tget (getHub s hub).sources src).getD (sourceReset src)
def setSource (s : State) (hub src : Nat) (x : Source) : State :=
  let h := getHub s hub
  setHub s hub { h with sources := tset h.sources src x }

/-- The source may be delivered to its host target now: an MSI-X message needs the host link (R402, R407). -/
def deliverable (s : State) (hub src : Nat) : Bool :=
  let x := getSource s hub src
  let h := getHub s hub
  match sourceTarget hub src with
  | some (fn, _) => s.host.linkUp && x.ready && !h.hold && !h.fwHold && decide (hostThreshold s fn < x.priority)
  | none => false

/-- Deliver one host source: an MSI-X message, or a pending bit while the vector is masked (R404). -/
def deliver (hub src : Nat) (s : State) : State :=
  if deliverable s hub src then
    match sourceTarget hub src with
    | some (fn, v) =>
      let s := setSource s hub src { getSource s hub src with count := 0, ready := false }
      let f := getFunc s fn
      if v ∈ f.unmasked then emit (.msix fn v) s
      else setFunc s fn { f with msixPending := if v ∈ f.msixPending then f.msixPending else v :: f.msixPending }
    | none => s
  else s

/-- Insert a source into a list in delivery order: higher priority first, then higher number (R402, R14). -/
def insertSource (prio : Nat → Nat) (x : Nat) : List Nat → List Nat
  | [] => [x]
  | y :: r => if prio y < prio x || (prio y = prio x && y < x) then x :: y :: r else y :: insertSource prio x r

/-- Every ready host source of a hub, in delivery order. -/
def readyOrder (s : State) (hub : Nat) : List Nat :=
  let src := (getHub s hub).sources
  (src.filter fun p => p.2.ready && decide (p.1 < 594)).foldl
    (fun acc p => insertSource (fun k => (getSource s hub k).priority) p.1 acc) []

/-- Deliver every ready source of a hub in the order of R402. -/
def deliverAll (hub : Nat) (s : State) : State := (readyOrder s hub).foldl (fun st k => deliver hub k st) s

/-- A wake event of R400: in DORMANT the wake begins; during entry it begins when the entry ends (R452). -/
def wakeEvent (s : State) : State :=
  if s.startup.dormant then { s with startup.waking := true, startup.dormantReq := false }
  else if s.startup.entering then { s with startup.wakeLater := true, startup.dormantReq := false }
  else s

/-- An event of a source: it counts, becomes ready at COAL_COUNT, and is delivered if it may be (R406).
In DORMANT the AON logic latches it, and it wakes the module if its WAKE bit is set (R400, R408). An unpowered main package
raises nothing (R29). -/
def raise (hub src : Nat) (s : State) : State :=
  if !mainUp s then s
  else if s.startup.dormant then
    let h := getHub s hub
    let s' := setHub s hub { h with latched := h.latched ++ [src] }
    if (getSource s hub src).wake then wakeEvent s' else s'
  else
    let x := getSource s hub src
    let c := min (x.count + 1) 255
    let s := setSource s hub src { x with count := c, ready := x.ready || decide (x.coalCount ≤ c) }
    match sourceTarget hub src with
    | some _ => deliver hub src s
    | none => if x.coalCount ≤ c then emit (.coreInterrupt hub src) s else s

/-- Raise a vector of a function. -/
def raiseVector (fn : Fn) (v : Nat) (s : State) : State := let (h, k) := vectorSource fn v; raise h k s

/-- Raise a PF0 vector that concerns the whole module: on both hubs in bifurcated mode (R480). -/
def raisePf0 (v : Nat) (s : State) : State :=
  let s := raiseVector .pf0 v s
  if s.host.bifurcated then raiseVector .pf0b v s else s

/-- A pin's filter accepts a new level: source 2,032 + n of the IO0 hub, while the main package is powered (R401, R405, R475;
assumption log 61). -/
def pinLevel (n : Nat) (s : State) : State := if mainUp s then raise 0 (2032 + n) s else s

/-! ## Completion records (R106, R107, R110, R117) -/

/-- Completions and fetches of the function may use the bus (R398, R434). -/
def busOk (s : State) (fn : Fn) : Bool :=
  s.host.linkUp && (getFunc s fn).busMaster && s.safety.restart.isNone &&
    match fn with
    | .vf p => decide (p < s.host.numVfs) && getTdi s p ≠ 3
    | _ => true

/-- Write a host buffer, or hold the write while the function's bus cannot be used: no DMA then (R398, R434). -/
def hostWrite (fn : Fn) (addr : Word64) (bytes : List Byte) (s : State) : State :=
  if busOk s fn then emit (.hostWrite fn addr bytes) s
  else { s with host.heldWrites := s.host.heldWrites ++ [(fn, addr, bytes)] }

/-- Make the held buffer writes of a function. -/
def flushWrites (fn : Fn) (s : State) : State :=
  if busOk s fn then
    (s.host.heldWrites.filter fun w => w.1 = fn).foldl (fun st w => emit (.hostWrite fn w.2.1 w.2.2) st)
      { s with host.heldWrites := s.host.heldWrites.filter fun w => w.1 ≠ fn }
  else s

/-- Number of the command that a SEQ names, among those that the sluice fetched. -/
def commandNo (x : Sluice) (seq : Word) : Nat := ((x.owed.find? (·.seq = seq)).map (·.no)).getD x.fetches

/-- Write a record into the next completion slot, with its phase and DROPPED bits; CPL_TAIL advances and
the phase flips at the wrap; IRQ_EN raises the sluice's vector (R106, R107). -/
def writeRecord (fn : Fn) (n : Nat) (c : Completion) (s : State) : State :=
  let x := getSluice s fn n
  let c := { c with phase := x.phase, dropped := x.dropped }
  let tail := (x.cplTail + 1) % sluiceSize x
  let s := setSluice s fn n
    { x with cplTail := tail, phase := if tail = 0 then !x.phase else x.phase, dropped := false,
             owed := settle c.seq c.final x.owed, lastPut := some (s.tide.ix, commandNo x c.seq) }
  let s := emit (.completion fn n x.cplTail c) s
  if x.irqEn then raiseVector fn n s else s

/-- Write a first or final completion now, or hold it, in order, while the ring cannot be written. -/
def postNow (fn : Fn) (n : Nat) (c : Completion) (s : State) : State :=
  let x := getSluice s fn n
  if x.ringFault || x.bounceStopped || x.heldCpl ≠ [] || !busOk s fn then setSluice s fn n { x with heldCpl := x.heldCpl ++ [c] }
  else writeRecord fn n c s

/-- Write an interim completion that is not a first one only while the free slots exceed the owed count, those that are held
counted as written, and drop it otherwise (R106). -/
def interimNow (fn : Fn) (n : Nat) (c : Completion) (s : State) : State :=
  let x := getSluice s fn n
  if owedAfter x + x.heldCpl.length < cplFree x then postNow fn n c s else setSluice s fn n { x with dropped := true }

/-- The intake of the command that a SEQ names on a sluice. -/
def intakeOf (s : State) (fn : Fn) (n : Nat) (seq : Word) : Nat :=
  match (getSluice s fn n).owed.find? (fun e => e.seq = seq) with
  | some e => e.intakeIx
  | none => s.tide.ix

/-- A record of a later command of the sluice has been written in this tide, so that this one waits for the next: within a tide
records stand in merge order (R117). -/
def outOfTurn (s : State) (x : Sluice) (seq : Word) : Bool :=
  x.lastPut.any fun l => l.1 = s.tide.ix && decide (commandNo x seq < l.2)

/-- Post a completion: at once, or gathered for the end of an edge: of the one in progress, or, out of turn, of the next
(R117). -/
def postWith (interim : Bool) (fn : Fn) (n : Nat) (c : Completion) (s : State) : State :=
  if s.host.gathering || outOfTurn s (getSluice s fn n) c.seq then
    { s with host.gathered := s.host.gathered ++ [(⟨fn, n, intakeOf s fn n c.seq, interim, c⟩ : Gathered)] }
  else if interim then interimNow fn n c s
  else postNow fn n c s

/-- Post a first or final completion. -/
def post (fn : Fn) (n : Nat) (c : Completion) (s : State) : State := postWith false fn n c s

/-- Post an interim completion that is not a first one. -/
def postInterim (fn : Fn) (n : Nat) (c : Completion) (s : State) : State := postWith true fn n c s

/-- The merge order of the commands that two gathered completions answer: intake tide, rank, source, SEQ (R62). -/
def gatheredBefore (a b : Gathered) : Bool :=
  if a.intakeIx ≠ b.intakeIx then a.intakeIx < b.intakeIx
  else if fnKey a.fn ≠ fnKey b.fn then fnKey a.fn < fnKey b.fn
  else if a.sluice ≠ b.sluice then a.sluice < b.sluice
  else serialLt a.cpl.seq b.cpl.seq

/-- Insert keeping the order, after every entry that it does not precede. -/
def insertGathered (x : Gathered) : List Gathered → List Gathered
  | [] => [x]
  | y :: r => if gatheredBefore x y then x :: y :: r else y :: insertGathered x r

/-- Begin gathering the completions of an edge, with those that wait for it. -/
def beginGather (s : State) : State := { s with host.gathering := true }

/-- The completing tide of a record is the tide in which it is written (R111). -/
def stampTide (s : State) (c : Completion) : Completion := { c with epoch := epochOf s.tide.count, tn := tnOf s.tide.count }

/-- Write the gathered completions in merge order (R117). -/
def endGather (s : State) : State :=
  let g := s.host.gathered.foldl (fun acc x => insertGathered x acc) []
  g.foldl (fun st x => if x.interim then interimNow x.fn x.sluice (stampTide st x.cpl) st
      else postNow x.fn x.sluice (stampTide st x.cpl) st)
    { s with host.gathering := false, host.gathered := [] }

/-- Insert a held completion by its command, after every one that it does not precede. -/
def insertHeld (x : Sluice) (c : Completion) : List Completion → List Completion
  | [] => [c]
  | d :: r => if commandNo x c.seq < commandNo x d.seq then c :: d :: r else d :: insertHeld x c r

/-- Write the held completions of a sluice, which complete in the tide in progress, in merge order (R107, R117, R398). -/
def flushHeld (fn : Fn) (n : Nat) (s : State) : State :=
  let x := getSluice s fn n
  if x.ringFault || x.bounceStopped || !busOk s fn then s
  else (x.heldCpl.foldl (fun l c => insertHeld x c l) []).foldl (fun st c => writeRecord fn n (stampTide s c) st)
    (setSluice s fn n { x with heldCpl := [] })

/-- A completion of a command in the tide in progress. -/
def completion (s : State) (h : Hdr) (st : Status) (final : Bool) (r : Reason) (payload : List Byte) : Completion :=
  { seq := h.seq, status := st, phase := false, final := final, lateInput := false, shed := false,
    dropped := false, held := false, opcode := h.opcode, epoch := epochOf s.tide.count,
    tn := tnOf s.tide.count, reason := r, payload := padTo 16 payload }

/-- Final completion of a command. -/
def finish (h : Hdr) (st : Status) (r : Reason) (payload : List Byte) (s : State) : State :=
  post h.fn h.sluice (completion s h st true r payload) s

/-- First completion ST_ACCEPTED of a command (R110). -/
def accept (h : Hdr) (s : State) : State := post h.fn h.sluice (completion s h .accepted false .none []) s

/-- ST_ACCEPTED, unless the command's first completion has already been written (a held command, R126). -/
def acceptOnce (h : Hdr) (s : State) : State :=
  if (getSluice s h.fn h.sluice).owed.any (fun e => e.seq = h.seq && e.first) then accept h s else s

/-- The function's sluices that exist. -/
def sluicesOf (s : State) : Fn → List Nat
  | .pf0 => if s.host.bifurcated then List.range 8 else List.range 16
  | .pf0b => (List.range 8).map (· + 8)
  | .vf p => match getPolder s p with
    | some x => List.range x.sluices
    | none => []

/-- Make a function's held buffer writes, and write every held completion of it. -/
def flushFn (fn : Fn) (s : State) : State := (sluicesOf s fn).foldl (fun st n => flushHeld fn n st) (flushWrites fn s)

/-! ## The header of a command -/

/-- The header of a sluice command; none for an event. -/
def hdrOf : Instr → Option Hdr
  | .identify h => some h
  | .setTide h _ _ => some h
  | .setTimebase h _ _ => some h
  | .getHealth h => some h
  | .polderCreate h _ _ _ _ _ _ => some h
  | .polderDestroy h => some h
  | .polderReset h => some h
  | .polderQuery h => some h
  | .setTokenBudget h _ _ => some h
  | .graphLoad h _ _ _ _ _ => some h
  | .graphUnload h _ => some h
  | .graphQueryPlacement h _ _ => some h
  | .runAtTide h _ _ _ _ _ _ => some h
  | .runPeriodic h _ _ _ _ _ _ _ _ => some h
  | .streamBind h _ _ _ _ _ _ => some h
  | .runStop h _ _ => some h
  | .modelVariantAdd h _ _ _ _ => some h
  | .requestSubmit h _ _ _ _ _ => some h
  | .requestCancel h _ _ => some h
  | .commonsJoin h _ => some h
  | .codecSessionOpen h _ _ _ _ _ _ => some h
  | .codecSessionClose h _ => some h
  | .codecPicture h _ _ _ _ _ => some h
  | .setPhaseOp h _ => some h
  | .setPowerCap h _ _ _ _ => some h
  | .getTelemetry h _ => some h
  | .safetyProfileSet h _ _ => some h
  | .goldenSet h _ _ => some h
  | .breachLogRead h _ _ => some h
  | .attest h _ _ => some h
  | .keyRotateMemory h => some h
  | .keyRotateLink h _ => some h
  | .lifecycleAdvance h _ => some h
  | .fwStage h _ _ _ _ _ => some h
  | .fwVerify h => some h
  | .fwActivate h _ _ => some h
  | .selftestReport h _ => some h
  | .debugUnlock h _ => some h
  | .tidePreset h _ _ => some h
  | .linkConfig h _ _ _ => some h
  | .linkStatus h _ => some h
  | _ => none

/-- Final completion of a command given as an instruction. -/
def finishCmd (c : Instr) (st : Status) (r : Reason) (payload : List Byte) (s : State) : State :=
  match hdrOf c with
  | some h => finish h st r payload s
  | none => s

/-- The polder that a command concerns: the function's own, or the one PF0 names. -/
def polderOf (h : Hdr) : Nat :=
  match h.fn with
  | .vf p => p
  | _ => h.polder

/-! ## SAFE_HOLD and warm restart (R326, R330) -/

/-- The first point of a kept trajectory whose time has not passed at a time (R327). -/
def firstPoint (nowQ : Nat) (x : WardenSt) : Nat :=
  match x.trajectory with
  | some t => (nowQ - t.closeQ + 4 * t.stepMs - 1) / max (4 * t.stepMs) 1
  | none => 0

/-- A warden enters HOLD with its peer (R326). -/
def toHold (nowQ : Nat) (x : WardenSt) : WardenSt :=
  match x.state with
  | .armed | .voting | .muted => { x with state := .hold, before := x.state, nextPoint := firstPoint nowQ x }
  | _ => x

/-- A port of an unpowered main package: electrically idle, with nothing kept of its link (R29). -/
def darkPort (x : Port) : Port :=
  { x with state := 0, lanes := 0, step := 0, peer := 0, attempts := 0, waitS := 0, retry := [] }

/-- Power the main package down: the switch opens, no tide runs, its links are dark, and a command that it held is lost
(R29, R36, R379, R383). -/
def powerDown (row : Nat) (s : State) : State :=
  { s with
    aon.held := none
    links.ports := s.links.ports.map fun p => (p.1, darkPort p.2)
    links.assocs := s.links.assocs.map fun a => (a.1, { a.2 with live := false, ports := [] })
    aon.switchClosed := false
    aon.downRow := some row
    tide.running := false
    tide.discard := true
    host.linkUp := false
    safety.restart := none
    startup.dormant := false
    startup.entering := false
    startup.waking := false }

/-- Clear a hub's pending state: it belonged to the discarded tide (R408). -/
def clearPending (h : Hub) : Hub :=
  { h with sources := h.sources.map fun p => (p.1, { p.2 with count := 0, ready := false }), running := [] }

/-- A warm restart during the pause, or in the first tide of the new firmware, goes back to the old firmware (R459). -/
def revertActivation (s : State) : State :=
  { s with startup.activation := s.startup.activation.map fun a => { a with reverting := true } }

/-- Start a warm restart at the trigger: the open tide is discarded, and the phases end within their
bounds; the relaunch edge is the first edge after them (R330). -/
def startRestart (s : State) : State :=
  let q := max 1 (min (Config.restartQuarters s.fresh) 2320)
  { revertActivation s with
    fresh := s.fresh + 1
    tide.discard := true
    mem.selfRefresh := true
    host.hub0 := { clearPending s.host.hub0 with fwHold := true }
    host.hub1 := { clearPending s.host.hub1 with fwHold := true }
    host.funcs := s.host.funcs.map fun p => (p.1, { p.2 with msixPending := [] })
    safety.restarts := s.tide.nowQ :: (s.safety.restarts.filter fun t => s.tide.nowQ < t + 240000)
    safety.restart := some ⟨s.tide.nowQ, s.tide.nowQ + min (Config.darkQuarters s.fresh) (min q 580), s.tide.nowQ + q, false⟩ }

/-- Keep the main package down until a cold start (row 7 of R326). -/
def stayDown (s : State) : State :=
  { s with safety.down := true, tide.running := false, tide.discard := true, safety.restart := none }

/-- Record the trigger and enter SAFE_HOLD: both wardens to HOLD, FLT steady, the log copied to flash,
PF0's fault vector raised (assumption log 41). -/
def declareHold (row : Nat) (s : State) : State :=
  let s := raisePf0 16 (recordBreach 6 0 255 255 255 row 0 s)
  let s := { s with
    safety.hold := match s.safety.hold with
      | some h => some { h with row := row }
      | none => some ⟨row, false, false⟩
    host.safeHoldSeen := true
    wardens.a := toHold s.tide.nowQ s.wardens.a
    wardens.b := toHold s.tide.nowQ s.wardens.b }
  flushLog s

/-- Abandon an activation that is still being prepared (R459). -/
def abandonActivation (s : State) : State :=
  match s.startup.activation with
  | some a =>
    if a.paused then s else finishCmd a.cmd .cancelled .none [] { s with startup.activation := none }
  | none => s

/-- The activation meets a trigger that powers the main package down, as a loss of supplies (R459). -/
def dropActivation (s : State) : State := { s with startup.activation := none }


/-- Enter SAFE_HOLD by a row of the trigger table of R326: rows 1 to 4 restart the main package (row 4
once the marks return), row 5 is the activation pause, rows 6 and 8 power the main package down, row 7
keeps it down; a fourth restart within 60 s is a trigger of row 7. -/
def enterHold (row : Nat) (s : State) : State :=
  let s := abandonActivation s
  let s := declareHold row s
  let recent := (s.safety.restarts.filter fun t => s.tide.nowQ < t + 240000).length
  if row = 6 || row = 8 then powerDown row (dropActivation s)
  else if row = 7 then stayDown (dropActivation s)
  else if row = 5 then s
  else if row = 4 then
    { s with tide.discard := true, safety.hold := some ⟨4, false, true⟩ }
  else if 3 ≤ recent then stayDown (dropActivation (declareHold 7 s))
  else startRestart s

/-- Work may launch: tides run, no restart or hold before its relaunch edge, not DORMANT, in service. -/
def mayLaunch (s : State) : Bool :=
  s.tide.running && s.safety.restart.isNone && !s.startup.dormant && !s.startup.entering && !s.startup.waking &&
    decide (s.ident.lifecycle ≠ .decommissioned) &&
    match s.safety.hold with
    | some h => h.relaunched
    | none => true

/-- A run or serving request is admitted in some polder, or a codec session is open (R54, R79, R286). -/
def workAdmitted (s : State) : Bool :=
  s.work.polders.any (fun p => p.2.runs ≠ [] || p.2.requests ≠ [])

def busyAdmitted (s : State) : Bool := workAdmitted s || s.codec.sessions ≠ []

/-! ## Byte memory (R465): one canonical list over every space -/

/-- Base of each space in the model's one address range: tile SRAM 32s+n at 2^26 x (32s+n) (48 MiB each), HBM
(192 GiB) at 2^40, the spillway (512 GiB) at 2^41, the scratchpads (8 MiB each) at 2^42. -/
def sramBase (tile : Nat) : Nat := 67108864 * tile
def hbmBase : Nat := 1099511627776
def spillBase : Nat := 2199023255552
def scrBase (io : Nat) : Nat := 4398046511104 + 8388608 * io

/-- What an address that is not listed reads as: zero. An SRAM line that was never written reads zero (R167), and
external memory is scrubbed with zeros (R187). -/
def blankByte : Byte := 0

/-- Read one byte. -/
def readByte : List Host.Cell → Nat → Byte
  | [], _ => blankByte
  | (k, v) :: r, x => if k = x then v else readByte r x

/-- Write one byte, keeping the canonical form: addresses ascending, no entry equal to the blank byte. -/
def writeByte : List Host.Cell → Nat → Byte → List Host.Cell
  | [], x, b => if b = blankByte then [] else [(x, b)]
  | (k, v) :: r, x, b =>
    if x < k then (if b = blankByte then (k, v) :: r else (x, b) :: (k, v) :: r)
    else if x = k then (if b = blankByte then r else (x, b) :: r)
    else (k, v) :: writeByte r x b

/-- Write consecutive bytes. -/
def writeBytes (m : List Host.Cell) (a : Nat) : List Byte → List Host.Cell
  | [] => m
  | b :: r => writeBytes (writeByte m a b) (a + 1) r

/-- Read consecutive bytes. -/
def readBytes (m : List Host.Cell) (a : Nat) : Nat → List Byte
  | 0 => []
  | n + 1 => readByte m a :: readBytes m (a + 1) n

/-- Drop every listed byte of a range: it reads zero again. -/
def clearRange (m : List Host.Cell) (lo hi : Nat) : List Host.Cell := m.filter fun c => c.1 < lo || hi ≤ c.1

/-- Keys strictly ascending. -/
def ascending : List Nat → Bool
  | a :: b :: r => decide (a < b) && ascending (b :: r)
  | _ => true

/-- The canonical form of byte memory. -/
def memWf (m : List Host.Cell) : Bool := ascending (m.map (·.1)) && m.all (fun c => c.2 ≠ blankByte)

end Sys2Proof.Machine
end

