-- ==== Sys2Proof/Machine/External.lean ====
section
/-! DEFINITION. Machine/External.lean: external memory: its geometry, the frames that polders hold with their page tags, the
keys that accesses select, hand-over by scrubbing, re-encryption sweeps, and what the memory pins carry (R171 to R176, R180 to
R189, R268, R431). -/

namespace Sys2Proof.Machine

/-! ## Geometry (R171, R173, R174, R190) -/

/-- Frames of 4 KiB in a tier: 192 GiB of HBM (1), 512 GiB of spillway (2). -/
def tierFrames (t : Nat) : Nat := if t = 1 then 50331648 else 134217728

/-- DRAM stack of an HBM frame: 24 GiB each, HBM s.0 and s.1 of compute stack s in order (R171; assumption log 70). -/
def dramOf (f : Nat) : Nat := f / 6291456

/-- Controller half of an HBM frame: half 0 serves the lower 12 GiB of a stack, half 1 the upper (R171). -/
def halfOf (f : Nat) : Nat := f / 3145728

/-- Compute stack whose DRAM holds an HBM frame. -/
def dramHome (f : Nat) : Nat := dramOf f / 2

/-- LPDDR5X channel of a spillway frame, 32 GiB each, and its I/O die: channels 0 to 7 at IO0 (R173). -/
def spillChannel (f : Nat) : Nat := f / 8388608
def spillDie (f : Nat) : Nat := spillChannel f / 8

/-- Byte offset within its channel of the check line of a spillway byte: the codes of 16 consecutive lines together, above the
32 GiB of data (R173, R174). -/
def checkLineAt (a : Nat) : Nat := 34359738368 + 64 * (a % 34359738368 / 1024)

/-- Bytes that a stream of so many bytes moves at the spillway's pins, check lines with them (R174). -/
def spillMoved (bytes : Nat) : Nat := bytes * 17 / 16

/-- The check line of 1 KiB of ciphertext (R174). -/
def checkLine (cipher : List Byte) : List Byte :=
  (List.range 16).flatMap fun i => le 4 (Config.spillCode ((cipher.drop (64 * i)).take 64)).toNat

/-- Arbiter instance of a frame: a controller half, or a half of the spillway (R190). -/
def frameArbiter (t f : Nat) : Nat := if t = 1 then 1024 + halfOf f else 1040 + spillDie f

/-- HBM that the module keeps: 2 GiB at the top of DRAM stacks 0 and 2, each with one copy of the warm-restart image and of
the page-tag table (R72, R177; assumption log 70). -/
def moduleKept : List (Nat × Nat) := [(5767168, 6291456), (18350080, 18874368)]

/-- First address of a frame in the model's one address range. -/
def frameAddr (t f : Nat) : Nat := (if t = 1 then hbmBase else spillBase) + 4096 * f

/-! ## Intervals of frames -/

/-- What an interval set keeps when an interval is taken out of it. -/
def subIv (b : Nat × Nat) (ivs : List (Nat × Nat)) : List (Nat × Nat) :=
  ivs.flatMap fun a => [(a.1, min a.2 b.1), (max a.1 b.2, a.2)].filter fun x => x.1 < x.2

/-- The parts of a span outside an interval of its tier. -/
def cutSpan (t lo hi : Nat) (sp : Span) : List Span :=
  if sp.tier = t then
    (subIv (lo, hi) [(sp.base, sp.base + sp.frames)]).map fun x => { sp with base := x.1, frames := x.2 - x.1 }
  else [sp]

/-- The part of a span inside an interval of its tier. -/
def insideSpan (t lo hi : Nat) (sp : Span) : Option Span :=
  let a := max lo sp.base
  let b := min hi (sp.base + sp.frames)
  if sp.tier = t && decide (a < b) then some { sp with base := a, frames := b - a } else none

/-! ## Who holds a frame -/

/-- The span that holds a frame. -/
def spanAt (s : State) (t f : Nat) : Option Span :=
  s.mem.spans.find? fun sp => sp.tier = t && sp.base ≤ f && f < sp.base + sp.frames

/-- Frames that scrubs in progress are writing; they are not free (R74, R188). -/
def scrubbing (s : State) (t : Nat) : List (Nat × Nat) :=
  s.work.scrubs.flatMap fun j => (j.extents.filter (·.1 = t)).map fun e => (e.2.base, e.2.base + e.2.frames)

/-- Frames within limits that a polder may take: the pool's, and its own that it does not use. -/
def freeIvs (s : State) (p t lo hi : Nat) : List (Nat × Nat) :=
  let held := (s.mem.spans.filter fun sp => sp.tier = t && (sp.used || sp.polder ≠ p)).map fun sp => (sp.base, sp.base + sp.frames)
  (held ++ scrubbing s t ++ (if t = 1 then moduleKept else [])).foldl (fun ivs b => subIv b ivs) [(lo, min hi (tierFrames t))]

/-- The polder may take every frame of an extent. -/
def extentFree (s : State) (p t : Nat) (e : Extent) : Bool :=
  e.frames = 0 || freeIvs s p t e.base (e.base + e.frames) = [(e.base, e.base + e.frames)]

/-- The first run of so many frames that the polder may take. -/
def findRun (s : State) (p t n : Nat) : Option Nat :=
  ((freeIvs s p t 0 (tierFrames t)).find? fun iv => n ≤ iv.2 - iv.1).map (·.1)

/-- Extents of so many frames from free intervals, lowest first. -/
def gather : Nat → List (Nat × Nat) → List Extent
  | _, [] => []
  | n, iv :: r => if n = 0 then [] else ⟨iv.1, min n (iv.2 - iv.1)⟩ :: gather (n - (iv.2 - iv.1)) r

/-! ## Keys (R180, R181, R268, R431) -/

/-- ASCII characters. -/
def ascii (t : String) : List Byte := t.toList.map fun c => BitVec.ofNat 8 c.toNat

/-- Input of the KDF: label, zero byte, context. -/
def kdfInput (label : String) (context : List Byte) : List Byte := ascii label ++ [0] ++ context

/-- Derive until the output may be used; a bound on the tries stands for the spec's "until". -/
def deriveUntil (ok : BitVec 512 → Bool) (root : Nat) (input : List Byte) : Nat → Nat → BitVec 512
  | 0, i => Config.kdf root input i
  | f + 1, i => let k := Config.kdf root input i; if ok k then k else deriveUntil ok root input f (i + 1)

/-- An AES-256-XTS key pair: its two halves differ. -/
def deriveXts (input : List Byte) : BitVec 512 := deriveUntil (fun k => k.extractLsb' 0 256 ≠ k.extractLsb' 256 256) 0 input 63 0

/-- BOOT_EPOCH and DEBUG of a context. -/
def epochDebug (s : State) : List Byte := le 2 s.tide.bootEpoch ++ le 1 (bit s.ident.debugDerivation)

/-- The working memory keys of R431: of a polder and a generation, of the module, of the pool, of a group. -/
def polderKey (s : State) (p g : Nat) : BitVec 512 :=
  deriveXts (kdfInput "HERIM-MEM-P" (le 1 p ++ le 2 g ++ le 1 (bit s.ident.debugDerivation)))
def moduleKey (s : State) : BitVec 512 := deriveXts (kdfInput "HERIM-MEM-M" (epochDebug s))
def poolKey (s : State) : BitVec 512 := deriveXts (kdfInput "HERIM-MEM-F" (epochDebug s))
def groupKey (s : State) (g : Nat) : BitVec 512 := deriveXts (kdfInput "HERIM-MEM-G" (le 2 g ++ epochDebug s))

/-- Prefix key Kp of a polder: its group's, or its own under the generation it was created with (R264, R431). -/
def prefixKey (s : State) (p : Nat) (x : Polder) : BitVec 256 :=
  (if x.group = 0 then Config.kdf 0 (kdfInput "HERIM-PFX-P" (le 1 p ++ le 2 x.createdGen)) 0
   else Config.kdf 0 (kdfInput "HERIM-PFX-G" (le 2 x.group ++ le 2 s.tide.bootEpoch)) 0).extractLsb' 0 256

/-- Key of a direction of an association, 256 bits, and its salt, 32 bits, which is never zero (R414, R431): sender and receiver
with their nonces, and the sender's link generation. -/
def directionKey (sender receiver : Nat) (own peer : BitVec 256) (gen : Nat) : BitVec 288 :=
  (deriveUntil (fun k => k.extractLsb' 256 32 ≠ 0) 1
    (kdfInput "HERIM-LVL-DIR" (le 2 sender ++ le 2 receiver ++ le 32 own.toNat ++ le 32 peer.toNat ++ le 2 gen)) 63 0).extractLsb' 0 288

/-- Check value of a root (R431); once the decommission fuse is burned no root is read, and the value is free (R427). -/
def rootCheck (s : State) (root : Nat) : Nat :=
  if s.ident.decommissionFuse then Config.unstatedResult root
  else ((Config.kdf root (kdfInput "HERIM-KCV" []) 0).extractLsb' 0 64).toNat

/-- Generation of the slot that a page's tag selects: the current one, or the previous one (R181). -/
def slotGen (x : Polder) (tag : Nat) : Nat := if x.keyGen % 2 = tag then x.keyGen else x.prevGen.getD x.keyGen

/-- The key of a frame: of its holder, by its page's tag; the module's; or the pool's. -/
def frameKey (s : State) (t f : Nat) : BitVec 512 :=
  match spanAt s t f with
  | some sp =>
    if sp.group = 0 then
      match getPolder s sp.polder with
      | some x => polderKey s sp.polder (slotGen x sp.tag)
      | none => poolKey s
    else groupKey s sp.group
  | none =>
    if t = 1 && moduleKept.any (fun m => m.1 ≤ f && f < m.2) then moduleKey s else poolKey s

/-- What the devices hold of a page: its plaintext under its key, with the frame and the tier as tweak (R180). -/
def pageCipher (s : State) (t f : Nat) (plain : List Byte) : List Byte := Config.xts (frameKey s t f) (f, t) plain

/-! ## Accesses (R176, R181, R183) -/

/-- The polder whose sweep has the page in its buffer. -/
def sweepOf (s : State) (t f : Nat) : Option (Nat × Rotation × List Byte) :=
  s.work.polders.findSome? fun q => q.2.rotation.bind fun r => r.buffer.bind fun b =>
    if b.1 = t && b.2.1 = f then some (q.1, r, b.2.2) else none

/-- Read bytes of a page: from the sweep buffer while it holds the page, else decrypted under the page's tag. -/
def extRead (s : State) (t f off n : Nat) : List Byte :=
  match sweepOf s t f with
  | some (_, _, plain) => (plain.drop off).take n
  | none => readBytes s.mem.cells (frameAddr t f + off) n

/-- The pins of a write of one page: ciphertext, and in the spillway the check lines that move with it (R174, R189). -/
def pagePins (t f : Nat) (s : State) : State :=
  let cipher := pageCipher s t f (readBytes s.mem.cells (frameAddr t f) 4096)
  let s := emit (.memoryPins t f cipher) s
  if t = 2 then
    emit (.memoryPins t (checkLineAt (4096 * f)) ((List.range 4).flatMap fun i => checkLine ((cipher.drop (1024 * i)).take 1024))) s
  else s

/-- A write clears the errors that its locations keep (R176). -/
def clearFlaws (a n : Nat) (s : State) : State := { s with mem.flaws := s.mem.flaws.filter fun x => x < a || a + n ≤ x }

/-- Write bytes of a page: merged into the sweep buffer while it holds the page, else written back encrypted. -/
def extWrite (t f off : Nat) (bs : List Byte) (s : State) : State :=
  let bs := bs.take (4096 - off)
  match sweepOf s t f with
  | some (p, r, plain) =>
    modPolder s p fun x =>
      { x with rotation := some { r with buffer := some (t, f, plain.take off ++ bs ++ plain.drop (off + bs.length)) } }
  | none =>
    pagePins t f (clearFlaws (frameAddr t f + off) bs.length { s with mem.cells := writeBytes s.mem.cells (frameAddr t f + off) bs })

/-- Frames of a list of extents, in order. -/
def extentPages (es : List Extent) : List Nat := es.flatMap fun e => (List.range e.frames).map (e.base + ·)

/-- Pages that hold so many bytes. -/
def pagesOf (n : Nat) : Nat := (n + 4095) / 4096

/-- Read the first bytes of a list of extents. -/
def extentRead (s : State) (t : Nat) (es : List Extent) (n : Nat) : List Byte :=
  (((extentPages es).take (pagesOf n)).flatMap fun f => extRead s t f 0 4096).take n

/-- Write bytes from the start of a list of extents on, page by page. -/
def extentWrite (t : Nat) (es : List Extent) (bs : List Byte) (s : State) : State :=
  (List.range (pagesOf bs.length)).foldl (fun st i => match (extentPages es)[i]? with
    | some f => extWrite t f 0 ((bs.drop (4096 * i)).take 4096) st
    | none => st) s

/-- Move whole pages from one place to another: decrypted and encrypted under their tags (R243). -/
def extCopy (t f t' f' n : Nat) (s : State) : State :=
  (List.range n).foldl (fun st i => extWrite t' (f' + i) 0 (extRead st t (f + i) 0 4096) st) s

/-! ## Hand-over (R187, R189, R233) -/

/-- Write frames with zeros under their new holder's key: the pins carry the ciphertext of zeros. -/
def zeroFrames (t : Nat) (e : Extent) (s : State) : State :=
  if e.frames = 0 then s
  else
    emit (.scrubPins t e.base e.frames)
      (clearFlaws (frameAddr t e.base) (4096 * e.frames)
        { s with mem.cells := clearRange s.mem.cells (frameAddr t e.base) (frameAddr t (e.base + e.frames)) })

/-- A polder takes the frames of an extent into use: those it held before are reused as they are; those of the pool are
scrubbed under its current generation and tagged with it. -/
def claim (p t : Nat) (e : Extent) (s : State) : State :=
  let hi := e.base + e.frames
  let own := (s.mem.spans.filter (·.polder = p)).filterMap (insideSpan t e.base hi)
  let new := own.foldl (fun ivs sp => subIv (sp.base, sp.base + sp.frames) ivs) (subIv (hi, hi) [(e.base, hi)])
  let gen := ((getPolder s p).map (·.keyGen)).getD 0
  let fresh := new.map fun x => (⟨t, x.1, x.2 - x.1, p, gen % 2, 0, true⟩ : Span)
  let held := own.map (fun sp => { sp with used := true }) ++ fresh ++ s.mem.spans.flatMap (cutSpan t e.base hi)
  let s := { s with mem.spans := held }
  new.foldl (fun st x => zeroFrames t ⟨x.1, x.2 - x.1⟩ st) s

def claimAll (p t : Nat) (es : List Extent) (s : State) : State := es.foldl (fun st e => claim p t e st) s

/-- Frames that the polder no longer uses, and keeps (R233). -/
def idle (p t : Nat) (e : Extent) (s : State) : State :=
  let hi := e.base + e.frames
  let own := (s.mem.spans.filter (·.polder = p)).filterMap (insideSpan t e.base hi)
  { s with mem.spans := own.map (fun sp => { sp with used := false, group := 0 }) ++
      s.mem.spans.flatMap fun sp => if sp.polder = p then cutSpan t e.base hi sp else [sp] }

def idleAll (p t : Nat) (es : List Extent) (s : State) : State := es.foldl (fun st e => idle p t e st) s

/-- Frames that leave their holder for the pool. -/
def vacate (es : List (Nat × Extent)) (s : State) : State :=
  es.foldl (fun st e => { st with mem.spans := st.mem.spans.flatMap (cutSpan e.1 e.2.base (e.2.base + e.2.frames)) }) s

/-- Frames that go back: to the polder that holds them, unused; to the pool where their polder is gone (number 64). -/
def loosen (t : Nat) (e : Extent) (s : State) : State :=
  let hi := e.base + e.frames
  let inside := (s.mem.spans.filter (·.polder < 64)).filterMap (insideSpan t e.base hi)
  { s with mem.spans := inside.map (fun sp => { sp with used := false, group := 0 }) ++ s.mem.spans.flatMap (cutSpan t e.base hi) }

/-- Every frame of a tier but the module's own, as extents. -/
def wholeTier (t : Nat) : List (Nat × Extent) :=
  ((if t = 1 then moduleKept else []).foldl (fun ivs b => subIv b ivs) [(0, tierFrames t)]).map fun x => (t, ⟨x.1, x.2 - x.1⟩)

/-- Extents that a polder holds. -/
def polderFrames (s : State) (p : Nat) : List (Nat × Extent) :=
  (s.mem.spans.filter (·.polder = p)).map fun sp => (sp.tier, ⟨sp.base, sp.frames⟩)

/-- A block entered under a group's prefix key is encrypted under the group's memory key (R268): its pages are written again. -/
def regroup (p t g : Nat) (e : Extent) (s : State) : State :=
  let hi := e.base + e.frames
  let own := (s.mem.spans.filter (·.polder = p)).filterMap (insideSpan t e.base hi)
  let other := s.mem.spans.flatMap fun sp => if sp.polder = p then cutSpan t e.base hi sp else [sp]
  let s := { s with mem.spans := own.map (fun sp => { sp with group := g }) ++ other }
  (List.range e.frames).foldl (fun st i => pagePins t (e.base + i) st) s

/-- Extents without their first n frames. -/
def dropFrames : Nat → List Extent → List Extent
  | _, [] => []
  | n, e :: r => if e.frames ≤ n then dropFrames (n - e.frames) r else ⟨e.base + n, e.frames - n⟩ :: r

/-- Runs of n frames that the polder may take. -/
def runCount (s : State) (p t n : Nat) : Nat := ((freeIvs s p t 0 (tierFrames t)).map fun iv => (iv.2 - iv.1) / max n 1).sum

/-- Take the first run of n frames into use. -/
def takeRun (p t n : Nat) (s : State) : Option (Nat × State) := (findRun s p t n).map fun f => (f, claim p t ⟨f, n⟩ s)

/-! ## Scrub jobs (R187, R188) -/

/-- Start a scrub job over extents. -/
def startScrub (p : Nat) (kind : ScrubKind) (cmd : Option Instr) (tdisp : Bool) (es : List (Nat × Extent)) (s : State) : State :=
  { s with work.scrubs := s.work.scrubs ++ [(⟨s.work.nextScrub, p, kind, cmd, tdisp, es, s.tide.nowQ⟩ : ScrubJob)],
           work.nextScrub := s.work.nextScrub + 1 }

/-- Quarter-ms that a scrub takes at least: 0.35 TB/s on each DRAM stack and 128 GB/s at the pins of each spillway half. -/
def scrubQuarters (es : List (Nat × Extent)) : Nat :=
  let bytes (t : Nat) (lo hi : Nat) : Nat := 4096 * ((es.filter (·.1 = t)).map fun e =>
    min hi (e.2.base + e.2.frames) - max lo e.2.base).sum
  let hbm := (List.range 8).foldl (fun m d => max m (bytes 1 (6291456 * d) (6291456 * (d + 1)) / 87500000)) 0
  (List.range 2).foldl (fun m d => max m (spillMoved (bytes 2 (67108864 * d) (67108864 * (d + 1))) / 32000000)) hbm

/-- The write bursts of a scrub can have ended by the end of the tide in progress. -/
def scrubWritten (s : State) (j : ScrubJob) : Bool := j.startQ + scrubQuarters j.extents ≤ s.tide.nowQ + s.tide.periodQ

/-- The end of a scrub's writes: zeros in every frame; a polder's own frames bear the tag of its current generation (R186). -/
def scrubbed (j : ScrubJob) (s : State) : State :=
  let s := j.extents.foldl (fun st e => zeroFrames e.1 e.2 st) s
  let gen := ((getPolder s j.polder).map (·.keyGen)).getD 0
  let clean (sp : Span) : Span := if sp.polder = j.polder then { sp with tag := gen % 2, group := 0, used := false } else sp
  if j.kind = .reset then { s with mem.spans := s.mem.spans.map clean } else s

/-! ## The re-encryption sweep (R182 to R184) -/

/-- Insert a span by tier and frame. -/
def insertSpan (x : Span) : List Span → List Span
  | [] => [x]
  | y :: r => if x.tier < y.tier || (x.tier = y.tier && x.base < y.base) then x :: y :: r else y :: insertSpan x r

/-- The pages of a polder that its sweep visits, in order: HBM before spillway, frames ascending; those under a group key are
skipped (R268, R432). -/
def sweepPages (s : State) (p : Nat) : List Span :=
  (s.mem.spans.filter fun sp => sp.polder = p && sp.group = 0).foldl (fun acc x => insertSpan x acc) []

/-- The place n pages further on; past the last tier where the pages end. -/
def advanceSweep (pos : Nat × Nat) : Nat → List Span → Nat × Nat
  | _, [] => (3, 0)
  | n, sp :: r =>
    let start := if sp.tier = pos.1 then max sp.base pos.2 else sp.base
    let left := if sp.tier < pos.1 then 0 else sp.base + sp.frames - start
    if left ≤ n then advanceSweep pos (n - left) r else (sp.tier, start + n)

/-- The pages before a place bear a tag. -/
def retag (p tag : Nat) (pos : Nat × Nat) (spans : List Span) : List Span :=
  spans.flatMap fun sp =>
    if sp.polder ≠ p || sp.group ≠ 0 || pos.1 < sp.tier then [sp]
    else if sp.tier < pos.1 then [{ sp with tag := tag }]
    else
      ((insideSpan sp.tier 0 pos.2 sp).map fun x => { x with tag := tag }).toList ++ cutSpan sp.tier 0 pos.2 sp

/-- A scrub runs on the arbiter of a page: it goes before the sweep (R188). -/
def scrubFirst (s : State) (t f : Nat) : Bool :=
  s.work.scrubs.any fun j => j.extents.any fun e => e.1 = t &&
    decide (frameArbiter t e.2.base ≤ frameArbiter t f) && decide (frameArbiter t f ≤ frameArbiter t (e.2.base + e.2.frames - 1))

/-- The page in the sweep buffer is written back. -/
def writeBack (p : Nat) (r : Rotation) (s : State) : State :=
  let s := modPolder s p fun x => { x with rotation := some { r with buffer := none } }
  match r.buffer with
  | some (t, f, plain) => extWrite t f 0 plain s
  | none => s

/-- The sweep of a polder passes so many pages more: each is written back under the new generation, and its tag flips; the
next page is taken into the sweep buffer. -/
def sweepOn (p n : Nat) (s : State) : State :=
  match (getPolder s p).bind (·.rotation) with
  | none => s
  | some r =>
    let s := writeBack p r s
    let pages := sweepPages s p
    let pos := advanceSweep r.pos n pages
    let gen := ((getPolder s p).map (·.keyGen)).getD 0
    let s := { s with mem.spans := retag p (gen % 2) pos s.mem.spans }
    let at_ := advanceSweep pos 0 pages
    let buffer := if 3 ≤ at_.1 then none else some (at_.1, at_.2, readBytes s.mem.cells (frameAddr at_.1 at_.2) 4096)
    modPolder s p fun x => { x with rotation := some { r with pos := at_, buffer := buffer, swept := decide (3 ≤ at_.1) } }

/-- The sweeps of a closed tide: none passes a page whose arbiter a scrub uses. -/
def runSweeps (es : List (Nat × Nat)) (s : State) : State :=
  es.foldl (fun st q => match (getPolder st q.1).bind (·.rotation) with
    | some r => if scrubFirst st r.pos.1 r.pos.2 then st else sweepOn q.1 q.2 st
    | none => st) s

end Sys2Proof.Machine
end

