-- ==== Sys2Proof/Machine/Operands.lean ====
section
/-! DEFINITION. Machine/Operands.lean: the operand forms of the commands: the opcode table's columns (R119),
the arrival checks on header and parameters (R112), target resolution (R67), and the codes of statuses and
reasons (R91, R124, R125). -/

namespace Sys2Proof.Machine

/-- STATUS values of R124. -/
def statusCode : Status → Nat
  | .ok => 0x00
  | .accepted => 0x01
  | .badOpcode => 0x10
  | .badParam => 0x11
  | .notPermitted => 0x12
  | .presenceRequired => 0x13
  | .noFit => 0x20
  | .overrunRisk => 0x21
  | .quota => 0x22
  | .kvFull => 0x23
  | .cancelled => 0x30
  | .deadlineMissed => 0x31
  | .alreadyDone => 0x32
  | .breach => 0x40
  | .polderReset => 0x41
  | .dataError => 0x42
  | .verifyFail => 0x50
  | .rollbackDenied => 0x51
  | .capUnattainable => 0x60

/-- REASON values of R91 and R125. -/
def reasonCode : Reason → Nat
  | .none => 0
  | .seqOrder => 0x0001
  | .seqRepeat => 0x0002
  | .targetPast => 0x0003
  | .targetInvalid => 0x0004
  | .wrongFunction => 0x0005
  | .wrongPolder => 0x0006
  | .busyAdmitted => 0x0007
  | .runsActive => 0x0008
  | .presenceTimeout => 0x0009
  | .presenceBusy => 0x000A
  | .lifecycle => 0x000B
  | .scrubPending => 0x000C
  | .bufferFault => 0x000D
  | .bufferShort => 0x000E
  | .noGraph => 0x000F
  | .handleInUse => 0x0010
  | .fieldRange => 0x0011
  | .counterExhausted => 0x0012
  | .noCondition => 0x0013
  | .peerFailed => 0x0014
  | .imageDigest => 0x0101
  | .imageVersion => 0x0102
  | .unknownSection => 0x0103
  | .operatorLimit => 0x0104
  | .classMismatch => 0x0105
  | .timingRange => 0x0106
  | .missingSection => 0x0107
  | .resultSize => 0x0108
  | .sramQuota => 0x0201
  | .hbmQuota => 0x0202
  | .spillQuota => 0x0203
  | .graphCount => 0x0204
  | .noSpare => 0x0301
  | .sramSpace => 0x0302
  | .memorySpace => 0x0303
  | .sWindow => 0x0401
  | .resultRate => 0x0402
  | .qbWindow => 0x0403
  | .degradedQ => 0x0404
  | .bandwidth => 0x0405
  | .singleQuantum => 0x0406

/-- Which targets an opcode accepts (the Target column of R119). -/
inductive TargetRule where
  | none
  | optional
  | required
deriving DecidableEq, Repr

/-- The columns of the opcode table for one command: its opcode, whether it is applied on arrival (a
tide-launched one is not), its targets, whether it needs presence, whether only PF0 may issue it, and
whether PF0 names a polder in it. -/
structure OpInfo where
  code : Nat
  arrival : Bool
  target : TargetRule
  gated : Bool
  pf0Only : Bool
  names : Bool
deriving DecidableEq, Repr

/-- The opcode table of R119, by command; none for an event. GOLDEN_SET, KEY_ROTATE and STREAM_BIND give
their issuers by class or parameter in `mayIssue`. -/
def opInfo : Instr → Option OpInfo
  | .identify _ => some ⟨0x0001, true, .none, false, true, false⟩
  | .setTide _ _ _ => some ⟨0x0002, true, .none, false, true, false⟩
  | .setTimebase _ _ _ => some ⟨0x0003, true, .none, false, true, false⟩
  | .getHealth _ => some ⟨0x0004, true, .none, false, true, false⟩
  | .polderCreate _ _ _ _ _ _ _ => some ⟨0x0101, false, .none, false, true, true⟩
  | .polderDestroy _ => some ⟨0x0102, false, .none, false, true, true⟩
  | .polderReset _ => some ⟨0x0103, false, .none, false, false, true⟩
  | .polderQuery _ => some ⟨0x0104, true, .none, false, false, true⟩
  | .setTokenBudget _ _ _ => some ⟨0x0105, false, .none, false, true, true⟩
  | .graphLoad _ _ _ _ _ _ => some ⟨0x0201, false, .none, false, false, true⟩
  | .graphUnload _ _ => some ⟨0x0202, false, .none, false, false, true⟩
  | .graphQueryPlacement _ _ _ => some ⟨0x0203, false, .none, false, false, true⟩
  | .runAtTide _ _ _ _ _ _ _ => some ⟨0x0301, false, .required, false, false, true⟩
  | .runPeriodic _ _ _ _ _ _ _ _ _ => some ⟨0x0302, false, .optional, false, false, true⟩
  | .streamBind _ _ _ _ _ _ _ => some ⟨0x0303, false, .none, false, false, true⟩
  | .runStop _ _ _ => some ⟨0x0304, false, .none, false, false, true⟩
  | .modelVariantAdd _ _ _ _ _ => some ⟨0x0401, false, .none, false, false, true⟩
  | .requestSubmit _ _ _ _ _ _ => some ⟨0x0402, false, .none, false, false, true⟩
  | .requestCancel _ _ _ => some ⟨0x0403, false, .none, false, false, true⟩
  | .commonsJoin _ _ => some ⟨0x0404, false, .none, false, true, true⟩
  | .codecSessionOpen _ _ _ _ _ _ _ => some ⟨0x0501, false, .none, false, false, true⟩
  | .codecSessionClose _ _ => some ⟨0x0502, false, .none, false, false, true⟩
  | .codecPicture _ _ _ _ _ _ => some ⟨0x0503, false, .optional, false, false, true⟩
  | .setPhaseOp _ _ => some ⟨0x0601, false, .none, false, true, false⟩
  | .setPowerCap _ _ _ _ _ => some ⟨0x0602, false, .none, false, true, false⟩
  | .getTelemetry _ _ => some ⟨0x0603, true, .none, false, true, false⟩
  | .safetyProfileSet _ _ _ => some ⟨0x0701, false, .none, false, true, false⟩
  | .goldenSet _ _ _ => some ⟨0x0702, false, .none, false, false, true⟩
  | .breachLogRead _ _ _ => some ⟨0x0703, true, .none, false, false, false⟩
  | .attest _ _ _ => some ⟨0x0801, true, .none, false, false, false⟩
  | .keyRotateMemory _ => some ⟨0x0802, false, .none, false, false, true⟩
  | .keyRotateLink _ _ => some ⟨0x0802, false, .none, false, true, false⟩
  | .lifecycleAdvance _ _ => some ⟨0x0803, false, .none, true, true, false⟩
  | .fwStage _ _ _ _ _ _ => some ⟨0x0901, true, .none, false, true, false⟩
  | .fwVerify _ => some ⟨0x0902, true, .none, false, true, false⟩
  | .fwActivate _ _ _ => some ⟨0x0903, false, .none, true, true, false⟩
  | .selftestReport _ _ => some ⟨0x0A01, true, .none, false, true, false⟩
  | .debugUnlock _ _ => some ⟨0x0A02, false, .none, true, true, false⟩
  | .tidePreset _ _ _ => some ⟨0x0A03, true, .none, true, true, false⟩
  | .linkConfig _ _ _ _ => some ⟨0x0B01, true, .none, false, true, false⟩
  | .linkStatus _ _ => some ⟨0x0B02, true, .none, false, true, false⟩
  | _ => none

/-- Step 3 of R112: the issuing function may issue the opcode. PF0 may issue each, for itself or naming a
polder; a polder may not issue PF0's, nor GOLDEN_SET outside Class S, nor STREAM_BIND for ranks 3 to 5. GOLDEN_SET for a polder of
another class is refused so for its function, and as naming a wrong polder for PF0 (DESIGN CHOICE, assumption log 68). -/
def mayIssue (s : State) (c : Instr) (h : Hdr) : Bool :=
  match h.fn with
  | .vf p =>
    match c with
    | .goldenSet _ _ _ => decide ((getPolder s p).map (·.cls) = some .S)
    | .streamBind _ rank _ _ _ _ _ => !(3 ≤ rank && rank ≤ 5)
    | _ => match opInfo c with
      | some i => !i.pf0Only
      | none => false
  | _ => true

/-- Step 4 of R112: the POLDER field. A polder gives its own number; PF0 names a polder from 0 to 63 where the
opcode concerns one, and 0xFF where it names none. A polder that a command addresses must exist, but for
the opcodes by which PF0 creates one or manages it. -/
def polderValid (s : State) (c : Instr) (i : OpInfo) (h : Hdr) : Bool :=
  match h.fn with
  | .vf p => decide (h.polder = p)
  | _ =>
    if i.names then
      decide (h.polder < 64) &&
        (i.pf0Only || match getPolder s h.polder with
          | some x => match c with
            | .goldenSet _ _ _ => decide (x.cls = .S)
            | _ => true
          | none => false)
    else decide (h.polder = 255)

/-- Step 6 of R112: the opcodes of the life-cycle state (R424). -/
def lifecycleAllows (l : Lifecycle) (c : Instr) : Bool :=
  match l, c with
  | .blank, .identify _ | .blank, .getHealth _ | .blank, .attest _ _ _ | .blank, .selftestReport _ _
  | .blank, .fwStage _ _ _ _ _ _ | .blank, .fwVerify _ | .blank, .fwActivate _ _ _ => true
  | .blank, .lifecycleAdvance _ target => decide (target = 1)
  | .blank, _ => false
  | .sealed, .tidePreset _ _ _ => false
  | .sealed, .debugUnlock _ scope => decide (scope ≠ 1)
  | .sealed, _ => true
  | .service, _ => true
  | .decommissioned, .identify _ | .decommissioned, .getHealth _ | .decommissioned, .attest _ _ _
  | .decommissioned, .breachLogRead _ _ _ | .decommissioned, .selftestReport _ _ => true
  | .decommissioned, _ => false

/-- Distance from the current TN to a TN alone, mod 2^32 (R66). -/
def tnDistance (now t : Nat) : Nat := (t + 4294967296 - now % 4294967296) % 4294967296

/-- resolve_tn of R66: the tide count with that TN nearest the current count; none at a distance of 2^31. -/
def resolveTn (now : Nat) (t : Nat) : Option Int :=
  let d := tnDistance (tnOf now) t
  if d = 2147483648 then none
  else if d < 2147483648 then some ((now : Int) + d)
  else some ((now : Int) + d - 4294967296)

/-- Step 7 of R112: the reason for which a target is refused, under R115. One that is required and missing gives TARGET_INVALID, for
which R115 names no reason (DESIGN CHOICE, assumption log 68). -/
def targetFault (s : State) (i : OpInfo) (h : Hdr) : Option Reason :=
  if h.targetValid then
    if i.target = .none then some .targetInvalid
    else
      match resolveTn s.tide.count h.targetTn.toNat with
      | none => some .targetInvalid
      | some r => if r ≤ s.tide.count then some .targetPast else none
  else if i.target = .required then some .targetInvalid
  else none

/-- The elapsed index of the edge at which a tide-launched command applies (R114). -/
def dueIx (s : State) (h : Hdr) : Nat :=
  if h.targetValid then max (s.tide.ix + 1) (s.tide.ix + tnDistance (tnOf s.tide.count) h.targetTn.toNat)
  else s.tide.ix + 1

/-- A range check with its reason. -/
def need (b : Bool) (r : Reason) : Option Reason := if b then none else some r

/-- The first reason of a list of checks. -/
def firstFault : List (Option Reason) → Option Reason
  | [] => none
  | some r :: _ => some r
  | none :: t => firstFault t

/-- SRC_LOCAL is in the range of its rank (R58). -/
def srcLocalOk (rank l : Nat) : Bool :=
  match rank with
  | 3 => l < 10
  | 4 => l < 48
  | 5 => l < 64
  | 6 => l < 64
  | _ => false

/-- A handle of STREAM_BIND: a graph, 0 to 15, or a codec session, 0x40 to 0x7F (R284). -/
def bindHandleOk (handle : Nat) : Bool := handle < 16 || (64 ≤ handle && handle < 128)

/-- Step 8 of R112: each parameter within its range, in the order of the opcode table. -/
def paramFault : Instr → Option Reason
  | .setTide _ q w => need (1 ≤ q && q ≤ 40 && 1 ≤ w && w ≤ 1024) .fieldRange
  | .setTimebase _ src dom => need (src ≤ 3 && dom ≤ 127) .fieldRange
  | .polderCreate _ cls sl bw sram hbm spill =>
    need (cls ≤ 2 && 1 ≤ sl && sl ≤ 16 && (cls ≠ 2 || (1 ≤ bw && bw ≤ 255)) && sram ≤ Config.allocSram &&
      hbm ≤ Config.allocHbm && spill ≤ Config.allocSpill) .fieldRange
  | .setTokenBudget _ refill burst =>
    need ((refill = 0 && burst = 0) ||
      (1 ≤ refill && refill < 4294967296 && 16 ≤ burst && burst < 4294967296)) .fieldRange
  | .graphLoad _ handle t d _ _ =>
    firstFault [need (handle ≤ 15) .fieldRange, need (1 ≤ t && t ≤ 1024 && 1 ≤ d && d ≤ t) .timingRange]
  | .graphUnload _ handle => need (handle ≤ 15) .fieldRange
  | .graphQueryPlacement _ handle _ => need (handle ≤ 15) .fieldRange
  | .runAtTide _ handle run deadline n _ _ =>
    firstFault [need (handle ≤ 15 && run ≤ 63) .fieldRange, need (1 ≤ deadline && deadline ≤ 1024) .timingRange,
      need (1 ≤ n && n ≤ 256) .fieldRange]
  | .runPeriodic _ handle run period deadline n _ _ _ =>
    firstFault [need (handle ≤ 15 && run ≤ 63) .fieldRange,
      need (1 ≤ period && period ≤ 1024 && 1 ≤ deadline && deadline ≤ period) .timingRange,
      need (n ≤ 256) .fieldRange]
  | .streamBind _ rank _ l handle u m =>
    need (3 ≤ rank && rank ≤ 6 && srcLocalOk rank l && bindHandleOk handle && u ≤ 1 && m ≤ 511) .fieldRange
  | .runStop _ handle run => need (handle ≤ 15 && run ≤ 63) .fieldRange
  | .modelVariantAdd _ handle v _ _ => need (handle ≤ 15 && 1 ≤ v && v ≤ 255) .fieldRange
  | .requestSubmit _ handle v _ _ _ => need (handle ≤ 15 && v ≤ 255) .fieldRange
  | .requestCancel _ _ sl => need (sl ≤ 15) .fieldRange
  | .commonsJoin _ g => need (g ≤ 65535) .fieldRange
  | .codecSessionClose _ session => need (session ≤ 63) .fieldRange
  | .codecPicture _ session _ _ _ _ => need (session ≤ 63) .fieldRange
  | .setPhaseOp _ ops => need (ops.length = 6 && ops.all (· ≤ 7)) .fieldRange
  | .setPowerCap _ cap w l orphan =>
    need (400 ≤ cap && cap ≤ 1650 && 1 ≤ w && w ≤ 30 && 1 ≤ l && l ≤ 600 &&
      (orphan = 0 || (400 ≤ orphan && orphan ≤ 1650))) .fieldRange
  | .safetyProfileSet _ share op => need (share ≤ 12 && op ≤ 7) .fieldRange
  | .goldenSet _ handle _ => need (handle ≤ 15) .fieldRange
  | .keyRotateLink _ key => need (key = 1) .fieldRange
  | .lifecycleAdvance _ target => need (1 ≤ target && target ≤ 3) .fieldRange
  | .fwStage _ _ len _ _ _ => need (len ≤ 1048576) .fieldRange
  | .debugUnlock _ scope => need (scope ≤ 1) .fieldRange
  | .tidePreset _ _ tn => need (tn < 4294967296) .fieldRange
  | .linkConfig _ _ _ index => need (index ≤ 511 || index = 65535) .fieldRange
  | .linkStatus _ port => need (port ≤ 7) .fieldRange
  | _ => none

/-! ## Pictures of a codec session (R281, R285, R288) -/

/-- Pitch of a plane, and the bytes of a raw picture. -/
def codecPitch (c : Session) : Nat := (c.width * (c.profile + 1) + 63) / 64 * 64
def rawBytes (c : Session) : Nat := codecPitch c * c.height * 3 / 2

/-- Width and height in 64 x 64 units, and their number. -/
def ctuW (c : Session) : Nat := (c.width + 63) / 64
def ctuH (c : Session) : Nat := (c.height + 63) / 64
def ctuCount (c : Session) : Nat := ctuW c * ctuH c

/-- Slices or tiles of an encode picture. -/
def sliceCount (c : Session) : Nat :=
  if c.cfg.layout = 0 then min 8 (ctuW c) * c.cfg.split else (ctuH c + c.cfg.split - 1) / max c.cfg.split 1

/-- Least OUT_LEN of a CODEC_PICTURE (R298, R302). -/
def leastOut (c : Session) : Nat :=
  if c.kind = 0 then c.cfg.maxPicBytes + 48 * sliceCount c + 32 else 64 + rawBytes c + (ctuCount c + 3) / 4

/-- The open session that a command of a polder names. -/
def sessionFor (s : State) (p n : Nat) : Option Session := (tget s.codec.sessions n).filter fun c => c.polder = p

/-- What a CODEC_PICTURE breaks at arrival: the input length of an encode picture, or the output buffer. -/
def pictureFault (s : State) (h : Hdr) (session inLen outLen : Nat) : Option Reason :=
  match sessionFor s (match h.fn with
    | .vf p => p
    | _ => h.polder) session with
  | some c =>
    if c.kind = 0 && inLen ≠ rawBytes c then some .fieldRange
    else if outLen < leastOut c then some .bufferShort
    else none
  | none => none

/-- A parameter refused in the state at arrival. -/
def stateFault (s : State) (c : Instr) : Option Reason :=
  match c with
  | .codecPicture h session inLen _ _ out => pictureFault s h session inLen out.len
  | _ => none

/-- The arrival checks of R112, steps 2 to 8, in order: the status and reason of the first that fails. -/
def arrivalFault (s : State) (c : Instr) (i : OpInfo) (h : Hdr) : Option (Status × Reason) :=
  if h.opcode ≠ i.code then some (.badOpcode, .none)
  else if !mayIssue s c h then some (.notPermitted, .wrongFunction)
  else if !polderValid s c i h then some (.notPermitted, .wrongPolder)
  else if h.sluiceField ≠ h.sluice then some (.badParam, .fieldRange)
  else if !lifecycleAllows s.ident.lifecycle c then some (.notPermitted, .lifecycle)
  else
    match targetFault s i h with
    | some r => some (.badParam, r)
    | none =>
      match paramFault c with
      | some r => some (.badParam, r)
      | none => (stateFault s c).map fun r => (.badParam, r)

/-- The ordering tag of a command with its intake in the tide in progress (R58). -/
def tagOf (s : State) (h : Hdr) : Tag :=
  { epoch := epochOf s.tide.count, tn := tnOf s.tide.count, rank := (if isPf0 h.fn then 0 else 1),
    srcMod := s.flash.index.getD 0,
    srcLocal := (match h.fn with
      | .vf p => 16 * p + h.sluice
      | _ => h.sluice),
    seq := h.seq }

/-- The 16 bytes of an ordering tag (R57). -/
def tagBytes (t : Tag) : List Byte :=
  le 2 t.epoch ++ le 4 t.tn ++ le 1 t.rank ++ le 1 0 ++ le 3 (32768 * t.srcMod + t.srcLocal) ++ le 1 0 ++ le 4 t.seq.toNat

/-- Merge order of R62: tide count, rank, source ID, then SEQ by serial_lt. -/
def tagBefore (a b : Tag) : Bool :=
  let ca := a.epoch * 4294967296 + a.tn
  let cb := b.epoch * 4294967296 + b.tn
  if ca ≠ cb then ca < cb
  else if a.rank ≠ b.rank then a.rank < b.rank
  else
    let sa := a.srcMod * 32768 + a.srcLocal
    let sb := b.srcMod * 32768 + b.srcLocal
    if sa ≠ sb then sa < sb else serialLt a.seq b.seq

end Sys2Proof.Machine
end

