-- ==== Sys2Proof/Machine/Flags.lean ====
section
/-! DEFINITION. Machine/Flags.lean: the status words that the module computes from its state: HEALTH_FLAGS, the
register map of R467 to R475 as it reads, and the three lights of R28. -/

namespace Sys2Proof.Machine

/-! ## Temperatures -/

def getHotspot (s : State) (i : Nat) : Hotspot := (tget s.power.hotspots i).getD {}

/-- Highest reading in use and its hotspot, the higher ID on a tie (R14, THERM_SUM). -/
def hottest (s : State) : Int × Nat :=
  (List.range 146).foldl
    (fun best i => let r := (getHotspot s i).reading; if best.1 ≤ r then (r, i) else best)
    ((getHotspot s 0).reading, 0)

/-- Highest forecast of a hotspot over the next 50 tides; 0 before the first edge. -/
def forecastOf (s : State) (i : Nat) : Int :=
  match s.power.fcAt with
  | some k => Config.forecast i k
  | none => 0

/-! ## Health -/

def bitAt (n : Nat) (b : Bool) : Nat := if b then 2 ^ n else 0

/-- Some tile is TEST_STARVED. -/
def anyStarved (s : State) : Bool := s.safety.tiles.any (·.2.starved)

/-- HEALTH_FLAGS of R123. -/
def healthFlags (s : State) : Nat :=
  bitAt 0 s.tide.epochLow + bitAt 1 s.tide.exhausted + bitAt 2 s.time.alignFault + bitAt 3 (anyStarved s) +
  bitAt 4 s.power.mismatch + bitAt 5 (s.power.hotspots.any (·.2.suspect)) + bitAt 6 s.work.noSpare +
  bitAt 7 s.host.safeHoldSeen + bitAt 8 s.aon.broken + bitAt 9 s.aon.sagWarn + bitAt 10 s.power.flowWarn

/-- TIME_STATE code of R473. -/
def timeStateCode : TimeState → Nat
  | .free => 0
  | .acquire => 1
  | .locked => 2
  | .follow => 3
  | .holdover => 4

def lifecycleCode : Lifecycle → Nat
  | .blank => 0
  | .sealed => 1
  | .service => 2
  | .decommissioned => 3

def classCode : Class → Nat
  | .S => 0
  | .Q => 1
  | .B => 2

/-- Epochs not yet used (R51, EPOCH register). -/
def epochsRemaining (s : State) : Nat := 65535 - epochOf s.tide.count

/-- A warden is in VOTING or MUTED. -/
def wardenLive (w : WardenSt) : Bool := w.state = .voting || w.state = .muted

/-! ## Registers (R468 to R475) -/

def w32 (n : Nat) : Word := BitVec.ofNat 32 n

def modId (s : State) : Nat := 0x19640 + bitAt 20 s.ident.cabinet

def modFleet (s : State) : Nat := s.ident.fleet + 65536 * (s.flash.index.getD 0) + bitAt 25 s.flash.index.isSome

/-- MOD_STATUS of R473. -/
def modStatus (s : State) : Nat :=
  s.tide.bootStage + 16 * timeStateCode s.time.state + bitAt 7 s.time.alignFault + 256 * s.power.op +
  bitAt 11 s.safety.hold.isSome + bitAt 12 s.work.dual + bitAt 13 s.work.noSpare +
  bitAt 14 (wardenLive s.wardens.a) + bitAt 15 (wardenLive s.wardens.b) + bitAt 16 s.startup.dormant +
  bitAt 17 s.tide.epochLow + bitAt 18 s.tide.exhausted +
  (List.range 4).foldl (fun a i => a + bitAt (19 + i) (s.work.stackOk.getD i false)) 0

/-- TIDE_PERIOD of R473; PENDING is 1 from the acceptance of a SET_TIDE (R476). -/
def tidePeriodReg (s : State) : Nat := s.tide.periodQ + 65536 * s.tide.swellLen + bitAt 31 s.tide.change.isSome

def epochReg (s : State) : Nat := epochOf s.tide.count + 65536 * epochsRemaining s

def lifecycleReg (s : State) : Nat :=
  lifecycleCode s.ident.lifecycle + bitAt 2 s.ident.debugOpen + bitAt 3 s.ident.wardenDebug +
  16 * s.ident.serviceEntries + 2048 * s.ident.debugUnlocks

def sealReg (s : State) : Nat :=
  bitAt 0 s.aon.broken + bitAt 2 s.aon.sense + bitAt 3 s.aon.presence + bitAt 4 s.ident.cabinet +
  256 * s.aon.window + 65536 * s.aon.breaks

def sagReg (s : State) : Nat :=
  bitAt 0 s.aon.sagWarn + bitAt 1 s.aon.sagSeen + bitAt 2 s.aon.trip48Seen + bitAt 3 s.aon.auxAWarn +
  bitAt 4 s.aon.auxBWarn + bitAt 5 s.aon.auxAOffSeen + bitAt 6 s.aon.auxBOffSeen + 65536 * s.aon.sagCount

/-- SLC_CFGn of R103. -/
def slcCfg (x : Sluice) : Nat := bitAt 0 x.enable + 16 * x.sizeLog2 + bitAt 8 x.devMem + bitAt 9 x.irqEn

/-- SLC_STATn of R103. -/
def slcStat (x : Sluice) : Nat :=
  x.cmdHead + bitAt 12 (x.enable && !x.ringFault && !x.bounceStopped) + bitAt 13 x.ringFault +
  bitAt 14 x.dbError + bitAt 15 x.cfgError + 65536 * x.cplTail + bitAt 28 x.phase

/-- A register of a sluice, by its offset in the sluice's block. -/
def slcReg (x : Sluice) (off : Nat) : Nat :=
  if off = 0 then x.cmdBase.toNat % 4294967296
  else if off = 4 then x.cmdBase.toNat / 4294967296
  else if off = 8 then x.cplBase.toNat % 4294967296
  else if off = 12 then x.cplBase.toNat / 4294967296
  else if off = 16 then slcCfg x
  else if off = 20 then slcStat x
  else 0

def ihSrcCfg (s : State) : Nat :=
  let x := getSource s s.host.ihHub s.host.ihSource
  x.priority + 16 * x.coalCount + 4096 * x.coalTime + bitAt 22 (x.count ≠ 0) + bitAt 23 x.wake + 16777216 * x.count

def ihGlobal (s : State) (h : Nat) : Nat := let x := getHub s h; bitAt 0 x.hold + bitAt 1 x.fwHold

def getArbiter (s : State) (i : Nat) : Arbiter := (tget s.mem.arbiters i).getD {}
def setArbiter (s : State) (i : Nat) (x : Arbiter) : State := { s with mem.arbiters := tset s.mem.arbiters i x }
def getCounters (x : Arbiter) (i : Nat) : ArbCounters := (tget x.counters i).getD {}

/-- The ARB_* registers of the selected instance and input; zero above instance 1,057. -/
def arbReg (s : State) (k : Nat) : Nat :=
  if k = 0 then s.mem.arbInstance + 4096 * s.mem.arbInput
  else if 1057 < s.mem.arbInstance then 0
  else
    let x := getArbiter s s.mem.arbInstance
    let c := getCounters x s.mem.arbInput
    if k = 1 then x.threshold
    else if k = 2 then x.flags.foldl (fun a i => a + 2 ^ i) 0
    else if k = 4 then c.grants % 4294967296
    else if k = 6 then c.wait % 4294967296
    else if k = 8 then c.maxWait
    else 0

def getScr (s : State) (i : Nat) : Scratch := if i = 0 then s.mem.scr0 else s.mem.scr1
def setScr (s : State) (i : Nat) (x : Scratch) : State :=
  if i = 0 then { s with mem.scr0 := x } else { s with mem.scr1 := x }

/-- The scratchpad block of one I/O die. -/
def scrReg (x : Scratch) (off : Nat) : Nat :=
  if off = 0 then x.rotate.toNat % 64
  else if off = 4 then bitAt 0 x.wiping + 2 * x.cause + 65536 * x.wipes
  else if off = 8 then x.deny
  else if 16 ≤ off && off < 40 then (tget x.conflicts ((off - 16) / 4)).getD 0
  else if 48 ≤ off && off < 72 then (tget x.collisions ((off - 48) / 4)).getD 0
  else 0

/-- Lease remaining in ms; all ones with no lease. -/
def leaseMs (s : State) : Nat :=
  match s.power.lease with
  | some l => (l.expiresQ - s.tide.nowQ) / 4
  | none => 4294967295

def pwrReg (s : State) (k : Nat) : Nat :=
  if k = 0 then bitAt 0 s.startup.dormantReq + bitAt 1 s.startup.refused + bitAt 2 s.startup.waking
  else if k = 1 then
    s.power.op + 8 * s.power.want + 64 * s.power.limits + 4096 * s.power.rung + bitAt 14 s.power.mismatch +
    65536 * s.power.powerW
  else if k = 2 then s.power.capW + 65536 * s.power.orphanW
  else if k = 3 then s.power.avgW + 65536 * s.power.windowS
  else if k = 4 then leaseMs s
  else if k = 5 then s.power.energyMj / 1000 % 4294967296
  else 0

/-- Flags of a hotspot (THERM_HOT, telemetry). -/
def hotFlags (h : Hotspot) : Nat :=
  bitAt 0 h.suspect + bitAt 1 (h.a.isNone != h.b.isNone) + bitAt 2 (h.a.isNone && h.b.isNone) + bitAt 3 (h.pace < 16)

def thermReg (s : State) (k : Nat) : Nat :=
  if k = 0 then s.power.thermSel
  else if k = 1 then
    if 145 < s.power.thermSel then 0
    else if s.power.fcAt.isNone then 16777216
    else
      let h := getHotspot s s.power.thermSel
      tempByte h.reading + 256 * tempByte (forecastOf s s.power.thermSel) + 65536 * hotFlags h + 1048576 * h.pace
  else if k = 2 then
    if s.power.fcAt.isNone then 0
    else
      let x := hottest s
      tempByte x.1 + 256 * x.2 + 65536 * tempByte s.power.edgeInlet + 16777216 * tempByte s.power.edgeOutlet
  else s.power.edgeFlow + bitAt 16 s.power.flowWarn + bitAt 17 s.power.flowShed + bitAt 18 s.power.stop

def getPort (s : State) (n : Nat) : Port := (tget s.links.ports n).getD {}
def setPort (s : State) (n : Nat) (x : Port) : State := { s with links.ports := tset s.links.ports n x }

/-- LVL_STATn. -/
def lvlReg (x : Port) : Nat :=
  x.state + 4 * x.lanes + 32 * x.step + 256 * x.cause + bitAt 12 x.resent + bitAt 13 x.lost + 65536 * x.peer

/-- A register of polder Pn's block below 0x1000 (R470). -/
def polderReg (s : State) (p : Nat) (f : Func) (off : Nat) : Nat :=
  let fn := Fn.vf p
  if off = 0x10 then tnOf s.tide.count
  else if off = 0x14 then (f.capTide.getD 0).toNat
  else if off = 0x18 then tidePeriodReg s
  else if off = 0x200 then (tget s.host.tgtThr p).getD 0
  else
    match getPolder s p with
    | none => if off = 0 then p + 192 else if off = 4 then 2 * getTdi s p else 0
    | some x =>
      if off = 0 then p + 64 * classCode x.cls + 256 * x.sluices
      else if off = 4 then
        bitAt 0 (x.resetting && !x.destroying) + 2 * getTdi s p +
        bitAt 3 ((sluicesOf s fn).any fun n => decide ((getSluice s fn n).heldCpl ≠ []))
      else if off = 0x100 then x.arithExc
      else if off = 0x104 then x.ceSram
      else if off = 0x108 then x.ceHbm
      else if off = 0x10C then x.ceSpill
      else if off = 0x110 then x.codecSkip
      else 0

/-- A register of the global block (R468), as the PF0 instance `fn` reads it. -/
def globalReg (s : State) (fn : Fn) (off : Nat) : Nat :=
  let f := getFunc s fn
  if off = 0 then modId s
  else if off = 4 then modFleet s
  else if off = 8 then s.ident.fwVersion
  else if off = 0x10 then modStatus s
  else if off = 0x20 then tidePeriodReg s
  else if off = 0x24 then tnOf s.tide.count
  else if off = 0x28 then (f.capTide.getD 0).toNat
  else if off = 0x2C then epochReg s
  else if off = 0x30 then lifecycleReg s
  else if off = 0x34 then sealReg s
  else if off = 0x38 then sagReg s
  else if off = 0x40 then s.tide.ordInvalid
  else if off = 0x44 then s.tide.ordLate
  else if off = 0x48 then s.tide.leveeDropped
  else if off = 0x4C then s.tide.deadDb
  else if 0x1000 ≤ off && off < 0x1200 then
    let n := (off - 0x1000) / 32
    if ownsSluice s fn n then slcReg (getSluice s fn n) (off % 32) else 0
  else if off = 0x3000 then s.host.ihSource + 2048 * s.host.ihHub
  else if off = 0x3004 then ihSrcCfg s
  else if off = 0x3008 then ihGlobal s 0
  else if off = 0x300C then ihGlobal s 1
  else if 0x3100 ≤ off && off < 0x3208 then (tget s.host.tgtThr ((off - 0x3100) / 4)).getD 0
  else if 0x3300 ≤ off && off < 0x3340 then (tget s.host.pinFilter ((off - 0x3300) / 4)).getD 8
  else if off = 0x4014 then (f.capGrants.getD 0).toNat
  else if off = 0x401C then (f.capWait.getD 0).toNat
  else if 0x4000 ≤ off && off < 0x4024 then arbReg s ((off - 0x4000) / 4)
  else if 0x5000 ≤ off && off < 0x5200 then scrReg (getScr s ((off - 0x5000) / 256)) (off % 256)
  else if off = 0x6018 then (f.capEnergy.getD 0).toNat
  else if 0x6000 ≤ off && off < 0x601C then pwrReg s ((off - 0x6000) / 4)
  else if 0x7000 ≤ off && off < 0x7010 then thermReg s ((off - 0x7000) / 4)
  else if 0x8000 ≤ off && off < 0x8020 then lvlReg (getPort s ((off - 0x8000) / 4))
  else if 0x10000 ≤ off && off < 0x50000 then polderReg s ((off - 0x10000) / 4096) f (off % 4096)
  else 0

/-- The value that a function reads at an offset of its BAR0; unassigned offsets read zero (R467). -/
def regValue (s : State) (fn : Fn) (off : Nat) : Nat :=
  if off % 4 ≠ 0 then 0
  else
    match fn with
    | .vf p =>
      if off < 0x1000 then polderReg s p (getFunc s fn) off
      else if 0x1000 ≤ off && off < 0x1200 then
        let n := (off - 0x1000) / 32
        if ownsSluice s fn n then slcReg (getSluice s fn n) (off % 32) else 0
      else 0
    | _ => globalReg s fn off

/-- The span of a warm restart or activation pause in which BAR0 does not answer (R472). -/
def barDark (s : State) : Bool :=
  match s.safety.restart with
  | some r => decide (s.tide.nowQ < r.darkEndQ)
  | none => false

/-- The function's BAR0 can be reached: the function exists and the host link is up. -/
def reachable (s : State) (fn : Fn) : Bool := fnEnabled s fn && s.host.linkUp && mainUp s

/-- The capture that a read makes: the _HI value of a _LO register (R52, R471). -/
def capture (s : State) (fn : Fn) (off : Nat) : State :=
  let f := getFunc s fn
  let tideHi := w32 (epochOf s.tide.count)
  let c := getCounters (getArbiter s s.mem.arbInstance) s.mem.arbInput
  match fn with
  | .vf _ => if off = 0x10 then setFunc s fn { f with capTide := some tideHi } else s
  | _ =>
    if off = 0x24 || (0x10000 ≤ off && off < 0x50000 && off % 4096 = 0x10) then
      setFunc s fn { f with capTide := some tideHi }
    else if off = 0x4010 then
      setFunc s fn { f with capGrants := some (w32 (if 1057 < s.mem.arbInstance then 0 else c.grants / 4294967296)) }
    else if off = 0x4018 then
      setFunc s fn { f with capWait := some (w32 (if 1057 < s.mem.arbInstance then 0 else c.wait / 4294967296)) }
    else if off = 0x6014 then
      setFunc s fn { f with capEnergy := some (w32 (s.power.energyMj / 1000 / 4294967296)) }
    else s

/-! ## Lights (R28) -/

/-- A light: off, steady, or blinking at a rate in Hz. -/
inductive Light where
  | off
  | steady
  | blink (hz : Nat)
deriving DecidableEq, Repr

def lightPwr (s : State) : Light :=
  if !s.aon.up then .off
  else if mainUp s then .steady
  else .blink 1

def lightSvc (s : State) : Light :=
  if !s.aon.up then .off
  else if s.aon.held.isSome then .blink 2
  else if !mainUp s || !workAdmitted s then .steady
  else .off

def lightFlt (s : State) : Light :=
  if !s.aon.up then .off
  else if s.aon.startFailed then .blink 4
  else if s.safety.hold.isSome || s.aon.replace || s.aon.noClassS then .steady
  else .off

end Sys2Proof.Machine
end

