-- ==== Sys2Proof/Machine/Sluice.lean ====
section
/-! DEFINITION. Machine/Sluice.lean: fetching a command and its arrival checks (R104 to R118, R126, R127), and
the register accesses that enable, disable, ring and repair a sluice (R102 to R107). -/

namespace Sys2Proof.Machine

/-! ## Fetching -/

/-- A fence is satisfied: every earlier command has its final completion, or, for RUN_PERIODIC and
REQUEST_SUBMIT, its first one (command packet, FENCE). -/
def fenceOk (x : Sluice) : Bool := x.owed.all fun e => e.light && !e.first

/-- A control core is halted by the debug transport: target 0x0100 + 4i + c. -/
def coreHalted (s : State) (io core : Nat) : Bool := (tget s.startup.units (0x0100 + 4 * io + core)).any (·.halted)

/-- Some core of a cluster is halted: the clock watchdogs that the cluster holds pause, and IO0's copies no log (R466). -/
def clusterHalted (s : State) (io : Nat) : Bool := (List.range 4).any fun c => coreHalted s io c

/-- The debug transport has halted every control core, so nothing is fetched (R466). -/
def coresHalted (s : State) : Bool := (List.range 8).all fun k => (tget s.startup.units (0x0100 + k)).any (·.halted)

/-- The module may fetch the next command of the sluice (R102 to R107, R398, R451). -/
def mayFetch (s : State) (h : Hdr) : Bool :=
  let x := getSluice s h.fn h.sluice
  s.tide.running && s.safety.restart.isNone && !(s.safety.hold.any (·.waitMarks)) && !coresHalted s && !s.startup.dormant &&
    !s.startup.waking && !s.startup.entering && fnEnabled s h.fn && ownsSluice s h.fn h.sluice && x.enable && !x.ringFault && !x.bounceStopped && decide (x.cmdHead ≠ x.cmdTail) &&
    decide (owedAfter x + x.heldCpl.length + 2 ≤ cplFree x) && busOk s h.fn && (!h.fence || fenceOk x)

/-- Take the slot: CMD_HEAD passes it, and the command is owed a first and a final completion. -/
def takeSlot (h : Hdr) (light : Bool) (s : State) : State :=
  let x := getSluice s h.fn h.sluice
  setSluice s h.fn h.sluice
    { x with cmdHead := (x.cmdHead + 1) % sluiceSize x, fetches := x.fetches + 1,
             owed := (⟨h.seq, true, s.tide.ix, light, x.fetches⟩ : Owed) :: x.owed }

/-- Step 1 of R112, with R113: the reason for which the SEQ is refused. -/
def seqFault (x : Sluice) (seq : Word) : Option Reason :=
  match x.prevSeq with
  | none => none
  | some p => if p = seq then some .seqRepeat else if serialLt p seq then none else some .seqOrder

def setPrev (h : Hdr) (s : State) : State :=
  setSluice s h.fn h.sluice { getSluice s h.fn h.sluice with prevSeq := some h.seq }

/-- Record a SEQ as applied on arrival (R118). -/
def markApplied (h : Hdr) (s : State) : State :=
  let x := getSluice s h.fn h.sluice
  setSluice s h.fn h.sluice { x with applied := h.seq :: x.applied }

/-- Forget what a skipped slot added: the fetch position moves, nothing else is owed (R118). -/
def skipSlot (h : Hdr) (s : State) : State :=
  let x := getSluice s h.fn h.sluice
  setSluice s h.fn h.sluice { x with cmdHead := (x.cmdHead + 1) % sluiceSize x, prevSeq := some h.seq }

/-- Queue a tide-launched command for its edge (R114). -/
def queueTide (c : Instr) (h : Hdr) (s : State) : State :=
  { s with tide.queued := s.tide.queued ++ [(⟨c, s.tide.ix, dueIx s h, tagOf s h⟩ : Queued)] }

/-- The command reads a buffer of the host, which is a bounce record in bounce-buffer mode (R436). -/
def readsHost : Instr → Bool
  | .graphLoad _ _ _ _ _ _ => true
  | .modelVariantAdd _ _ _ _ _ => true
  | .runAtTide _ _ _ _ _ _ _ => true
  | .runPeriodic _ _ _ _ _ _ _ _ _ => true
  | .requestSubmit _ _ _ _ _ _ => true
  | .codecSessionOpen _ _ _ _ _ _ _ => true
  | .codecPicture _ _ _ _ _ _ => true
  | .fwStage _ _ _ _ _ _ => true
  | _ => false

/-- The command's bounce records do not rise above the last accepted one (R436). -/
def bounceStale (c : Instr) (h : Hdr) (s : State) : Bool :=
  let x := getSluice s h.fn h.sluice
  readsHost c && x.devMem && decide (h.bounce ≤ x.bounceCounter)

/-- Accept the command's bounce records. -/
def noteBounce (c : Instr) (h : Hdr) (s : State) : State :=
  let x := getSluice s h.fn h.sluice
  if readsHost c && x.devMem then setSluice s h.fn h.sluice { x with bounceCounter := h.bounce } else s

/-- A command that has passed its checks, with presence where it needs it: applied on arrival, or accepted
and queued for its edge (R110, R114). -/
def proceed (c : Instr) (i : OpInfo) (h : Hdr) (accepted : Bool) (onArrival : State → State) (s : State) : State :=
  if i.arrival then
    if bounceStale c h s then finish h .badParam .bufferFault [] (markApplied h s)
    else onArrival (noteBounce c h (markApplied h s))
  else queueTide c h (if accepted then s else accept h s)

/-- Hold a presence-gated command (R126). -/
def holdForPresence (c : Instr) (h : Hdr) (s : State) : State :=
  post h.fn h.sluice { completion s h .accepted false .none [] with held := true }
    { s with aon.held := some ⟨c, s.tide.ix⟩ }

/-- The held command is this one, fetched again after a warm restart (R118). -/
def alreadyHeld (s : State) (h : Hdr) : Bool :=
  match s.aon.held with
  | some o => match hdrOf o.cmd with
    | some g => g.fn = h.fn && g.sluice = h.sluice && g.seq = h.seq
    | none => false
  | none => false

/-- A command of a polder: one that its function issues, or one of PF0 that names it, but for its creation and its
destruction (R99; assumption log 68). -/
def ownCommand (i : OpInfo) (h : Hdr) (p : Nat) : Bool :=
  match h.fn with
  | .vf q => q = p
  | _ => i.names && decide (h.polder = p) && i.code ≠ 0x0101 && i.code ≠ 0x0102

/-- The command's polder is being reset, so it ends with ST_POLDER_RESET (R99). -/
def ownResetting (s : State) (i : OpInfo) (h : Hdr) : Bool :=
  ownCommand i h (polderOf h) && (getPolder s (polderOf h)).any (·.resetting)

/-- A command that a fence awaits only until its first completion. -/
def isLight : Instr → Bool
  | .runPeriodic _ _ _ _ _ _ _ _ _ => true
  | .requestSubmit _ _ _ _ _ _ => true
  | _ => false

/-- After the slot is taken and step 1 passed: the other checks, presence, and the command itself. -/
def admitFetched (c : Instr) (i : OpInfo) (h : Hdr) (onArrival : State → State) (s : State) : State :=
  match arrivalFault s c i h with
  | some (st, r) => finish h st r [] s
  | none =>
    if ownResetting s i h then finish h .polderReset .none [] s
    else if i.gated && !s.aon.presence then
      if s.aon.held.isSome then finish h .notPermitted .presenceBusy [] s
      else if h.nowait then finish h .presenceRequired .presenceTimeout [] s
      else holdForPresence c h s
    else proceed c i h false onArrival s

/-- Fetch a command from its sluice, if the module may, and carry it through the arrival checks of R112.
`onArrival` is its effect where it is applied on arrival. -/
def fetch (c : Instr) (h : Hdr) (onArrival : State → State) (s : State) : State :=
  match opInfo c with
  | none => s
  | some i =>
    if !mayFetch s h then s
    else
      let x := getSluice s h.fn h.sluice
      match seqFault x h.seq with
      | some r => finish h .badParam r [] (takeSlot h false s)
      | none =>
        if h.seq ∈ x.applied || alreadyHeld s h then skipSlot h s
        else admitFetched c i h onArrival (setPrev h (takeSlot h (isLight c) s))

/-- The outcome of a sluice command. -/
def fetched (c : Instr) (h : Hdr) (onArrival : State → State) (s : State) : Host.Outcome State Fault Refusal :=
  .next (fetch c h onArrival s)

/-! ## Sluices across a commit and a warm restart (R118) -/

/-- At a commit, the fetch position and the previous SEQ of every sluice become committed state. -/
def commitSluices (s : State) : State :=
  { s with host.sluices := s.host.sluices.map fun p =>
      (p.1, { p.2 with committedHead := p.2.cmdHead, committedSeq := p.2.prevSeq, applied := [] }) }

/-- The SEQ was applied on arrival, or released from its hold, since the last commit, or it is held for presence. -/
def keepsSeq (s : State) (key : Nat) (x : Sluice) (seq : Word) : Bool :=
  seq ∈ x.applied ||
    (s.aon.held.any fun o => (hdrOf o.cmd).any fun g => sluiceKey g.fn g.sluice = key && g.seq = seq)

/-- A queued command of a discarded tide that is not fetched again: one that the host's fetch did not bring, or one that was
released from its hold in it. -/
def keepsQueued (s : State) (q : Queued) : Bool :=
  match hdrOf q.cmd with
  | some h => h.seq ∈ (getSluice s h.fn h.sluice).applied
  | none => true

/-- After a discarded tide, every sluice resumes from its committed position; what was fetched in the
discarded tide and not applied on arrival is no longer owed, and is fetched again. -/
def resumeSluices (lostIx : Nat) (s : State) : State :=
  { s with
    host.sluices := s.host.sluices.map fun p =>
      (p.1, { p.2 with cmdHead := p.2.committedHead, prevSeq := p.2.committedSeq,
                       owed := p.2.owed.filter fun e => e.intakeIx ≠ lostIx || keepsSeq s p.1 p.2 e.seq })
    tide.queued := s.tide.queued.filter fun q => q.intakeIx ≠ lostIx || keepsQueued s q }

/-! ## Sluice registers -/

/-- The TDI locks the base registers, SIZE_LOG2 and DEV_MEM (R434). -/
def tdiLocked (s : State) : Fn → Bool
  | .vf p => let t := getTdi s p; t = 1 || t = 2
  | _ => false

/-- DEV_MEM may be enabled: a session is open and the TDI is in CONFIG_UNLOCKED (R436). -/
def bounceOk (s : State) (fn : Fn) : Bool :=
  (getFunc s fn).session && match fn with
    | .vf p => decide (getTdi s p = 0)
    | _ => true

/-- A write to SLC_CFGn (R103). Enabling also sets CPL_HEAD to 0, which R103 does not list: the two completion indices start equal
(DESIGN CHOICE, assumption log 68). -/
def writeSlcCfg (fn : Fn) (n : Nat) (v : Word) (s : State) : State :=
  if !ownsSluice s fn n then s
  else
    let x := getSluice s fn n
    let irq := v.getLsbD 9
    if x.enable then
      if v.getLsbD 0 || x.owed ≠ [] then setSluice s fn n { x with irqEn := irq }
      else setSluice s fn n { x with irqEn := irq, enable := false, bounceStopped := false }
    else
      let size := if tdiLocked s fn then x.sizeLog2 else (v.extractLsb' 4 4).toNat
      let dev := if tdiLocked s fn then x.devMem else v.getLsbD 8
      let y := { x with irqEn := irq, sizeLog2 := size, devMem := dev }
      if !v.getLsbD 0 then setSluice s fn n y
      else if !(4 ≤ size && size ≤ 12) || (dev && !bounceOk s fn) then setSluice s fn n { y with cfgError := true }
      else
        setSluice s fn n
          { y with enable := true, cmdHead := 0, cmdTail := 0, cplHead := 0, cplTail := 0, phase := true,
                   prevSeq := none, committedHead := 0, committedSeq := none, applied := [], bounceCounter := 0 }

/-- The polder of a function is gone, or is being destroyed, so its doorbells are counted in DEAD_DB (R100). -/
def polderGone (s : State) : Fn → Bool
  | .vf p => match getPolder s p with
    | some x => x.destroying
    | none => true
  | _ => false

/-- A doorbell that reaches the sluice (R104, R106). -/
def ringDoorbell (fn : Fn) (n : Nat) (v : Word) (s : State) : State :=
  let x := getSluice s fn n
  let size := sluiceSize x
  let only := v.getLsbD 31
  let tail := (v.extractLsb' 0 12).toNat
  let head := (v.extractLsb' 16 12).toNat
  let dist (a : Nat) : Nat := (a + size - x.cmdHead) % size
  if size ≤ head || (!only && (size ≤ tail || dist tail < dist x.cmdTail)) then setSluice s fn n { x with dbError := true }
  else wakeEvent (setSluice s fn n { x with cplHead := head, cmdTail := if only then x.cmdTail else tail })

/-- A write to SLC_DBn: latched while BAR0 is dark, counted when the polder does not exist, ignored for a
disabled sluice. -/
def writeDoorbell (fn : Fn) (n : Nat) (v : Word) (s : State) : State :=
  if !reachable s fn then s
  else if barDark s then { s with host.latchedDb := s.host.latchedDb ++ [(fn, n, v)] }
  else if polderGone s fn then { s with tide.deadDb := sat32 (s.tide.deadDb + 1) }
  else if !ownsSluice s fn n || !(getSluice s fn n).enable then s
  else ringDoorbell fn n v s

/-- Doorbells latched while BAR0 was dark take effect when the sluices resume (R472). -/
def releaseDoorbells (s : State) : State :=
  s.host.latchedDb.foldl (fun st d => writeDoorbell d.1 d.2.1 d.2.2 st) { s with host.latchedDb := [] }

/-- A write to SLC_STATn: its W1C bits; clearing RING_FAULT writes the held completions (R107). -/
def writeSlcStat (fn : Fn) (n : Nat) (v : Word) (s : State) : State :=
  if !ownsSluice s fn n then s
  else
    let x := getSluice s fn n
    flushHeld fn n (setSluice s fn n
      { x with ringFault := x.ringFault && !v.getLsbD 13, dbError := x.dbError && !v.getLsbD 14,
               cfgError := x.cfgError && !v.getLsbD 15 })

/-- A host register write happens at all: the function is reachable, BAR0 answers and, in a polder block,
the polder exists (R470, R472). -/
def writable (s : State) (fn : Fn) : Bool := reachable s fn && !barDark s && !polderGone s fn

def execSluiceEnable (fn : Fn) (n : Nat) (value : Word) (s : State) : Host.Outcome State Fault Refusal :=
  .next (if writable s fn then writeSlcCfg fn n (value ||| 1) s else s)

def execSluiceDisable (fn : Fn) (n : Nat) (value : Word) (s : State) : Host.Outcome State Fault Refusal :=
  .next (if writable s fn then writeSlcCfg fn n (value &&& 0xFFFFFFFE) s else s)

def execDoorbell (fn : Fn) (n : Nat) (value : Word) (s : State) : Host.Outcome State Fault Refusal :=
  .next (writeDoorbell fn n (value &&& 0x7FFFFFFF) s)

def execCplOnly (fn : Fn) (n : Nat) (value : Word) (s : State) : Host.Outcome State Fault Refusal :=
  .next (writeDoorbell fn n (value ||| 0x80000000) s)

def execRingFaultClear (fn : Fn) (n : Nat) (data : WriteIn) (s : State) : Host.Outcome State Fault Refusal :=
  .next (if writable s fn then writeSlcStat fn n ((data.value ||| 0x2000) &&& ~~~(data.same &&& 0xE000)) s else s)

/-- A ring access that ends with a bus error: RING_FAULT and the function's fault vector (R107). -/
def execRingBusError (fn : Fn) (n : Nat) (s : State) : Host.Outcome State Fault Refusal :=
  .next (if ownsSluice s fn n && (getSluice s fn n).enable then
    raiseVector fn 16 (setSluice s fn n { getSluice s fn n with ringFault := true })
  else s)

end Sys2Proof.Machine
end

