-- ==== Sys2Proof/Machine/Runs.lean ====
section
/-! DEFINITION. Machine/Runs.lean: runs and their invocations: starting, launching, ending, shedding and
committing them (R83 to R85, R96, R109, R110, R116, R325, R330, R381), and RUN_AT_TIDE, RUN_PERIODIC,
RUN_STOP. -/

namespace Sys2Proof.Machine

def getGraph (s : State) (p h : Nat) : Option Graph := (getPolder s p).bind fun x => tget x.graphs h
def setGraph (s : State) (p h : Nat) (g : Graph) : State := modPolder s p fun x => { x with graphs := tset x.graphs h g }
def getRun (s : State) (p r : Nat) : Option Run := (getPolder s p).bind fun x => tget x.runs r
def setRun (s : State) (p r : Nat) (y : Run) : State := modPolder s p fun x => { x with runs := tset x.runs r y }
def clsOf (s : State) (p : Nat) : Option Class := (getPolder s p).map (·.cls)
def isClassS (s : State) (p : Nat) : Bool := clsOf s p = some .S

/-- Key of a source in the SEQ counters: rank and source ID (R57, R59). -/
def sourceKey (rank srcMod srcLocal : Nat) : Nat := rank * 16777216 + srcMod * 32768 + srcLocal

/-- Next SEQ of a source. -/
def nextSeq (s : State) (key : Nat) : Word := BitVec.ofNat 32 ((tget s.tide.srcSeq key).getD 0)

/-- Advance a source's SEQ, wrapping at 2^32 (R59). -/
def bumpSeq (key : Nat) (s : State) : State :=
  { s with tide.srcSeq := tset s.tide.srcSeq key (((tget s.tide.srcSeq key).getD 0 + 1) % 4294967296) }

/-- Source of the results of a run (R58): rank 7, 64 x polder + run. -/
def resultKey (s : State) (p r : Nat) : Nat := sourceKey 7 (s.flash.index.getD 0) (64 * p + r)

/-- Set flags on a completion: LATE_INPUT and SHED. -/
def withFlags (late shed : Bool) (c : Completion) : Completion := { c with lateInput := late, shed := shed }

/-- Post a completion of a command with flags; final or interim. -/
def answer (c : Instr) (st : Status) (final : Bool) (r : Reason) (late shed : Bool) (payload : List Byte)
    (s : State) : State :=
  match hdrOf c with
  | some h =>
    let k := withFlags late shed (completion s h st final r payload)
    if final then post h.fn h.sluice k s else postInterim h.fn h.sluice k s
  | none => s

/-! ## Schedule records (R325) -/

/-- Send a Class S run's schedule record to both wardens. -/
def sendSchedule (p r : Nat) (y : Run) (s : State) : State :=
  if isClassS s p then
    let seq := nextSeq s (resultKey s p r)
    emit (.schedule p r y.period y.deadline seq false)
      { s with wardens.schedules :=
          (s.wardens.schedules.filter fun x => x.polder ≠ p || x.run ≠ r) ++ [⟨p, r, y.period, y.deadline, seq⟩] }
  else s

/-- Tell both wardens that a Class S run has ended. -/
def endSchedule (p r : Nat) (s : State) : State :=
  if isClassS s p then
    emit (.schedule p r 0 0 0 true)
      { s with wardens.schedules := s.wardens.schedules.filter fun x => x.polder ≠ p || x.run ≠ r }
  else s

/-! ## Ending a run -/

/-- Payload of a run's final completion: the invocations committed, for a periodic run (R119). -/
def runPayload (y : Run) : List Byte := le 4 (if y.periodic then y.committed else 0)

/-- End a run: its invocations never commit, and its final completion is posted (R116). -/
def endRun (p r : Nat) (st : Status) (reason : Reason) (shed : Bool) (s : State) : State :=
  match getRun s p r with
  | some y =>
    let s := endSchedule p r s
    let s := modPolder s p fun x => { x with runs := tdel x.runs r }
    answer y.cmd st true reason false shed (runPayload y) s
  | none => s

/-- Complete one invocation and remove it: a single run ends with it; a periodic one writes an interim
completion, and its final one after COUNT invocations (R110, R119). -/
def completeInv (p r : Nat) (inv : Invocation) (st : Status) (reason : Reason) (bytes : Nat) (s : State) : State :=
  match getRun s p r with
  | none => s
  | some y =>
    let y := { y with invs := y.invs.filter fun i => i.no ≠ inv.no,
                      committed := y.committed + bit (st = .ok) }
    if !y.periodic then
      let s := endSchedule p r (modPolder s p fun x => { x with runs := tdel x.runs r })
      answer y.cmd st true reason inv.late inv.shed (le 4 bytes) s
    else
      let s := setRun s p r y
      let s := answer y.cmd st false reason inv.late inv.shed (le 4 inv.no ++ le 4 bytes) s
      if y.countLimit ≠ 0 && y.countLimit ≤ y.nextNo && y.invs = [] then endRun p r .ok .none false s else s

/-- Precedence of the failures of one invocation (R159): data error, breach, shed, deadline, the rest. -/
def failRank : Status → Nat
  | .dataError => 4
  | .breach => 3
  | .noFit => 2
  | .deadlineMissed => 1
  | _ => 0

/-- Record a failure of an invocation; a stronger one stands. -/
def failInv (st : Status) (reason : Reason) (shed : Bool) (i : Invocation) : Invocation :=
  match i.fail with
  | some (x, _) => if failRank x < failRank st then { i with fail := some (st, reason), shed := shed } else i
  | none => { i with fail := some (st, reason), shed := shed }

/-- Apply a change to every invocation in progress of the runs of a polder that `pick` chooses. -/
def mapInvs (pick : Nat → Run → Bool) (f : Invocation → Invocation) (x : Polder) : Polder :=
  { x with runs := x.runs.map fun q => if pick q.1 q.2 then (q.1, { q.2 with invs := q.2.invs.map f }) else q }

/-- Fail every invocation in progress of the chosen runs of a polder. -/
def failRuns (p : Nat) (pick : Nat → Run → Bool) (st : Status) (shed : Bool) (s : State) : State :=
  modPolder s p (mapInvs pick (failInv st .none shed))

/-- Fail with ST_BREACH the invocations of the chosen runs that were at work in the tide: those whose last quantum ended in an
earlier one are past it. -/
def breachInUse (p : Nat) (pick : Nat → Run → Bool) (s : State) : State :=
  modPolder s p (mapInvs pick fun i => if i.finished.all (· = s.tide.ix) then failInv .breach .none false i else i)

/-- Numbers of the polders. -/
def polderNumbers (s : State) : List Nat := s.work.polders.map (·.1)
def runNumbers (s : State) (p : Nat) : List Nat :=
  match getPolder s p with
  | some x => x.runs.map (·.1)
  | none => []

/-- Shed every Class B run: its invocation in progress completes with ST_NO_FIT and SHED, and so does the run
(R96, R370). -/
def shedRun (p r : Nat) (s : State) : State :=
  match getRun s p r with
  | some y =>
    let s := y.invs.foldl (fun st i =>
      if y.periodic then answer y.cmd .noFit false .none i.late true (le 4 i.no ++ le 4 0) st else st) s
    endRun p r .noFit .none true s
  | none => s

/-- Shed Class B (rung 2 of R370, and the 40% flow condition of R380). -/
def shedClassB (s : State) : State :=
  (polderNumbers s).foldl (fun st p =>
    if clsOf st p = some .B then (runNumbers st p).foldl (fun u r => shedRun p r u) st else st) s

/-- Class B is shed now. -/
def bShed (s : State) : Bool := 2 ≤ s.power.rung || s.power.flowShed

/-- Suspend Class Q and Class B at a coolant stop: invocations in progress complete with ST_DEADLINE_MISSED and
SHED (R381). -/
def suspendQB (s : State) : State :=
  (polderNumbers s).foldl (fun st p =>
    if isClassS st p then st else failRuns p (fun _ _ => true) .deadlineMissed true st) s

/-! ## Starting a run -/

/-- The entry that invocation k uses for a port: the one with index k mod m among the port's entries (R109). -/
def portEntry (y : Run) (output : Bool) (port k : Nat) : Option Desc :=
  let es := y.descs.filter fun e => e.output == output && e.port = port
  es[k % (max es.length 1)]?

/-- The declared largest size of an input, or of a list's COUNT, exceeded: some input entry that invocation k uses (R78, R109,
R216). -/
def oversizeInput (img : Image) (y : Run) (k : Nat) : Bool :=
  (img.inputs.any fun io => (portEntry y false io.1 k).any fun e => decide (io.2 < e.len)) ||
    img.lists.any fun l => (portEntry y false l.1 k).any fun e => decide (l.2 < e.count)

/-- The bus cannot reach an input buffer, or an output buffer, that invocation k uses (R108). -/
def inputFault (img : Image) (y : Run) (k : Nat) : Bool := img.inputs.any fun io => (portEntry y false io.1 k).any (·.fault)
def outputFault (img : Image) (y : Run) (k : Nat) : Bool := img.outPorts.any fun o => (portEntry y true o.port k).any (·.fault)

/-- An output entry is shorter than the result size that the image declares for its port (R109). -/
def shortOutput (img : Image) (descs : List Desc) : Bool :=
  img.outPorts.any fun o => descs.any fun e => e.output && e.port = o.port && decide (e.len < o.bytes)

/-- Start a run at its applying edge (R83, R109, R120, R177, R476). A run number that is active gives FIELD_RANGE (assumption
log 68). -/
def startRun (c : Instr) (h : Hdr) (handle run period deadline count : Nat) (descs : List Desc) (fault periodic : Bool)
    (s : State) : State :=
  let p := polderOf h
  match getGraph s p handle with
  | none => finish h .badParam .noGraph [] s
  | some g =>
    if s.tide.change.isSome then finish h .notPermitted .busyAdmitted [] s
    else if g.copyBad then finish h .dataError .none [] s
    else if deadline < g.d || (periodic && period < g.t) then finish h .badParam .timingRange [] s
    else if (getRun s p run).isSome then finish h .badParam .fieldRange [] s
    else if fault then finish h .badParam .bufferFault [] s
    else if shortOutput g.img descs then finish h .badParam .bufferShort [] s
    else
      let y : Run :=
        { handle := handle, cmd := c, intakeIx := s.tide.ix, periodic := periodic, period := period,
          deadline := deadline, countLimit := count, descs := descs, originIx := s.tide.ix, recurrent := g.img.initState }
      sendSchedule p run y (setRun s p run y)

def applyRunAtTide (c : Instr) (h : Hdr) (handle run deadline : Nat) (descs : List Desc) (fault : Bool)
    (s : State) : State :=
  startRun c h handle run deadline deadline 1 descs fault false s

def applyRunPeriodic (c : Instr) (h : Hdr) (handle run period deadline count : Nat) (descs : List Desc) (fault : Bool)
    (s : State) : State :=
  startRun c h handle run period deadline count descs fault true s

/-- Effects of a run that would commit at this edge are discarded, since RUN_STOP applies at it (R116). -/
def dropCommitting (p r : Nat) (s : State) : State :=
  match getRun s p r with
  | some y => setRun s p r { y with invs := [] }
  | none => s

/-- RUN_STOP (R116, R119, R120). -/
def applyRunStop (h : Hdr) (handle run : Nat) (s : State) : State :=
  let p := polderOf h
  match getGraph s p handle with
  | none => finish h .badParam .noGraph [] s
  | some _ =>
    match getRun s p run with
    | some y =>
      if y.handle = handle then finish h .ok .none [] (endRun p run .cancelled .none false s)
      else finish h .alreadyDone .none [] s
    | none => finish h .alreadyDone .none [] s

/-! ## Launching -/

/-- A warden votes: VOTING, MUTED, or HOLD entered from one of them (R320, R346). -/
def wardenVotes (w : WardenSt) : Bool :=
  w.state = .voting || w.state = .muted || (w.state = .hold && (w.before = .voting || w.before = .muted))

def wardensVote (s : State) : Bool := wardenVotes s.wardens.a || wardenVotes s.wardens.b

/-- The run launches an invocation at the edge that opens the tide in progress. -/
def launchDue (y : Run) (ix : Nat) : Bool :=
  decide (y.originIx ≤ ix) &&
    (if y.periodic then
      decide ((ix - y.originIx) % (max y.period 1) = 0) &&
        (y.countLimit = 0 || decide (y.baseNo + (ix - y.originIx) / (max y.period 1) < y.countLimit))
    else decide (ix = y.originIx))

/-- The invocation number that is due (R85, R330: counted in elapsed tides). -/
def launchNo (y : Run) (ix : Nat) : Nat := y.baseNo + (ix - y.originIx) / (max y.period 1)

/-- Class Q and Class B work launches now: no coolant stop (R381), and for Class B no shedding (R370). -/
def classLaunches (s : State) (c : Class) : Bool :=
  match c with
  | .S => wardensVote s
  | .Q => !s.power.stop
  | .B => !s.power.stop && !bShed s

/-- An invocation that is due and cannot launch is skipped with its number (R330, R381); a single run then
misses its deadline, and a periodic one may have reached its COUNT. -/
def skipLaunch (p r k : Nat) (s : State) : State :=
  match getRun s p r with
  | none => s
  | some y =>
    let s := setRun s p r { y with nextNo := k + 1 }
    if !y.periodic then endRun p r .deadlineMissed .none false s
    else if y.countLimit ≠ 0 && y.countLimit ≤ k + 1 && y.invs = [] then endRun p r .ok .none false s
    else s

/-- A member of the installation can be reached: a live association with an up port (R423). -/
def memberReachable (s : State) (m : Nat) : Bool :=
  match tget s.links.assocs m with
  | some a => a.live && decide (a.ports ≠ [])
  | none => false

/-- No quantum of the run launches: it belongs to a linked job, and TIME_ALIGN_FAULT is set or a member cannot be
reached (R42, R423). -/
def linkBlocked (s : State) (p r : Nat) : Bool :=
  s.links.jobs.any fun j => j.1 = p && j.2.1 = r && (s.time.alignFault || !memberReachable s j.2.2)

/-- An invocation of a linked job that is not launched completes with ST_BREACH (R423). -/
def breachLaunch (p r k : Nat) (s : State) : State :=
  match getRun s p r with
  | none => s
  | some y =>
    let s := setRun s p r { y with nextNo := k + 1 }
    if !y.periodic then endRun p r .breach .none false s
    else
      let s := answer y.cmd .breach false .none false false (le 4 k ++ le 4 0) s
      if y.countLimit ≠ 0 && y.countLimit ≤ k + 1 && y.invs = [] then endRun p r .ok .none false s else s

/-- The tier and the extents in which a plan keeps a graph's weights outside SRAM: its HBM, else its spillway (assumption
log 70). -/
def weightHome (q : Plan) : Option (Nat × List Extent) :=
  if q.hbm ≠ [] then some (1, q.hbm) else if q.spill ≠ [] then some (2, q.spill) else none

/-- Put weights where the plan keeps them. -/
def placeWeights (q : Plan) (bs : List Byte) (s : State) : State :=
  match weightHome q with
  | some (t, es) => extentWrite t es bs s
  | none => s

/-- Reload a graph's weights from the image copy in the spillway (R73, R96, R177). -/
def reloadGraph (p h : Nat) (g : Graph) (s : State) : State :=
  let bs := extentRead s 2 g.plan.copy g.img.weights.length
  setGraph (placeWeights g.plan bs s) p h { g with weights := bs, reloadWeights := false }

/-- The ring of a Class S graph at the edge that launches a step: what a step that did not commit wrote is given up, and a new
page takes the place of the oldest (R246). -/
def turnRing (r : KvRing) : KvRing :=
  { r with new := 0, blocks := if r.count % 16 = 0 && 0 < r.size then tdel r.blocks (r.count / 16 % r.size) else r.blocks }

/-- Launch what is due of one run. -/
def launchRun (p r : Nat) (s : State) : State :=
  match getPolder s p, getRun s p r with
  | some x, some y =>
    if x.resetting || !launchDue y s.tide.ix then s
    else
      let k := launchNo y s.tide.ix
      if !mayLaunch s || !classLaunches s x.cls then
        if x.cls = .B && bShed s then shedRun p r s
        else if x.cls = .S && !mayLaunch s then s
        else skipLaunch p r k s
      else if linkBlocked s p r then breachLaunch p r k s
      else
        match tget x.graphs y.handle with
        | none => s
        | some g =>
          if inputFault g.img y k then endRun p r .badParam .bufferFault false s
          else
          let i : Invocation := { no := k, launchIx := s.tide.ix, commitIx := s.tide.ix + y.deadline, key := s.fresh }
          let i := if oversizeInput g.img y k then failInv .badParam .fieldRange false i else i  -- assumption log 68
          let i := if g.copyBad then failInv .dataError .none false i else i
          let i := if g.ports.any (·.2.isNone) then failInv .badParam .fieldRange false i else i
          let s := { s with fresh := s.fresh + 1 }
          let s := if g.reloadWeights then reloadGraph p y.handle g s else s
          let s := modPolder s p fun x => { x with graphs := tmod x.graphs y.handle fun g => { g with ports := g.ports.filter (·.2.isSome), ring := turnRing g.ring } }
          setRun s p r { y with invs := y.invs ++ [i], nextNo := k + 1, restartState := false,
                                recurrent := if y.restartState then g.img.initState else y.recurrent }
  | _, _ => s

/-- Apply a function to every run, polders ascending, runs ascending. -/
def forRuns (f : Nat → Nat → State → State) (s : State) : State :=
  (polderNumbers s).foldl (fun st p => (runNumbers st p).foldl (fun u r => f p r u) st) s

/-- At an edge, every invocation in progress starts its quanta of the tide that opens; those of a linked job whose link is
blocked start none (R42, R423). -/
def rearmInvs (s : State) : State :=
  (polderNumbers s).foldl (fun st p =>
    modPolder st p (fun x => { x with runs := x.runs.map fun q => (q.1, { q.2 with invs := q.2.invs.map fun i =>
      { i with running := i.finished.isNone && !linkBlocked st p q.1 } }) })) s

def launchRuns (s : State) : State := forRuns launchRun (rearmInvs s)

/-- At the relaunch edge every Class S run takes that edge as its new phase origin (R330). -/
def rephaseClassS (s : State) : State :=
  forRuns (fun p r st =>
    if isClassS st p then
      match getRun st p r with
      | some y => setRun st p r { y with originIx := st.tide.ix, baseNo := y.nextNo, invs := [] }
      | none => st
    else st) s

/-! ## Committing -/

/-- Key of what a channel writes of a tensor; Class Q and Class B have one channel, 0. -/
def partKey (tensor channel : Nat) : Nat := 65536 * tensor + channel

/-- Bytes of an output port's tensor, packed, zeros where nothing was written (R109, R138). -/
def portBytes (parts : Table TensorData) (channel : Nat) (o : OutPort) : List Byte :=
  padTo o.bytes (((tget parts (partKey o.tensor channel)).map fun d => packTensor d.bits d.codes).getD [])

/-- The result that a channel's quanta have written: the output ports in the order of the IO section (assumption log 74). -/
def resultOf (img : Image) (parts : Table TensorData) (channel : Nat) : List Byte := img.outPorts.flatMap (portBytes parts channel)

/-- A result cut into what each output port gives. -/
def portSlices : List OutPort → List Byte → List (Nat × List Byte)
  | [], _ => []
  | o :: r, bs => (o.port, bs.take o.bytes) :: portSlices r (bs.drop o.bytes)

/-- The result of an invocation. -/
def invResult (img : Image) (i : Invocation) : List Byte := i.result.getD (resultOf img i.tensors 0)

/-- Output of an invocation at a port. -/
def portOutput (img : Image) (i : Invocation) (port : Nat) : List Byte :=
  ((portSlices img.outPorts (invResult img i)).find? (·.1 = port)).elim [] (·.2)

/-- Image of a run's graph. -/
def runImage (s : State) (p : Nat) (y : Run) : Option Image := (getGraph s p y.handle).map (·.img)

/-- Write an invocation's result to its output buffers, one for every output port that has entries (R109). -/
def writeOutput (p : Nat) (y : Run) (i : Invocation) (s : State) : State :=
  match runImage s p y with
  | some img => (portSlices img.outPorts (invResult img i)).foldl (fun st o => match portEntry y true o.1 i.no with
      | some e => hostWrite ((hdrOf y.cmd).map (·.fn) |>.getD (.vf p)) e.addr (o.2.take e.len) st
      | none => st) s
  | none => s

/-- Bytes of an invocation's result. -/
def resultSize (s : State) (p : Nat) (y : Run) (i : Invocation) : Nat := ((runImage s p y).map fun img => (invResult img i).length).getD 0

/-- The private experts and router that a training invocation has computed take effect in the linked graph's variant (R278). -/
def commitExperts (p : Nat) (img : Image) (i : Invocation) (s : State) : State :=
  match i.newExperts, img.experts with
  | some bs, some e => match getGraph s p e.linkHandle with
    | some b =>
      if e.linkVariant = 0 then s
      else
        let s := setGraph s p e.linkHandle { b with experts := tset b.experts e.linkVariant bs }
        match b.variants.find? (·.1 = e.linkVariant) with
        | some v => placeWeights v.2 bs s
        | none => s
    | none => s
  | _, _ => s

/-- What an invocation has computed beside its result takes effect with its commit: recurrent state, the positions of a Class S
ring, and a variant's experts (R158, R246, R278, R323). -/
def commitEffects (p r : Nat) (i : Invocation) (s : State) : State :=
  match getRun s p r with
  | none => s
  | some y =>
    let s := setRun s p r { y with recurrent := i.newState.getD y.recurrent }
    match getGraph s p y.handle with
    | none => s
    | some g => commitExperts p g.img i
        (setGraph s p y.handle { g with ring := { g.ring with count := g.ring.count + g.ring.new, new := 0 } })

/-- Commit one invocation: its outputs, its effects, its completion. An output buffer that the bus cannot reach ends the run
command (R108). -/
def commitResult (p r : Nat) (i : Invocation) (s : State) : State :=
  match getRun s p r with
  | none => s
  | some y =>
    if (runImage s p y).any fun img => outputFault img y i.no then endRun p r .badParam .bufferFault false s
    else
      let n := resultSize s p y i
      completeInv p r i .ok .none n (bumpSeq (resultKey s p r) (commitEffects p r i (writeOutput p y i s)))

/-- Settle one Class Q or Class B invocation at the edge that has just opened the tide in progress. -/
def commitInv (p r : Nat) (i : Invocation) (s : State) : State :=
  match getRun s p r with
  | none => s
  | some _ =>
    match i.fail with
    | some (st, reason) => completeInv p r i st reason 0 s
    | none =>
      if s.tide.ix < i.commitIx then s
      else if i.finished.isSome then
        commitResult p r i s
      else completeInv p r i .deadlineMissed .none 0 s

/-- Commit every Class Q and Class B invocation that is due (R85). -/
def commitRuns (s : State) : State :=
  forRuns (fun p r st =>
    if isClassS st p then st
    else
      match getRun st p r with
      | some y => y.invs.foldl (fun u i => commitInv p r i u) st
      | none => st) s

/-- A discarded tide: the invocations in progress keep what was committed; a Class Q or Class B one that was
launched before the restart and has not ended misses its deadline there, since nothing runs until the
relaunch edge (R330). One of Class S launches again at that edge, under its number (R332; assumption log 67). -/
def dropInProgress (lostIx : Nat) (s : State) : State :=
  forRuns (fun p r st =>
    match getRun st p r with
    | some y =>
      if isClassS st p then setRun st p r { y with invs := [], nextNo := (y.invs.head?.map (·.no)).getD y.nextNo }
      else setRun st p r { y with invs := y.invs.map fun i =>
        { i with running := false, finished := if i.finished = some lostIx then none else i.finished } }
    | none => st) s

def execRunAtTide (h : Hdr) (handle run deadline descCount : Nat) (descs : List Desc) (fault : Bool) (s : State) :
    Host.Outcome State Fault Refusal :=
  fetched (.runAtTide h handle run deadline descCount descs fault) h id s

def execRunPeriodic (h : Hdr) (handle run period deadline descCount count : Nat) (descs : List Desc) (fault : Bool)
    (s : State) : Host.Outcome State Fault Refusal :=
  fetched (.runPeriodic h handle run period deadline descCount count descs fault) h id s

def execRunStop (h : Hdr) (handle run : Nat) (s : State) : Host.Outcome State Fault Refusal :=
  fetched (.runStop h handle run) h id s

end Sys2Proof.Machine
end

