-- ==== Sys2Proof/Machine/Polders.lean ====
section
/-! DEFINITION. Machine/Polders.lean: polders: creation, reset, destruction and their scrubs, token budgets,
commons groups, memory-key rotation, and the SRAM lines they hold (R70 to R74, R99 to R101, R167 to R169,
R181 to R188, R258, R268, R432). -/

namespace Sys2Proof.Machine

/-! ## SRAM lines and written bits (R166 to R169) -/

/-- Read a byte of SRAM: zero in a line whose written bit is clear (R167). -/
def sramRead (s : State) (a : Nat) : Byte :=
  if (tget s.mem.written (a / 64)).isSome then readByte s.mem.cells a else 0

/-- Write bytes within one line for a holder: the first write to a line zeroes its other bytes and sets the
written bit (R168). -/
def sramWrite (holder a : Nat) (bs : List Byte) (s : State) : State :=
  let line := a / 64
  let m := if (tget s.mem.written line).isSome then s.mem.cells else clearRange s.mem.cells (64 * line) (64 * line + 64)
  { s with mem.cells := writeBytes m a (bs.take (64 * line + 64 - a)),
           mem.written := tset s.mem.written line holder }

/-- The holder of a graph's lines. -/
def lineHolder (p h : Nat) : Nat := 16 * p + h

/-- What holds a line that only the debug transport has written: no graph. -/
def debugHolder : Nat := 1024

/-- Clear the written bits of the lines that a pick chooses by tile and holder; the bytes stay in the banks (R169). -/
def clearWhere (pick : Nat → Nat → Bool) (s : State) : State :=
  { s with mem.written := s.mem.written.filter fun e => !pick (e.1 / 1048576) e.2 }

/-- Clear the lines of a polder, or of one of its graphs. -/
def clearLines (p : Nat) (s : State) : State := clearWhere (fun _ k => k / 16 = p) s
def clearGraph (p h : Nat) (s : State) : State := clearWhere (fun _ k => k = lineHolder p h) s

/-! ## Accounting (R72, R73, R119) -/

/-- Memory that a graph and its variants hold. -/
def graphUse (f : Plan → Nat) (g : Graph) : Nat := f g.plan + (g.variants.map fun v => f v.2).sum

/-- Frames of 4 KiB that hold so many bytes. -/
def frames4K (bytes : Nat) : Nat := (bytes + 4095) / 4096

/-- Bytes of on-stack SRAM that a polder's graphs hold, and frames of spillway, image copies with them (R73). -/
def sramUse (x : Polder) : Nat := (x.graphs.map fun g => graphUse (·.sramHeld) g.2).sum
def spillUse (x : Polder) : Nat := (x.graphs.map fun g => graphUse (·.spillFrames) g.2).sum

/-- Bytes of HBM that a codec session holds (R285). -/
def sessionBytes (c : Session) : Nat :=
  let slot := if c.kind = 0 then rawBytes c else 2 * c.cfg.maxPicBytes
  let refs := if c.kind = 0 then c.cfg.refs + 1 else if c.kind = 1 then 7 else 9
  2 * slot + refs * (ctuCount c * ((if c.profile = 0 then 6144 else 7680) + 64))

/-- Frames of HBM that a polder's graphs and codec sessions hold. -/
def hbmUse (s : State) (p : Nat) (x : Polder) : Nat :=
  (x.graphs.map fun g => graphUse (·.hbmFrames) g.2).sum +
    frames4K ((s.codec.sessions.filter fun c => c.2.polder = p).map fun c => sessionBytes c.2).sum

/-- Prefix-store entries that requests of a polder reference, each counted once (R232, R267). -/
def referenced (s : State) (p : Nat) : List PfxEntry := s.work.pfx.filter fun e => e.holders.any (·.1 = p)

/-- Entries that a polder created and no request references (R267). -/
def unreferenced (s : State) (p : Nat) : List PfxEntry := s.work.pfx.filter fun e => e.creator = p && e.holders = []

def entryFrames (es : List PfxEntry) : Nat := (es.map (·.frames)).sum

/-- Frames of the entries of a tier that a polder created and no request references. -/
def keptFrames (s : State) (p t : Nat) : Nat := entryFrames ((unreferenced s p).filter (·.tier = t))

/-- Frames that the requests of a polder hold by reservation, in either tier, and those of their tables, in HBM (R231,
R232, R255). -/
def kvReserved (s : State) (p : Nat) (x : Polder) : Nat := (x.requests.map (·.reserved)).sum + entryFrames (referenced s p)
def kvTables (x : Polder) : Nat := (x.requests.map (·.tables)).sum

/-- Page entries of a polder's requests with their block's frames, each shared block once. -/
def polderPages (x : Polder) : List (Nat × PageEntry) :=
  (x.requests.flatMap fun r => r.pages.map fun e => (r.blockFrames, e)).foldl
    (fun acc q => if q.2.shared && acc.any (fun b => b.2.shared && b.2.pfxRef = q.2.pfxRef) then acc else q :: acc) []

/-- Frames in HBM: blocks in TIER 1 and the copies that a prefetch writes, and the entries kept without a reader. -/
def kvResident (s : State) (p : Nat) (x : Polder) : Nat :=
  ((polderPages x).map fun q => if q.2.tier = 1 || q.2.state = 2 then q.1 else 0).sum + keptFrames s p 1

/-- Frames in the spillway: blocks in TIER 2 and the copies that a spill writes, and the entries kept without a reader. -/
def kvSpilled (s : State) (p : Nat) (x : Polder) : Nat :=
  ((polderPages x).map fun q => if q.2.tier = 2 || q.2.state = 3 then q.1 else 0).sum + keptFrames s p 2

/-- Sum of a quota over the polders that exist; a Class S SRAM quota counts three times (R72). -/
def quotaSum (s : State) (skipDestroying : Bool) (f : Polder → Nat) : Nat :=
  (s.work.polders.map fun q => if skipDestroying && q.2.destroying then 0 else f q.2).sum

def sramCount (x : Polder) : Nat := if x.cls = .S then 3 * x.sramQuota else x.sramQuota

/-- The quota whose sum a create would exceed, the first in the order of R91; `no` is the create's place among decisions and
releases: what a destruction ordered after it releases still counts (R101). -/
def quotaFault (s : State) (skip : Bool) (no : Nat) (cls : Class) (sram hbm spill : Nat) : Option Reason :=
  let gone (f : Nat × Nat × Nat → Nat) : Nat := ((s.work.released.filter fun r =>
    no < r.no && (skip || !(getPolder s r.polder).any (·.destroying))).map (f ·.quotas)).sum
  if Config.allocSram < quotaSum s skip sramCount + gone (·.1) + (if cls = .S then 3 * sram else sram) then some .sramQuota
  else if Config.allocHbm < quotaSum s skip (·.hbmQuota) + gone (·.2.1) + hbm then some .hbmQuota
  else if Config.allocSpill < quotaSum s skip (·.spillQuota) + gone (·.2.2) + spill then some .spillQuota
  else none

/-! ## Key counters (R432) -/

def keyCounter (s : State) (n : Nat) : Nat := (tget s.ident.keyCounters n).getD 0
def setCounter (s : State) (n v : Nat) : State := { s with ident.keyCounters := tset s.ident.keyCounters n v }

/-! ## Capacity that is released while a decision waits (R86, R101) -/

/-- Take a place in the order of decisions and releases. -/
def nextPlaceNo (s : State) : State := { s with work.orderNo := s.work.orderNo + 1 }

/-- Capacity is released: decisions that wait and were ordered before it still count it. -/
def release (x : Nat → Released) (s : State) : State :=
  if s.work.decisions = [] then s
  else nextPlaceNo { s with work.released := s.work.released ++ [x s.work.orderNo] }

/-- The graphs of a polder are released. -/
def releaseGraphs (p : Nat) (x : Polder) (gs : List Graph) (s : State) : State :=
  gs.foldl (fun st g => release (fun n => ⟨n, p, x.cls, some g, (0, 0, 0)⟩) st) s

/-- What a decision of a place in the order still counts. -/
def countedFor (s : State) (no : Nat) : List Released := s.work.released.filter fun r => no < r.no

/-- Releases that no waiting decision precedes are forgotten. -/
def dropReleased (s : State) : State :=
  { s with work.released := s.work.released.filter fun r => s.work.decisions.any fun d => d.no < r.no }

/-! ## Reset and destruction (R99, R100) -/

/-- The command belongs to the polder: issued on its function, or by PF0 for it. -/
def ofPolder (p : Nat) (c : Instr) : Bool :=
  match hdrOf c, opInfo c with
  | some h, some i => ownCommand i h p
  | _, _ => false

/-- Complete every command of a list that the pick chooses with ST_POLDER_RESET. -/
def endCommands (cs : List Instr) (s : State) : State :=
  cs.foldl (fun st c => finishCmd c .polderReset .none [] st) s

/-- Payload of a request's final completion: tokens output and tokens charged (R257). -/
def requestPayload (r : Request) : List Byte := le 4 r.tokens.length ++ le 4 r.charged

/-- End every request of a polder with ST_POLDER_RESET (R276). -/
def endRequests (p : Nat) (s : State) : State :=
  match getPolder s p with
  | some x => x.requests.foldl (fun st r => finishCmd r.cmd .polderReset .none (requestPayload r) st)
      (modPolder s p fun y => { y with requests := [] })
  | none => s

/-- Entries that no request references and whose creating polder is gone (creator 64) are dropped, and their frames go back
(R267). -/
def dropOrphans (s : State) : State :=
  let gone := s.work.pfx.filter fun e => e.creator = 64 && e.holders = []
  gone.foldl (fun st e => loosen e.tier ⟨e.frame, e.frames⟩ st)
    { s with work.pfx := s.work.pfx.filter fun e => !(e.creator = 64 && e.holders = []) }

/-- The requests of a polder let go of every entry; the entries that it created lose their creator (R265, R267). -/
def dropPrefixes (p : Nat) (s : State) : State :=
  dropOrphans { s with work.pfx := s.work.pfx.map fun e =>
    { e with holders := e.holders.filter fun h => h.1 ≠ p, creator := if e.creator = p then 64 else e.creator } }

/-- Frames that a polder holds, less those of entries that requests of other polders still read (R267). -/
def looseFrames (s : State) (p : Nat) : List (Nat × Extent) :=
  let es := s.work.pfx.filter (·.creator = 64)
  let own := es.foldl (fun sps e => sps.flatMap (cutSpan e.tier e.frame (e.frame + e.frames))) (s.mem.spans.filter (·.polder = p))
  own.map fun sp => (sp.tier, ⟨sp.base, sp.frames⟩)

/-- Commands of a polder that wait: queued for an edge, for a decision, for a rotation or for a codec picture. -/
def waitingOf (p : Nat) (s : State) : List Instr :=
  (s.tide.queued.filter fun q => ofPolder p q.cmd).map (·.cmd) ++
  (s.work.decisions.filter fun d => ofPolder p d.cmd).map (·.cmd) ++
  (match getPolder s p with
    | some x => (x.rotation.map fun r => [r.cmd]).getD [] ++ x.rotationsWaiting
    | none => []) ++
  (s.work.scrubs.filterMap fun j => if j.polder = p then j.cmd else none) ++
  (s.codec.queue.filterMap fun q =>
    match tget s.codec.sessions q.session, q.cmd with
    | some c, some k => if c.polder = p then some k else none
    | _, _ => none) ++
  ((getFunc s (.vf p)).signing.map fun o => [o.cmd]).getD []

/-- Forget everything of a polder that waits. -/
def forgetWaiting (p : Nat) (s : State) : State :=
  let dead := (s.codec.sessions.filter fun c => c.2.polder = p).map (·.1)
  { s with
    tide.queued := s.tide.queued.filter fun q => !ofPolder p q.cmd
    work.decisions := s.work.decisions.filter fun d => !ofPolder p d.cmd
    work.scrubs := s.work.scrubs.map fun j => if j.polder = p then { j with cmd := none } else j
    codec.queue := s.codec.queue.filter fun q => q.session ∉ dead
    codec.sessions := s.codec.sessions.filter fun c => c.2.polder ≠ p
    work.binds := s.work.binds.filter fun b => b.polder ≠ p
    tide.waiting := s.tide.waiting.filter fun w => w.consumer.polder ≠ p
    host.funcs := tmod s.host.funcs (fnKey (.vf p)) fun f => { f with signing := none }
    work.results := s.work.results.filter fun r => r.1 ≠ p }

/-- The polder as POLDER_CREATE left it, being scrubbed. -/
def blankPolder (destroy : Bool) (x : Polder) : Polder :=
  { cls := x.cls, sluices := x.sluices, bwWeight := x.bwWeight, sramQuota := x.sramQuota, hbmQuota := x.hbmQuota,
    spillQuota := x.spillQuota, createdGen := x.createdGen, keyGen := x.keyGen, prevGen := x.prevGen, resetting := true,
    destroying := destroy || x.destroying }

/-- A STOP_INTERFACE_REQUEST waits for the polder's scrub that is already running (R435). -/
def awaitScrub (p : Nat) (tdisp : Bool) (s : State) : State :=
  { s with work.scrubs := s.work.scrubs.map fun j =>
      if j.polder = p && j.kind ≠ .frames then { j with tdisp := j.tdisp || tdisp } else j }

/-- Reset or destroy a polder at its applying edge: every run, request and command of it ends with
ST_POLDER_RESET, its graphs, bindings, pages and lines go, a sweep of it stops, and the scrub of its frames begins (R99, R100,
R186). A polder that is being reset or destroyed meets a further reset with nothing left to end; only a destruction takes the
place of a reset. -/
def resetPolder (p : Nat) (destroy : Bool) (cmd : Option Instr) (tdisp : Bool) (s : State) : State :=
  match getPolder s p with
  | none => s
  | some x =>
    if x.resetting && (!destroy || x.destroying) then awaitScrub p tdisp s
    else
    let cs := waitingOf p s
    let s := (runNumbers s p).foldl (fun st r => endRun p r .polderReset .none false st) s
    let s := endRequests p s
    let s := endCommands cs (forgetWaiting p s)
    let s := clearLines p (dropPrefixes p s)
    let s := releaseGraphs p x (x.graphs.map (·.2)) (modPolder s p (blankPolder destroy))
    let s := if destroy then release (fun n => ⟨n, p, x.cls, none, (sramCount x, x.hbmQuota, x.spillQuota)⟩) s else s
    let waits := tdisp || s.work.scrubs.any fun j => j.polder = p && j.tdisp
    startScrub p (if destroy then .destroy else .reset) cmd waits (looseFrames s p)
      { s with work.scrubs := s.work.scrubs.filter fun j => j.polder ≠ p || j.kind = .frames }

/-- A polder that a fault has lost is reset, and the log names it (R333). -/
def losePolder (p : Nat) (s : State) : State :=
  resetPolder p false none false (recordBreach 0x14 0 p 255 255 0 0 s)

/-- POLDER_RESET (R99). -/
def applyPolderReset (c : Instr) (h : Hdr) (s : State) : State := resetPolder (polderOf h) false (some c) false s

/-- POLDER_DESTROY (R100). One of a polder that does not exist, or that is being destroyed, gives WRONG_POLDER, for which R100 names no
outcome (DESIGN CHOICE, assumption log 68). -/
def applyPolderDestroy (c : Instr) (h : Hdr) (s : State) : State :=
  match getPolder s h.polder with
  | some x =>
    if x.destroying then finish h .notPermitted .wrongPolder [] s
    else resetPolder h.polder true (some c) false s
  | none => finish h .notPermitted .wrongPolder [] s

/-- The end of a polder's destruction: the polder and its function's sluices are gone, and its TDI is in
CONFIG_UNLOCKED (R100, R443). -/
def removePolder (p : Nat) (s : State) : State :=
  let s := vacate (looseFrames s p) s
  let orphan (sp : Span) : Span := if sp.polder = p then { sp with polder := 64 } else sp
  let s := { s with mem.spans := s.mem.spans.map orphan }
  setTdi
    { s with work.polders := tdel s.work.polders p,
             host.sluices := s.host.sluices.filter fun e => !(16 * (2 + p) ≤ e.1 && e.1 < 16 * (2 + p) + 16) } p 0

/-- The end of a polder's reset: its previous key generation is retired (R186). -/
def endReset (p : Nat) (s : State) : State :=
  modPolder s p fun x => { x with resetting := false, prevGen := none, rotation := none, rotationsWaiting := [] }

/-! ## Creation (R70 to R72, R432, R438, R459) -/

def classOfCode : Nat → Class
  | 0 => .S
  | 1 => .Q
  | _ => .B

/-- An activation blocks loads and creations from its applying edge to the relaunch edge (R459). -/
def activationBlocks (s : State) : Bool := s.startup.activation.any fun a => a.stage < 3

/-- Checks of POLDER_CREATE at its edge that need no wait (R70, R71, R432, R438, R459). -/
def createFault (s : State) (h : Hdr) : Option (Status × Reason) :=
  let p := h.polder
  if s.ident.debugOpen then some (.notPermitted, .lifecycle)
  else if activationBlocks s then some (.notPermitted, .none)
  else if !fnEnabled s (.vf p) || (getPolder s p).isSome then some (.badParam, .fieldRange)
  else if 65535 ≤ keyCounter s p then some (.notPermitted, .counterExhausted)
  else none

/-- Make the polder: its key counter advances, and it starts with that generation (R432). -/
def makePolder (h : Hdr) (cls sluices bw sram hbm spill : Nat) (s : State) : State :=
  let g := keyCounter s h.polder + 1
  let x : Polder :=
    { cls := classOfCode cls, sluices := sluices, bwWeight := bw, sramQuota := sram, hbmQuota := hbm,
      spillQuota := spill, createdGen := g, keyGen := g }
  finish h .ok .none [] (setPolder (setCounter s h.polder g) h.polder x)

/-- Queue a command for a placement decision, in the order of R86. -/
def awaitDecision (c : Instr) (s : State) : State :=
  nextPlaceNo { s with work.decisions := s.work.decisions ++ [(⟨c, s.tide.ix, s.work.orderNo⟩ : Decision)] }

/-- POLDER_CREATE at its edge: the checks, then the decision (R74). -/
def applyPolderCreate (c : Instr) (h : Hdr) (s : State) : State :=
  match createFault s h with
  | some (st, r) => finish h st r [] s
  | none => awaitDecision c s

/-! ## Other polder commands -/

/-- POLDER_QUERY (R119). -/
def queryPolder (h : Hdr) (s : State) : State :=
  let p := polderOf h
  match getPolder s p with
  | some x =>
    finish h .ok .none
      (le 1 (classCode x.cls) ++ le 1 x.sluices ++ le 1 x.graphs.length ++ le 1 x.runs.length ++
        le 2 ((sramUse x + 1048575) / 1048576) ++ le 2 ((hbmUse s p x + kvTables x + kvResident s p x + 65535) / 65536) ++
        le 2 ((spillUse x + kvSpilled s p x + 262143) / 262144) ++ le 1 (x.keyGen % 256)) s
  | none => finish h .notPermitted .wrongPolder [] s

/-- SET_TOKEN_BUDGET (R258, R259). -/
def applySetTokenBudget (h : Hdr) (refill burst : Nat) (s : State) : State :=
  match getPolder s h.polder with
  | none => finish h .notPermitted .wrongPolder [] s
  | some x =>
    let b : Option Budget :=
      if refill = 0 && burst = 0 then none
      else match x.budget with
        | some o => some ⟨refill, burst, min o.level (4000 * burst)⟩
        | none => some ⟨refill, burst, 4000 * burst⟩
    finish h .ok .none [] (setPolder s h.polder { x with budget := b })

/-- The refill of every budget at an edge (R259). -/
def refillBudgets (s : State) : State :=
  { s with work.polders := s.work.polders.map fun q =>
      (q.1, { q.2 with budget := q.2.budget.map fun b =>
        { b with level := min (b.level + b.refill * s.tide.periodQ) (4000 * b.burst) } }) }

/-- COMMONS_JOIN (R268). -/
def applyCommonsJoin (h : Hdr) (group : Nat) (s : State) : State :=
  match getPolder s h.polder with
  | some x => finish h .ok .none [] (setPolder s h.polder { x with group := group })
  | none => finish h .notPermitted .wrongPolder [] s

/-! ## Memory-key rotation (R182 to R186, R432) -/

/-- Start a rotation: the counter advances, the new generation goes into the current slot and the old one into the previous
slot, and the sweep starts (R182). -/
def startRotation (p : Nat) (c : Instr) (s : State) : State :=
  let g := keyCounter s p + 1
  modPolder (setCounter s p g) p fun x =>
    { x with keyGen := g, prevGen := some x.keyGen, rotation := some { cmd := c } }

/-- KEY_ROTATE with KEY 0 at its edge. -/
def applyKeyRotateMemory (c : Instr) (h : Hdr) (s : State) : State :=
  let p := polderOf h
  match getPolder s p with
  | none => finish h .notPermitted .wrongPolder [] s
  | some x =>
    if 65535 < keyCounter s p + x.rotationsWaiting.length + 1 then finish h .notPermitted .counterExhausted [] s
    else if x.rotation.isSome then setPolder s p { x with rotationsWaiting := x.rotationsWaiting ++ [c] }
    else startRotation p c s

/-- At an edge, retire the previous generation of a polder whose sweep has passed its last page, and start the
next waiting rotation (R184, R185). -/
def retireRotation (p : Nat) (s : State) : State :=
  match getPolder s p with
  | some x => match x.rotation with
    | some r =>
      if r.swept then
        let s := finishCmd r.cmd .ok .none (le 2 x.keyGen) (setPolder s p { x with rotation := none, prevGen := none })
        match x.rotationsWaiting with
        | c :: rest => startRotation p c (modPolder s p fun y => { y with rotationsWaiting := rest })
        | [] => s
      else s
    | none => s
  | none => s

def retireRotations (s : State) : State := (polderNumbers s).foldl (fun st p => retireRotation p st) s

/-! ## Meanings -/

def execPolderCreate (h : Hdr) (cls sluices bwWeight sramMiB hbmUnits spillGiB : Nat) (s : State) :
    Host.Outcome State Fault Refusal :=
  fetched (.polderCreate h cls sluices bwWeight sramMiB hbmUnits spillGiB) h id s

def execPolderDestroy (h : Hdr) (s : State) : Host.Outcome State Fault Refusal := fetched (.polderDestroy h) h id s
def execPolderReset (h : Hdr) (s : State) : Host.Outcome State Fault Refusal := fetched (.polderReset h) h id s
def execPolderQuery (h : Hdr) (s : State) : Host.Outcome State Fault Refusal := fetched (.polderQuery h) h (queryPolder h) s

def execSetTokenBudget (h : Hdr) (refill burst : Nat) (s : State) : Host.Outcome State Fault Refusal :=
  fetched (.setTokenBudget h refill burst) h id s

def execCommonsJoin (h : Hdr) (group : Nat) (s : State) : Host.Outcome State Fault Refusal :=
  fetched (.commonsJoin h group) h id s

def execKeyRotateMemory (h : Hdr) (s : State) : Host.Outcome State Fault Refusal := fetched (.keyRotateMemory h) h id s

/-- KEY_SWEEP_DONE: the sweep has passed the polder's last page (R184). -/
def execKeySweepDone (p : Nat) (s : State) : Host.Outcome State Fault Refusal :=
  .next (if mainUp s then sweepOn p (tierFrames 1 + tierFrames 2) s else s)

/-- A function-level reset of a virtual function resets its polder, with the tide of its arrival as intake,
and moves its TDI to ERROR (R99, R434). A reset of a polder that is being scrubbed changes nothing more. R58 gives it no place
in the merge order; the model's tag has rank 1, source 16p + 15 and SEQ 0xFFFFFFFF, after the polder's commands of the tide
(DESIGN CHOICE, assumption log 68). -/
def execVfFunctionLevelReset (p : Nat) (s : State) : Host.Outcome State Fault Refusal :=
  .next (
    let s := if getTdi s p = 0 then s else setTdi s p 3
    match getPolder s p with
    | some _ =>
      { s with tide.queued := s.tide.queued ++
          [(⟨.vfFunctionLevelReset p, s.tide.ix, s.tide.ix + 1,
            ⟨epochOf s.tide.count, tnOf s.tide.count, 1, s.flash.index.getD 0, 16 * p + 15, 0xFFFFFFFF⟩⟩ : Queued)] }
    | none => s)

/-- SCRUB_PENDING: a create or load that has waited 2 s for a scrub ends (R121). It takes the place of the
decision while the command is still undecided and a scrub runs. -/
def execScrubPending (fn : Fn) (sluice : Nat) (seq : Word) (s : State) : Host.Outcome State Fault Refusal :=
  .next (
    let hit (d : Decision) : Bool := (hdrOf d.cmd).any fun h => h.fn = fn && h.sluice = sluice && h.seq = seq
    match s.work.decisions.find? hit with
    | some d =>
      if s.work.scrubs = [] then s
      else finishCmd d.cmd .quota .scrubPending []
        (dropReleased { s with work.decisions := s.work.decisions.filter fun e => !hit e })
    | none => s)

end Sys2Proof.Machine
end

