-- ==== Sys2Proof/Machine/Arith.lean ====
section
/-! DEFINITION. Machine/Arith.lean: number formats, conversions, packing, residues and the aligned-integer dot product with the
residues that it carries (R135 to R158). A value is NaN, a signed infinity, or a sign, a significand m and an exponent e with
the value (-1)^sign * m * 2^e. -/

namespace Sys2Proof.Machine

/-- An element's value. -/
inductive Val where
  | nan
  | inf (neg : Bool)
  | fin (neg : Bool) (m : Nat) (e : Int)
deriving DecidableEq, Repr

/-! ## Formats (R135, R136) -/

/-- Storage bits of a format code. -/
def formatBits : Nat → Nat
  | 0 => 4
  | 1 => 8
  | 2 => 16
  | 3 => 32
  | 4 => 4
  | 5 => 6
  | 6 => 6
  | 7 => 8
  | 8 => 8
  | 9 => 16
  | 10 => 16
  | 11 => 32
  | _ => 8

def formatCode (f : Nat) : Nat := f % 16
def blockKind (f : Nat) : Nat := f / 16 % 4

/-- The code names an integer format. -/
def isInt (c : Nat) : Bool := c ≤ 3

/-- Exponent bits, mantissa bits and bias of a floating-point format (R136). -/
def fpShape : Nat → Nat × Nat × Nat
  | 4 => (2, 1, 1)
  | 5 => (2, 3, 1)
  | 6 => (3, 2, 3)
  | 7 => (4, 3, 7)
  | 8 => (5, 2, 15)
  | 9 => (8, 7, 127)
  | 10 => (5, 10, 15)
  | _ => (8, 23, 127)

/-- The format has an infinity (R136). -/
def hasInf (c : Nat) : Bool := 8 ≤ c && c ≤ 11

/-- Encoding of the largest finite magnitude. -/
def largest : Nat → Nat
  | 4 => 0x7
  | 5 => 0x1F
  | 6 => 0x1F
  | 7 => 0x7E
  | 8 => 0x7B
  | 9 => 0x7F7F
  | 10 => 0x7BFF
  | _ => 0x7F7FFFFF

/-- Canonical NaN of a format, where it has one (R137). -/
def canonicalNan : Nat → Option Nat
  | 7 => some 0x7F
  | 8 => some 0x7E
  | 9 => some 0x7FC0
  | 10 => some 0x7E00
  | 11 => some 0x7FC00000
  | 12 => some 0xFF
  | _ => none

/-- The format may stand on the drain (R135). -/
def drains (c : Nat) : Bool := c = 3 || (7 ≤ c && c ≤ 11)

/-- A format byte that R135 reserves: code above 0xC, block kind 3, bits [7:6], or a kind its row disallows
(of bits [7:6] R135 says only that they are reserved: DESIGN CHOICE, assumption log 68). -/
def formatReserved (f : Nat) : Bool :=
  let c := formatCode f
  let k := blockKind f
  12 < c || 64 ≤ f || k = 3 || (k = 1 && !(c = 1 || (4 ≤ c && c ≤ 8))) || (k = 2 && !(c ≤ 1 || (4 ≤ c && c ≤ 8)))

/-- Decode a two's-complement integer of n bits. -/
def decodeInt (n x : Nat) : Val :=
  let y := x % 2 ^ n
  if 2 ^ (n - 1) ≤ y then .fin true (2 ^ n - y) 0 else .fin false y 0

/-- Decode an element of a format (R136, R137, R139, R143). -/
def decodeElem (c x : Nat) : Val :=
  if isInt c then decodeInt (formatBits c) x
  else
    let (eb, mb, bias) := fpShape c
    let neg := x / 2 ^ (eb + mb) % 2 = 1
    let ex := x / 2 ^ mb % 2 ^ eb
    let f := x % 2 ^ mb
    if hasInf c && ex = 2 ^ eb - 1 then (if f = 0 then .inf neg else .nan)
    else if c = 7 && ex = 15 && f = 7 then .nan
    else if ex = 0 then .fin neg f (1 - (bias : Int) - mb)
    else .fin neg (2 ^ mb + f) ((ex : Int) - bias - mb)

/-- The further factor of integer block elements (R141). -/
def blockFactor (c : Nat) : Int := if c = 1 then -6 else if c = 0 then -2 else 0

/-- The value of one element with its block scale X (R141). -/
def elemValue (format x scale : Nat) : Val :=
  let c := formatCode format
  if blockKind format = 0 then decodeElem c x
  else if scale = 255 then .nan
  else match decodeElem c x with
    | .fin n m e => .fin n m (e + (scale : Int) - 127 + blockFactor c)
    | v => v

/-! ## Conversion (R153) -/

/-- m * 2^e rounded to a whole number of units 2^u, to nearest, ties to even. -/
def roundUnits (m : Nat) (e u : Int) : Nat :=
  if u ≤ e then m * 2 ^ (e - u).toNat
  else
    let d := 2 ^ (u - e).toNat
    let q := m / d
    let r := m % d
    if d < 2 * r || (2 * r = d && q % 2 = 1) then q + 1 else q

/-- The code of m * 2^e in a floating-point format, before its sign, and whether it saturated. -/
def encodeMag (c m : Nat) (e : Int) : Nat × Bool :=
  let (_, mb, bias) := fpShape c
  if m = 0 then (0, false)
  else
    let emin : Int := 1 - bias - mb
    let u := max ((Nat.log2 m : Int) + e - mb) emin
    let n := roundUnits m e u
    let code := if n < 2 ^ mb then n else ((u - emin).toNat + 1) * 2 ^ mb + (n - 2 ^ mb)
    if code ≤ largest c then (code, false)
    else if hasInf c then (largest c + 1, false)
    else (largest c, true)

/-- Convert a value into a format: its code, and 1 where it counts in ARITH_EXC (R137, R153). -/
def convertTo (c : Nat) (v : Val) : Nat × Nat :=
  if isInt c then
    let n := formatBits c
    match v with
    | .nan => (0, 1)
    | .inf neg => (if neg then 2 ^ (n - 1) else 2 ^ (n - 1) - 1, 1)
    | .fin neg m e =>
      let q := roundUnits m e 0
      if neg then (if 2 ^ (n - 1) < q then (2 ^ (n - 1), 1) else ((2 ^ n - q) % 2 ^ n, 0))
      else if 2 ^ (n - 1) ≤ q then (2 ^ (n - 1) - 1, 1) else (q, 0)
  else
    let (eb, mb, _) := fpShape c
    let sign (neg : Bool) : Nat := if neg then 2 ^ (eb + mb) else 0
    match v with
    | .nan => match canonicalNan c with
      | some k => (k, 0)
      | none => (0, 1)
    | .inf neg => if hasInf c then (sign neg + (largest c + 1), 0) else (sign neg + largest c, 1)
    | .fin neg m e => let (k, sat) := encodeMag c m e; (sign neg + k, bit sat)

/-- Stochastic rounding of a magnitude (R154): a 16-bit number added directly below the least significant bit
of the output, and everything below discarded. -/
def stochasticMag (c : Nat) (m : Nat) (e : Int) (r : BitVec 16) : Nat × Int :=
  let (_, mb, bias) := fpShape c
  let u := if isInt c then 0 else max ((Nat.log2 m : Int) + e - mb) (1 - (bias : Int) - mb)
  let low := u - 16
  let whole := if low ≤ e then m * 2 ^ (e - low).toNat else m / 2 ^ (low - e).toNat
  ((whole + r.toNat) / 65536, u)

/-- Convert with stochastic rounding, of a finite value (R154). -/
def convertStochastic (c : Nat) (v : Val) (r : BitVec 16) : Nat × Nat :=
  match v with
  | .fin neg m e => if m = 0 then convertTo c v else let (k, u) := stochasticMag c m e r; convertTo c (.fin neg k u)
  | _ => convertTo c v

/-- Convert under R153, or under R154 where random bits are given. -/
def convertBy (rand : Option (BitVec 16)) (c : Nat) (v : Val) : Nat × Nat :=
  match rand with
  | some r => convertStochastic c v r
  | none => convertTo c v

/-- The drain format of an output (R153). -/
def drainFormat (bothInt : Bool) (c : Nat) : Nat := if drains c then c else if bothInt then 3 else 11

/-- Drain a value and convert it to its output format; an exact integer result is only saturated, at the drain and at the
conversion (R153). Stochastic rounding takes the place of the last rounding (R154). -/
def drainOut (rand : Option (BitVec 16)) (bothInt : Bool) (c : Nat) (v : Val) : Nat × Nat :=
  let d := drainFormat bothInt c
  if d = c then convertBy rand c v
  else
    let (k, x) := convertTo d v
    let (k2, x2) := convertBy rand c (decodeElem d k)
    (k2, x + x2)

/-! ## Residues (R155) -/

/-- r(x) = x mod 127. -/
def residue (x : Int) : Nat := (x % 127).toNat

/-- The residue of a 48-bit window, from its unsigned reading. -/
def windowResidue (a : Int) : Nat :=
  if a < 0 then ((((281474976710656 + a) % 127 - 64) % 127).toNat) else residue a

/-- The expected residue of an aligned product (R156). -/
def alignedResidue (neg : Bool) (m : Nat) (shift : Int) : Nat :=
  let rp := residue (if neg then -(m : Int) else m)
  if 0 ≤ shift then rp * 2 ^ (shift.toNat % 7) % 127
  else
    let n := (-shift).toNat
    let dropped := m % 2 ^ n
    let rt := residue (if neg then -(dropped : Int) else dropped)
    ((rp + 127 - rt) * 2 ^ ((7 - n % 7) % 7)) % 127

/-! ## The aligned-integer dot product (R143 to R149) -/

/-- Limbs of a significand, lowest first (R143). -/
def limbs (c m : Nat) : List Nat :=
  if c = 2 || c = 10 then [m % 256, m / 256]
  else if c = 11 then [m % 256, m / 256 % 256, m / 65536]
  else [m]

def limbCount (c : Nat) : Nat := if c = 2 || c = 10 then 2 else if c = 11 then 3 else 1

/-- The passes of a product in the order of R145: descending sum of the limb indices, and among equal sums the
higher limb of the first operand first. -/
def passes (na nb : Nat) : List (Nat × Nat) :=
  (List.range (na + nb - 1)).reverse.flatMap fun t =>
    (List.range na).reverse.filterMap fun i => if i ≤ t && t - i < nb then some (i, t - i) else none

/-- Chunk length C and span S_C of R144. -/
def chunkLength (fa fb : Nat) : Nat := if blockKind fa = 2 || blockKind fb = 2 then 16 else 32
def chunkSpan (fa fb : Nat) (sparse : Bool) : Nat :=
  let four := formatBits (formatCode fa) = 4 && formatBits (formatCode fb) = 4
  chunkLength fa fb * (if four then 2 else 1) * (if sparse then 2 else 1)

/-- One product of a pass: its sign, magnitude and exponent; none when a limb is zero or an operand special. -/
def limbProduct (ca cb i j : Nat) (a b : Val) : Option (Bool × Nat × Int) :=
  match a, b with
  | .fin na ma ea, .fin nb mb eb =>
    let x := (limbs ca ma).getD i 0
    let y := (limbs cb mb).getD j 0
    if x = 0 || y = 0 then none else some (na != nb, x * y, ea + 8 * i + eb + 8 * j)
  | _, _ => none

/-- A magnitude shifted by n, to the right truncating. -/
def shiftMag (m : Nat) (n : Int) : Nat := if 0 ≤ n then m * 2 ^ n.toNat else m / 2 ^ (-n).toNat

/-- An integer shifted by n, to the right toward minus infinity. -/
def shiftInt (a : Int) (n : Int) : Int := if 0 ≤ n then a * 2 ^ n.toNat else a / 2 ^ (-n).toNat

/-- The residue of a signed word after a shift by n, from its residue before and the dropped part (R156). -/
def shiftResidue (a : Int) (r : Nat) (n : Int) : Nat :=
  if 0 ≤ n then r * 2 ^ (n.toNat % 7) % 127
  else
    let k := (-n).toNat
    (r + 127 - residue (a % 2 ^ k)) * 2 ^ ((7 - k % 7) % 7) % 127

/-- A window shifted up by n: its value, its exponent and its expected residue. -/
def slideUp (w : Window) (n : Nat) : Window := ⟨shiftInt w.a (-(n : Int)), w.e + n, shiftResidue w.a w.r (-(n : Int))⟩

/-- Slide the window up while the sum outgrows it. -/
def slideGrow : Nat → Window → Window
  | 0, w => w
  | f + 1, w => if 140737488355328 ≤ w.a || w.a < -140737488355328 then slideGrow f (slideUp w 1) else w

/-- add_chunk of R145 for a sum with its exponent and its expected residue; the window is none until the first chunk. -/
def addChunk (w : Option Window) (sum ec : Int) (r : Nat) : Option Window :=
  let w := w.getD ⟨0, ec - 8, 0⟩
  let w := if w.e < ec - 8 then slideUp w (ec - 8 - w.e).toNat else w
  some (slideGrow 64 ⟨w.a + shiftInt sum (ec - w.e), w.e, (w.r + shiftResidue sum r (ec - w.e)) % 127⟩)

/-- The chunk sum S with its exponent Emax - 8 and its expected residue; none for an empty chunk. -/
def chunkSum (ps : List (Bool × Nat × Int)) : Option (Int × Int × Nat) :=
  match ps with
  | [] => none
  | p :: r =>
    let emax := r.foldl (fun a q => max a q.2.2) p.2.2
    some ((p :: r).foldl (fun (a : Int) q =>
      let k : Int := shiftMag q.2.1 (q.2.2 - emax + 8)
      if q.1 then a - k else a + k) 0, emax - 8,
      ((p :: r).map fun q => alignedResidue q.1 q.2.1 (q.2.2 - emax + 8)).sum % 127)

/-- Cut a list into chunks of n, with fuel. -/
def chunksOf {α : Type} (n : Nat) : Nat → List α → List (List α)
  | 0, _ => []
  | _ + 1, [] => []
  | f + 1, l => l.take n :: chunksOf n f (l.drop n)

/-- Logical positions of K, in whole chunks of the span. -/
def cutChunks {α : Type} (span : Nat) (ab : List α) : List (List α) := chunksOf (max span 1) (ab.length + 1) ab

/-- dot_share of R145 over the chunks of one column, the first operand being the stationary one. -/
def dotShare (fa fb : Nat) (chunks : List (List (Val × Val))) : Option Window :=
  let ca := formatCode fa
  let cb := formatCode fb
  (passes (limbCount ca) (limbCount cb)).foldl (fun w p =>
    chunks.foldl (fun w ch =>
      match chunkSum (ch.filterMap fun q => limbProduct ca cb p.1 p.2 q.1 q.2) with
      | some (x, ec, r) => addChunk w x ec r
      | none => w) w) none

/-- Add another tile's share into the receiving tile's window: S = A at Ec = EA, with its residue (R148). -/
def addShare (w share : Option Window) : Option Window :=
  match share with
  | none => w
  | some x => addChunk w x.a x.e x.r

/-- The window of a reduction that the placement splits across tiles: the first share, as its first chunk and its number of
chunks, is the receiving tile's own, and the others are added in their order (R148). No share: one tile holds it all. -/
def dotWindow (fa fb : Nat) (shares : List (Nat × Nat)) (chunks : List (List (Val × Val))) : Option Window :=
  let part (k : Nat × Nat) : Option Window := dotShare fa fb ((chunks.drop k.1).take k.2)
  match shares with
  | [] => dotShare fa fb chunks
  | own :: rest => rest.foldl (fun w k => addShare w (part k)) (part own)

/-- The special value of a product (R149): NaN, an infinity, or nothing special. -/
def productSpecial (a b : Val) : Option Val :=
  match a, b with
  | .nan, _ => some .nan
  | _, .nan => some .nan
  | .inf n, .inf k => some (.inf (n != k))
  | .inf n, .fin k m _ => if m = 0 then some .nan else some (.inf (n != k))
  | .fin n m _, .inf k => if m = 0 then some .nan else some (.inf (n != k))
  | .fin _ _ _, .fin _ _ _ => none

/-- The special value of a whole reduction (R149). -/
def dotSpecial (ab : List (Val × Val)) : Option Val :=
  ab.foldl (fun acc q =>
    match acc, productSpecial q.1 q.2 with
    | some .nan, _ => some .nan
    | _, some .nan => some .nan
    | some (.inf a), some (.inf b) => if a = b then some (.inf a) else some .nan
    | none, some v => some v
    | x, _ => x) none

/-- The value of a window. -/
def windowVal (w : Option Window) : Val :=
  match w with
  | some x => .fin (decide (x.a < 0)) x.a.natAbs x.e
  | none => .fin false 0 0

/-- The value of one output: special values first, then the window. -/
def dotValue (fa fb : Nat) (shares : List (Nat × Nat)) (chunks : List (List (Val × Val))) : Val :=
  match dotSpecial chunks.flatten with
  | some v => v
  | none => windowVal (dotWindow fa fb shares chunks)

/-- The four logical positions of each metadata group: the kept elements at theirs (R151). -/
def expandSparse {α : Type} (groups : List (Nat × Nat)) (kept : List α) : List (Option α) :=
  match groups, kept with
  | (p, q) :: r, x :: y :: t =>
    ((List.range 4).map fun i => if i = p then some x else if i = q then some y else none) ++ expandSparse r t
  | _, _ => []

def zeroVal : Val := .fin false 0 0

/-- Elements of a block. -/
def blockSize (format : Nat) : Nat := if blockKind format = 1 then 32 else if blockKind format = 2 then 16 else 1

/-- The scale of a position of an operand whose blocks start afresh at every `row` positions (R141, R208). -/
def scaleAt (v : Vec) (row k : Nat) : Nat :=
  let n := blockSize v.format
  let row := max row 1
  v.scales.getD (k / row * ((row + n - 1) / n) + k % row / n) 127

/-- The elements at the logical positions of K, each under the scale of its position's block; none where a sparse operand
keeps no element, so that no product is formed (R141, R151, R152). -/
def rowVals (row : Nat) (v : Vec) : List (Option Val) :=
  let kept := if v.groups = [] then v.elems.map some else expandSparse v.groups v.elems
  kept.mapIdx fun k x => x.map fun c => elemValue v.format c (scaleAt v row k)

def vecVals (v : Vec) : List (Option Val) := rowVals (4 * v.groups.length + v.elems.length) v

/-- The pair of one position; a position without a product adds nothing. -/
def pairOf (a b : Option Val) : Val × Val :=
  match a, b with
  | some x, some y => (x, y)
  | _, _ => (zeroVal, zeroVal)

/-- Both operands are integers without a block kind (R144). -/
def bothInts (fa fb : Nat) : Bool :=
  isInt (formatCode fa) && isInt (formatCode fb) && blockKind fa = 0 && blockKind fb = 0

/-- The operation is 2:4 sparse. -/
def sparsePair (a b : Vec) : Bool := a.groups ≠ [] || b.groups ≠ []

/-- The chunks of one output of a matrix product, `a` stationary and `b` streamed. -/
def matmulChunks (a b : Vec) : List (List (Val × Val)) :=
  cutChunks (chunkSpan a.format b.format (sparsePair a b)) (((vecVals a).zip (vecVals b)).map fun q => pairOf q.1 q.2)

/-- The value of one output of a matrix product. -/
def matmulValue (a b : Vec) (shares : List (Nat × Nat)) : Val := dotValue a.format b.format shares (matmulChunks a b)

/-- Metadata of a sparse tensor packed two groups a byte, the lower group in bits [3:0] (R151). -/
def packMeta : List (Nat × Nat) → List Byte
  | a :: b :: r => BitVec.ofNat 8 (a.1 + 4 * a.2 + 16 * (b.1 + 4 * b.2)) :: packMeta r
  | [a] => [BitVec.ofNat 8 (a.1 + 4 * a.2)]
  | [] => []

end Sys2Proof.Machine
end

