-- ==== Sys2Proof/Machine/Reference.lean ====
section
/-! DEFINITION. Machine/Reference.lean: the exact results that the vector functions are measured against, in 192-bit binary
arithmetic (R161; assumption log 3). Its own error lies far below every bound that it serves. -/

namespace Sys2Proof.Machine

/-- m * 2^e. -/
structure Big where
  m : Int
  e : Int
deriving DecidableEq, Repr

/-- Keep 192 significant bits. -/
def bigNorm (x : Big) : Big :=
  let n := Nat.log2 x.m.natAbs
  if n ≤ 192 then x else ⟨shiftInt x.m (192 - (n : Int)), x.e + ((n : Int) - 192)⟩

def bigNat (n : Nat) : Big := ⟨n, 0⟩
def bigNeg (x : Big) : Big := ⟨-x.m, x.e⟩
def bigAdd (x y : Big) : Big :=
  let e := min x.e y.e
  bigNorm ⟨shiftInt x.m (x.e - e) + shiftInt y.m (y.e - e), e⟩
def bigSub (x y : Big) : Big := bigAdd x (bigNeg y)
def bigMul (x y : Big) : Big := bigNorm ⟨x.m * y.m, x.e + y.e⟩
def bigDiv (x y : Big) : Big := if y.m = 0 then ⟨0, 0⟩ else bigNorm ⟨shiftInt x.m 400 / y.m, x.e - 400 - y.e⟩
def bigLe (x y : Big) : Bool := (bigSub y x).m ≥ 0
def bigAbs (x : Big) : Big := ⟨x.m.natAbs, x.e⟩

/-- The whole part, toward minus infinity. -/
def bigFloor (x : Big) : Int := shiftInt x.m x.e

/-- A fraction of 2^192. -/
def bigFrac (n : Nat) : Big := ⟨n, -192⟩
def ln2Big : Big := bigFrac 4350955369971217654477563090224794165364344896676135745070
def rootTwoOverPi : Big := bigFrac 5008402561253905729789098622498677126536126712276965002674
def oneOverRootTwo : Big := bigFrac 4438581203289767414339175591698529914022621046959442208845
def twoOverRootPi : Big := bigFrac 7082950827949419406546779429796514218173736946937360083502

/-- Square root of a natural number by Newton's steps from above. -/
def rootFrom (n : Nat) : Nat → Nat → Nat
  | 0, x => x
  | f + 1, x => rootFrom n f (if x * x ≤ n then x else (x + n / max x 1) / 2)

def bigSqrt (x : Big) : Big :=
  if x.m ≤ 0 then ⟨0, 0⟩
  else
    let odd := x.e % 2
    let n := x.m.toNat * 2 ^ (400 + odd.toNat)
    ⟨rootFrom n 2000 (2 ^ (Nat.log2 n / 2 + 1)), (x.e - odd - 400) / 2⟩

/-- e^r for a small r, by its series. -/
def expSeries (r : Big) : Big :=
  ((List.range 60).foldl (fun (acc : Big × Big) k =>
    let t := bigDiv (bigMul acc.2 r) (bigNat (k + 1))
    (bigAdd acc.1 t, t)) (bigNat 1, bigNat 1)).1

/-- e^x, for x of magnitude below 2,000. -/
def bigExp (x : Big) : Big :=
  let k := bigFloor (bigDiv x ln2Big)
  let y := expSeries (bigSub x (bigMul ⟨k, 0⟩ ln2Big))
  ⟨y.m, y.e + k⟩

/-- The natural logarithm of a positive number. -/
def bigLn (x : Big) : Big :=
  let k : Int := (Nat.log2 x.m.natAbs : Int)
  let z : Big := ⟨x.m, -k⟩
  let y := bigDiv (bigSub z (bigNat 1)) (bigAdd z (bigNat 1))
  let sq := bigMul y y
  let sum := ((List.range 70).foldl (fun (acc : Big × Big) i =>
    (bigAdd acc.1 (bigDiv acc.2 (bigNat (2 * i + 1))), bigMul acc.2 sq)) (⟨0, 0⟩, y)).1
  bigAdd (bigMul ⟨k + x.e, 0⟩ ln2Big) ⟨2 * sum.m, sum.e⟩

/-- The error function; beyond 6 it is 1 within 2^-55. -/
def bigErf (x : Big) : Big :=
  if bigLe (bigNat 6) (bigAbs x) then ⟨if x.m < 0 then -1 else 1, 0⟩
  else
    let sq := bigMul x x
    let sum := ((List.range 200).foldl (fun (acc : Big × Big) n =>
      (bigAdd acc.1 (bigDiv acc.2 (bigNat (2 * n + 1))), bigNeg (bigDiv (bigMul acc.2 sq) (bigNat (n + 1))))) (⟨0, 0⟩, x)).1
    bigMul twoOverRootPi sum

/-- 1 / (1 + e^-x); beyond 1,000 it is 0 or 1. -/
def bigSigmoid (x : Big) : Big :=
  if bigLe (bigNat 1000) (bigAbs x) then ⟨if x.m < 0 then 0 else 1, 0⟩
  else bigDiv (bigNat 1) (bigAdd (bigNat 1) (bigExp (bigNeg x)))

/-- tanh x = 2 sigmoid(2x) - 1. -/
def bigTanh (x : Big) : Big := bigSub (bigMul (bigNat 2) (bigSigmoid (bigMul (bigNat 2) x))) (bigNat 1)

/-- x (1 + y) / 2. -/
def halfGate (x y : Big) : Big := bigMul ⟨x.m, x.e - 1⟩ (bigAdd (bigNat 1) y)

/-- The exact result of a function by its number (those of Machine/Vector.lean) on a finite number in its domain. -/
def exactFn (n : Nat) (x : Big) : Big :=
  match n with
  | 1 => bigExp (bigMul x ln2Big)
  | 2 => bigDiv (bigLn x) ln2Big
  | 3 => bigDiv (bigNat 1) x
  | 4 => bigDiv (bigNat 1) (bigSqrt x)
  | 5 => bigExp x
  | 6 => bigTanh x
  | 7 => bigSigmoid x
  | 8 => bigMul x (bigSigmoid x)
  | 9 => halfGate x (bigErf (bigMul x oneOverRootTwo))
  | _ => halfGate x (bigTanh (bigMul rootTwoOverPi (bigAdd x (bigMul (bigFrac 280680604097815430354917324058730803796016823699209303244)
      (bigMul x (bigMul x x))))))

/-- The number that a finite FP32 code stands for; none for NaN and the infinities. -/
def bigOf (w : Word) : Option Big :=
  match decodeElem 11 w.toNat with
  | .fin neg m e => some ⟨if neg then -(m : Int) else m, e⟩
  | _ => none

/-- The unit in the last place of an FP32 code. -/
def ulpOf (w : Word) : Big := ⟨1, (max 1 (w.toNat / 8388608 % 256) : Nat) - 150⟩

/-- The FP32 code nearest to a number. -/
def nearest32 (x : Big) : Word := BitVec.ofNat 32 (convertTo 11 (.fin (decide (x.m < 0)) x.m.natAbs x.e)).1

/-- A code lies within a bound of an exact result. -/
def withinBound (exact bound : Big) (w : Word) : Bool :=
  match bigOf w with
  | some y => bigLe (bigAbs (bigSub y exact)) bound
  | none => w = nearest32 exact

/-- A free result within a bound that may depend on the result: the free value where it lies within, else the nearest code. -/
def boundedWord (exact : Big) (bound : Word → Big) (free : Word) : Word :=
  if withinBound exact (bound free) free then free else nearest32 exact

/-- The accuracy of a function (R161): so many ulps, or an absolute bound where it is larger. -/
def fnBound (n : Nat) (w : Word) : Big :=
  let ulps : Nat := if n = 1 || n = 2 then 2 else if n = 3 || n = 4 then 1 else if n = 5 then 3 else 4
  let rel := bigMul (bigNat ulps) (ulpOf w)
  let least : Big := ⟨1, -24⟩
  if (n = 2 || 6 ≤ n) && bigLe rel least then least else rel

/-- The accuracy of a row's element: 2^-20 relative, or 2^-30 absolute (R161). -/
def rowBound (exact : Big) : Big :=
  let rel : Big := ⟨exact.m.natAbs, exact.e - 20⟩
  if bigLe rel ⟨1, -30⟩ then ⟨1, -30⟩ else rel

/-! ## Rows (R161) -/

def bigSum (xs : List Big) : Big := xs.foldl bigAdd ⟨0, 0⟩

def bigMax : List Big → Option Big
  | [] => none
  | x :: r => match bigMax r with
    | some b => if bigLe b x then some x else some b
    | none => some x

/-- e^x, and zero for a minus infinity (none) or far below. -/
def expAbove (top : Big) (x : Option Big) : Big :=
  match x with
  | some y => if bigLe (bigSub y top) ⟨-1000, 0⟩ then ⟨0, 0⟩ else bigExp (bigSub y top)
  | none => ⟨0, 0⟩

/-- Softmax of a row of finite numbers and minus infinities. -/
def exactSoftmax (row : List (Option Big)) : List Big :=
  let top := (bigMax (row.filterMap id)).getD ⟨0, 0⟩
  let es := row.map (expAbove top)
  let sum := bigSum es
  es.map fun e => bigDiv e sum

/-- Layer normalisation, or with `rms` RMS normalisation, of a row of finite numbers. -/
def exactNorm (rms : Bool) (epsilon : Big) (row : List Big) : List Big :=
  let n := bigNat (max row.length 1)
  let mean := if rms then ⟨0, 0⟩ else bigDiv (bigSum row) n
  let ds := row.map fun x => bigSub x mean
  let var := bigDiv (bigSum (ds.map fun d => bigMul d d)) n
  let root := bigSqrt (bigAdd var epsilon)
  ds.map fun d => bigDiv d root

end Sys2Proof.Machine
end

