-- ==== Sys2Proof/Machine/Vector.lean ====
section
/-! DEFINITION. Machine/Vector.lean: the vector unit, its functions within their accuracy, block quantisation, zero compression,
and what a quantum writes (R142, R153 to R162, R213). -/

namespace Sys2Proof.Machine

/-! ## The vector unit (R160, R161) -/

def val32 (w : Word) : Val := decodeElem 11 w.toNat

/-- Zero with the result's sign where an FP32 vector result lies below 2^-126 (R160). -/
def flush32 (code : Nat) : Nat := if code % 2147483648 < 8388608 then code / 2147483648 * 2147483648 else code

def word32 (v : Val) : Word := BitVec.ofNat 32 (flush32 (convertTo 11 v).1)

def nan32 : Word := 0x7FC00000

/-- A signed significand at an exponent. -/
def signedAt (neg : Bool) (m : Nat) (e target : Int) : Int :=
  let k : Int := m * 2 ^ (e - target).toNat
  if neg then -k else k

/-- The exact sum of two values; a zero sum is +0 unless both are negative. -/
def addVal : Val → Val → Val
  | .nan, _ => .nan
  | _, .nan => .nan
  | .inf a, .inf b => if a = b then .inf a else .nan
  | .inf a, .fin _ _ _ => .inf a
  | .fin _ _ _, .inf b => .inf b
  | .fin na ma ea, .fin nb mb eb =>
    let e := min ea eb
    let t := signedAt na ma ea e + signedAt nb mb eb e
    if t = 0 then .fin (na && nb) 0 0 else .fin (decide (t < 0)) t.natAbs e

/-- The exact product of two values. -/
def mulVal (a b : Val) : Val :=
  match productSpecial a b, a, b with
  | some v, _, _ => v
  | none, .fin na ma ea, .fin nb mb eb => .fin (na != nb) (ma * mb) (ea + eb)
  | none, _, _ => .nan

def negVal : Val → Val
  | .nan => .nan
  | .inf n => .inf (!n)
  | .fin n m e => .fin (!n) m e

def vadd (a b : Word) : Word := word32 (addVal (val32 a) (val32 b))
def vsub (a b : Word) : Word := word32 (addVal (val32 a) (negVal (val32 b)))
def vmul (a b : Word) : Word := word32 (mulVal (val32 a) (val32 b))
def vfma (a b c : Word) : Word := word32 (addVal (mulVal (val32 a) (val32 b)) (val32 c))

/-- a < b for two values that are not NaN. -/
def ltVal : Val → Val → Bool
  | .nan, _ => false
  | _, .nan => false
  | .inf a, .inf b => a && !b
  | .inf a, .fin _ _ _ => a
  | .fin _ _ _, .inf b => !b
  | .fin na ma ea, .fin nb mb eb =>
    let e := min ea eb
    decide (signedAt na ma ea e < signedAt nb mb eb e)

def vlt (a b : Word) : Bool := ltVal (val32 a) (val32 b)
def isNan (a : Word) : Bool := val32 a = .nan
def isFinite (a : Word) : Bool :=
  match val32 a with
  | .fin _ _ _ => true
  | _ => false
def vle (a b : Word) : Bool := !isNan a && !isNan b && !vlt b a

/-- An FP32 result as it is written: zero with its sign where it lies below 2^-126 (R160). -/
def flushed (w : Word) : Word := BitVec.ofNat 32 (flush32 w.toNat)

/-- Minimum and maximum: of a NaN and a number, NaN; of equal zeros, the first (IEEE 754 has more than one rule, and R161 names
none: DESIGN CHOICE, assumption log 68). -/
def vmin (a b : Word) : Word := if isNan a || isNan b then nan32 else flushed (if vlt b a then b else a)
def vmax (a b : Word) : Word := if isNan a || isNan b then nan32 else flushed (if vlt a b then b else a)

/-- The FP32 code of a natural number, rounded. -/
def ofNat32 (n : Nat) : Word := word32 (.fin false n 0)
def ofInt32 (n : Int) : Word := word32 (.fin (decide (n < 0)) n.natAbs 0)

/-- floor of a finite value. -/
def floorVal : Val → Int
  | .fin n m e => shiftInt (if n then -(m : Int) else m) e
  | _ => 0

/-! Functions by number: 1 exp2, 2 log2, 3 reciprocal, 4 reciprocal square root, 5 exp, 6 tanh, 7 sigmoid,
8 SiLU, 9 GELU in erf form, 10 GELU in tanh form. Their edge values are those of R161; everywhere else the
result is free within the accuracy of R161 (assumption log 3). -/

/-- The result of a function on a finite number of its domain: free within its accuracy, and written flushed. -/
def freeFn (n : Nat) (x : Word) : Word :=
  match bigOf x with
  | some y => flushed (boundedWord (exactFn n y) (fnBound n) (Config.vectorFn n x))
  | none => flushed (Config.vectorFn n x)

/-- The code is a zero of either sign. -/
def isZero (x : Word) : Bool := x = 0 || x = 0x80000000

/-- An activation whose exact result is nearest to a value at which it saturates takes that value: 1 and -1 for tanh, 1 and 0
for the sigmoid, x and 0 for SiLU and GELU. -/
def saturating (n : Nat) (x : Word) : Word :=
  match bigOf x with
  | none => if x.getLsbD 31 then (if n = 6 then 0xBF800000 else if n = 7 then 0 else 0x80000000)
      else (if n = 6 || n = 7 then 0x3F800000 else x)
  | some y =>
    let w := flushed (nearest32 (exactFn n y))
    let one := w = 0x3F800000 && vlt 0x3F800000 x
    if isZero w then w
    else if n = 6 then (if one || (w = 0xBF800000 && vlt x 0xBF800000) then w else freeFn n x)
    else if n = 7 then (if one then w else freeFn n x)
    else if w = x && vlt 0x3F800000 x then x
    else freeFn n x

/-- A vector function of one operand. -/
def vfun (n : Nat) (x : Word) : Word :=
  if isNan x then nan32
  else if n = 1 then
    if vlt x 0xC2FC0000 then 0 else if vle 0x43000000 x then 0x7F800000 else freeFn n x
  else if n = 2 then
    if isZero x then 0xFF800000
    else if x.getLsbD 31 then nan32
    else if x = 0x7F800000 then 0x7F800000 else freeFn n x
  else if n = 3 then
    if x = 0 then 0x7F800000 else if x = 0x80000000 then 0xFF800000
    else if x = 0x7F800000 then 0 else if x = 0xFF800000 then 0x80000000 else freeFn n x
  else if n = 4 then
    if x = 0 then 0x7F800000
    else if x = 0x80000000 || x = 0x7F800000 then flushed (Config.vectorFn n x)
    else if x.getLsbD 31 then nan32 else freeFn n x
  else if n = 5 then
    if vle x 0xC2AEAC50 then 0 else if vle 0x42B17218 x then 0x7F800000 else freeFn n x
  else saturating n x

def vexp (x : Word) : Word := vfun 5 x
def vrecip (x : Word) : Word := vfun 3 x
def vdiv (a b : Word) : Word := vmul a (vrecip b)

/-- The online-softmax rescale of R161 and R237: 0 where the factor lies below 2^-126. -/
def rescale (x : Word) : Word := if isNan x then nan32 else vexp x

/-- An FP32 operation of the vector unit by number: 20 add, 21 subtract, 22 multiply, 23 fused multiply-add,
24 minimum, 25 maximum, 26 compare (its result is free: assumption log 63), else a function of one operand. -/
def vectorOp (fn : Nat) (a b c : Word) : Word :=
  if fn = 20 then vadd a b
  else if fn = 21 then vsub a b
  else if fn = 22 then vmul a b
  else if fn = 23 then vfma a b c
  else if fn = 24 then vmin a b
  else if fn = 25 then vmax a b
  else if fn = 26 then Config.compareResult 11 a b
  else vfun fn a

/-- A result in BF16 or FP16: converted, and zero with its sign below the smallest normal (R160). -/
def lane16 (c : Nat) (v : Val) : Nat :=
  let k := (convertTo c v).1
  let least := if c = 9 then 128 else 1024
  if k % 32768 < least then k / 32768 * 32768 else k

/-- A 16-bit lane operation, with the width of its result; every other function widens its operand to FP32, exactly. -/
def vectorOp16 (c fn : Nat) (a b d : Word) : Nat × Nat :=
  let v (w : Word) : Val := decodeElem c (w.toNat % 65536)
  let x := v a
  let y := v b
  let pick (first : Bool) : Val := if x = .nan || y = .nan then .nan else if first then x else y
  if fn = 20 then (16, lane16 c (addVal x y))
  else if fn = 21 then (16, lane16 c (addVal x (negVal y)))
  else if fn = 22 then (16, lane16 c (mulVal x y))
  else if fn = 23 then (16, lane16 c (addVal (mulVal x y) (v d)))
  else if fn = 24 then (16, lane16 c (pick (!ltVal y x)))
  else if fn = 25 then (16, lane16 c (pick (!ltVal x y)))
  else if fn = 26 then (16, (Config.compareResult c a b).toNat % 65536)
  else (32, (vfun fn (BitVec.ofNat 32 (convertTo 11 x).1)).toNat)

/-- INT32 saturated. -/
def satInt (n : Int) : Nat := (max (-2147483648) (min 2147483647 n) % 4294967296).toNat

/-- An INT32 operation, exact and saturating: add, subtract, multiply, multiply-add, minimum, maximum, compare (R160). -/
def vectorOpInt (fn : Nat) (a b c : Word) : Nat :=
  let x := a.toInt
  let y := b.toInt
  if fn = 20 then satInt (x + y)
  else if fn = 21 then satInt (x - y)
  else if fn = 22 then satInt (x * y)
  else if fn = 23 then satInt (x * y + c.toInt)
  else if fn = 24 then satInt (min x y)
  else if fn = 25 then satInt (max x y)
  else if fn = 26 then (Config.compareResult 3 a b).toNat
  else a.toNat

/-- A vector operation in the format of its lanes (R160): the width of its result, and its code. -/
def vectorLane (fn format : Nat) (a b c : Word) : Nat × Nat :=
  if format = 9 || format = 10 then vectorOp16 format fn a b c
  else if format = 3 then (32, vectorOpInt fn a b c)
  else (32, (vectorOp fn a b c).toNat)

/-- A code of a row within the accuracy of its exact value. -/
def boundedRow (exact : List Big) (free : Nat → Word) : List Word :=
  exact.mapIdx fun i x => flushed (boundedWord x (fun _ => rowBound x) (free i))

/-- The finite numbers of a row; none where it holds an infinity. -/
def finiteRow (xs : List Word) : Option (List Big) := xs.mapM bigOf

/-- Softmax of a row within its accuracy; NaN where the exact result is NaN, and free for a row with a plus infinity (assumption
log 3). -/
def softmaxRow (xs : List Word) (free : Nat → Word) : List Word :=
  if xs.any isNan || xs.all (· = 0xFF800000) then xs.map fun _ => nan32
  else if xs.any (· = 0x7F800000) then xs.mapIdx fun i _ => flushed (free i)
  else boundedRow (exactSoftmax (xs.map bigOf)) free

/-- A row through softmax or a normalisation (R161): NaN where the exact result is NaN, else free within its accuracy. -/
def rowOp (fn : Nat) (xs : List Word) (epsilon : Word) : List Word :=
  if fn = 0 then softmaxRow xs (Config.rowFn fn epsilon xs)
  else if xs.any isNan then xs.map fun _ => nan32
  else match finiteRow xs, bigOf epsilon with
    | some row, some e => boundedRow (exactNorm (fn = 2) e row) (Config.rowFn fn epsilon xs)
    | _, _ => xs.mapIdx fun i _ => flushed (Config.rowFn fn epsilon xs i)

/-! ## Block quantisation (R142) -/

/-- emax of the element formats. -/
def emaxOf : Nat → Int
  | 7 => 8
  | 8 => 15
  | 5 => 2
  | 6 => 4
  | 4 => 2
  | _ => 0

/-- floor(log2) of a finite non-zero magnitude. -/
def floorLog (m : Nat) (e : Int) : Int := (Nat.log2 m : Int) + e

/-- The largest floor(log2) of the finite non-zero elements. -/
def topLog (vs : List Val) : Option Int :=
  vs.foldl (fun acc v =>
    match v with
    | .fin _ m e => if m = 0 then acc else some (max (acc.getD (floorLog m e)) (floorLog m e))
    | _ => acc) none

/-- The block scale X. -/
def blockScale (c : Nat) (vs : List Val) : Nat :=
  if vs.any (· = .nan) then 255
  else match topLog vs with
    | some k => (max 0 (min 254 (127 + k - emaxOf c))).toNat
    | none => if vs.any (fun v => match v with | .inf _ => true | _ => false) then 254 else 127

/-- Convert one element of a block, its value divided by the block scale. -/
def blockElem (c x : Nat) (v : Val) : Nat × Nat :=
  match v with
  | .fin n m e => let (k, q) := convertTo c (.fin n m (e - ((x : Int) - 127) - blockFactor c))
    if hasInf c && k % 2 ^ (formatBits c - 1) = largest c + 1 then (k - 1, 1) else (k, q)
  | v => convertTo c v

/-- Quantise one block of values: X, the element codes, and the ARITH_EXC count. -/
def quantiseBlock (format : Nat) (vs : List Val) : Nat × List Nat × Nat :=
  let c := formatCode format
  let x := blockScale c vs
  if x = 255 then (255, vs.map fun _ => 0, (vs.filter (· = .nan)).length)
  else
    let es := vs.map (blockElem c x)
    (x, es.map (·.1), (es.map (·.2)).sum)

/-! ## What an operator writes (R138, R153, R155) -/

/-- The result of a quantum's operator: element codes of so many bits, the block scales where it writes blocks, and the
increments of ARITH_EXC. -/
structure OpOut where
  bits : Nat
  codes : List Nat
  scales : List Nat := []
  exc : Nat := 0
deriving DecidableEq, Repr

/-- Bytes as they stand. -/
def bytesOut (bs : List Byte) (exc : Nat) : OpOut := { bits := 8, codes := bs.map (·.toNat), exc := exc }

def noOut : OpOut := { bits := 8, codes := [] }

/-- FP32 words as they stand. -/
def wordsOut (ws : List Word) : OpOut := { bits := 32, codes := ws.map (·.toNat) }

/-- A row of values quantised into a block format, the last block padded with zeros (R141, R142). -/
def blocksOut (format : Nat) (vs : List Val) (exc : Nat) : OpOut :=
  let n := blockSize format
  let padded := vs ++ List.replicate ((n - vs.length % n) % n) zeroVal
  let qs := (chunksOf n (padded.length + 1) padded).map (quantiseBlock format)
  { bits := formatBits (formatCode format), codes := qs.flatMap (·.2.1), scales := qs.map (·.1), exc := exc + (qs.map (·.2.2)).sum }

/-- A row of values drained and converted into an output format, `draw i` giving the i-th one's random bits (R153, R154): a
block format is quantised from the drain's FP32 or INT32. -/
def drainRow (draw : Nat → Option (BitVec 16)) (bothInt : Bool) (format : Nat) (vs : List Val) : OpOut :=
  let c := formatCode format
  if blockKind format = 0 then
    let rs := vs.mapIdx fun i v => drainOut (draw i) bothInt c v
    { bits := formatBits c, codes := rs.map (·.1), exc := (rs.map (·.2)).sum }
  else
    let d := if bothInt then 3 else 11
    let rs := vs.map (convertTo d)
    blocksOut format (rs.map fun r => decodeElem d r.1) (rs.map (·.2)).sum

/-- FP32 words of the vector unit converted into an output format. -/
def convertRow (draw : Nat → Option (BitVec 16)) (format : Nat) (ws : List Word) : OpOut :=
  let c := formatCode format
  if blockKind format = 0 then
    let rs := ws.mapIdx fun i w => convertBy (draw i) c (val32 w)
    { bits := formatBits c, codes := rs.map (·.1), exc := (rs.map (·.2)).sum }
  else blocksOut format (ws.map val32) 0

def noDraw : Nat → Option (BitVec 16) := fun _ => none

/-- A row of a matrix product: the stationary columns against one streamed vector. -/
def dotRow (columns : List Vec) (b : Vec) (shares : List (Nat × Nat)) (draw : Nat → Option (BitVec 16)) (format : Nat) : OpOut :=
  drainRow draw (columns.all fun a => bothInts a.format b.format) format (columns.map fun a => matmulValue a b shares)

/-- The accumulator entries of a row of a matrix product (R132, R155). -/
def dotWindows (columns : List Vec) (b : Vec) (shares : List (Nat × Nat)) : List Window :=
  columns.map fun a => (dotWindow a.format b.format shares (matmulChunks a b)).getD ⟨0, 0, 0⟩

/-- The residue that a window carries is that of the window itself (R156). -/
def windowOk (w : Window) : Bool := w.r = windowResidue w.a

/-! ## Zero compression (R213, R214) -/

/-- The value is zero in its format. -/
def elemZero (c x : Nat) : Bool :=
  match decodeElem c x with
  | .fin _ m _ => m = 0
  | _ => false

/-- The slot's read part of one block of 64 elements: the mask, then the packed non-zero elements padded to a
multiple of 8 bytes. -/
def compressBlock (c : Nat) (es : List Nat) : List Byte :=
  let es := (es ++ List.replicate 64 0).take 64
  let mask := (es.zip (List.range 64)).foldl (fun a p => if elemZero c p.1 then a else a + 2 ^ p.2) 0
  let body := packElems (formatBits c) (es.filter fun e => !elemZero c e)
  le 8 mask ++ body ++ List.replicate ((8 - body.length % 8) % 8) 0

/-- Unpack n elements of so many bits. -/
def unpackElems (bits : Nat) : Nat → Nat → List Nat
  | 0, _ => []
  | n + 1, v => v % 2 ^ bits :: unpackElems bits n (v / 2 ^ bits)

/-- The elements of a mask's positions, zero at the others. -/
def spreadMask : Nat → Nat → List Nat → List Nat
  | 0, _, _ => []
  | n + 1, mask, es =>
    if mask % 2 = 1 then es.headD 0 :: spreadMask n (mask / 2) es.tail else 0 :: spreadMask n (mask / 2) es

/-- The 64 elements of a block as its slot gives them back (R214). -/
def expandBlock (c : Nat) (bs : List Byte) : List Nat :=
  spreadMask 64 (unle (bs.take 8)) (unpackElems (formatBits c) 64 (unle (bs.drop 8)))

/-- Bytes of the slot of a block of 64 elements: its mask, and 64 elements (R213). -/
def slotBytes (c : Nat) : Nat := 8 + 8 * formatBits c

end Sys2Proof.Machine
end

