-- ==== Sys2Proof/Machine/Placement.lean ====
section
/-! DEFINITION. Machine/Placement.lean: what an image must satisfy, the admission tests and the re-costing of loaded
graphs, and the commands on graphs (R75 to R95, R135 to R162, R203, R204, R212, R226, R250, R269, R277, R323,
R349, R476 to R478). -/

namespace Sys2Proof.Machine

/-! ## Operator, tensor and format limits (step 6 of R478) -/

def tensorOf (img : Image) (id : Nat) : Option Tensor := img.tensors.find? (·.id = id)

/-- A positive finite FP32 parameter. -/
def positive32 (w : Word) : Bool := isFinite w && vlt 0 w

/-- The operator belongs to the chapter on vision, so that its refusal carries a limit code (R204). -/
def visionOp : OpKind → Bool
  | .conv _ | .crop _ _ _ _ _ | .boxAnchor _ _ _ _ _ _ | .boxCentre _ _ _ _ _ _ | .suppress _ _ _ _ _ _ _ _ => true
  | _ => false

/-- The limits of a convolution that fail, each with its code (R203 to R205). -/
def convLimits (p : ConvParams) : List (Bool × Nat) :=
  let r (lo hi v : Nat) : Bool := lo ≤ v && v ≤ hi
  let eh := (p.fh - 1) * p.dh + 1
  let ew := (p.fw - 1) * p.dw + 1
  [(r 1 11 p.fh && r 1 11 p.fw, 1),
   (r 1 4 p.sh && r 1 4 p.sw, 2),
   (r 1 8 p.dh && r 1 8 p.dw, 3),
   (p.pt < eh && p.pb < eh && p.pl < ew && p.pr < ew, 4),
   (1 ≤ p.g && p.g ≤ p.cin && p.cin % p.g = 0 && p.cout % p.g = 0, 5),
   (r 1 8192 p.h && r 1 8192 p.w && r 1 65536 p.cin && r 1 65536 p.cout && eh ≤ p.h + p.pt + p.pb &&
      ew ≤ p.w + p.pl + p.pr, 6)]

/-- An attention operator is inside its limits (R226); a training image's sequence is at most 8,192. -/
def attentionOk (training : Bool) (p : AttnParams) : Bool :=
  32 ≤ p.dh && p.dh ≤ 256 && p.dh % 32 = 0 && 1 ≤ p.hkv && p.hkv ≤ 64 && p.hq % p.hkv = 0 &&
    1 ≤ p.hq / p.hkv && p.hq / p.hkv ≤ 32 && 1 ≤ p.layers && p.layers ≤ 256 && p.kScale.all positive32 &&
    p.vScale.all positive32 && p.kScale.length = p.layers * p.hkv && p.vScale.length = p.layers * p.hkv &&
    positive32 p.scale && (p.cap &&& 0x7FFFFFFF = 0 || (vle 0x3F800000 p.cap && vle p.cap 0x447A0000)) &&
    (p.window = 0 || (16 ≤ p.window && p.window ≤ 131072)) && p.mask ≤ 1 &&
    1 ≤ p.context && p.context ≤ (if training then 8192 else 131072) && 1 ≤ p.active && p.active ≤ 1024

/-- Formats of an operator's tensors, format bytes with no block kind. -/
def plainFormat (ok : List Nat) (t : Tensor) : Bool := blockKind t.format = 0 && ok.contains (formatCode t.format)

/-- An operand of an array product that counts as an integer: an integer format without a block (R144). -/
def integerOperand (t : Tensor) : Bool := blockKind t.format = 0 && isInt (formatCode t.format)

/-- The pair of an array operation, the stationary operand first: both floating-point or block, or both integer; only the
stationary one is sparse, and then the streamed one has at most 8 bits; INT32 and E8M0 are no operands (R135, R144, R151). -/
def pairOk (a b : Tensor) : Bool :=
  integerOperand a == integerOperand b && formatCode a.format ≠ 3 && formatCode b.format ≠ 3 &&
    formatCode a.format ≠ 12 && formatCode b.format ≠ 12 && (!a.sparse || formatBits (formatCode b.format) ≤ 8) && !b.sparse

def pairFault (ins : List Tensor) : Bool :=
  match ins with
  | a :: b :: _ => !pairOk a b
  | _ => false

/-- The bias of a convolution, its third input, is FP32 (R205). -/
def biasOk (ins : List Tensor) : Bool := (ins.drop 2).all (plainFormat [11])

/-- The inputs of crop-and-resize: a floating-point or INT8 map, and a list of INT32 and FP32 words (R217). -/
def cropIns (ins : List Tensor) : Bool :=
  (ins.head?).all (fun t => (4 ≤ formatCode t.format && formatCode t.format ≤ 11) || t.format = 1) &&
    (ins.drop 1).all (plainFormat [3, 11])

/-- The inputs of suppression: an FP32 box list and a score tensor (R216, R221). -/
def suppressIns (ins : List Tensor) : Bool := (ins.take 1).all (plainFormat [11]) && (ins.drop 1).all (plainFormat [9, 10, 11])

/-- What an operator declares, each with the limit code that it breaks where it does not hold: the operator's own limits,
in ascending order of their codes, after its formats. -/
def operatorLimits (img : Image) (o : Operator) : List (Bool × Nat) :=
  let ins := o.ins.filterMap (tensorOf img)
  let out := tensorOf img o.out
  let r (lo hi v : Nat) : Bool := lo ≤ v && v ≤ hi
  match o.kind with
  | .matmul => [(!pairFault ins, 0)]
  | .conv p => convLimits p ++ [(!pairFault ins && biasOk ins, 7)]
  | .crop boxes oh ow mode _ =>
    [(cropIns ins && out.all (plainFormat [9, 10, 11]), 7),
     (r 1 4096 boxes, 8), (r 1 32 oh && r 1 32 ow, 9), (mode ≤ 1, 0x0D)]
  | .boxAnchor boxes sy sx sh sw _ =>
    [(ins.all (plainFormat [9, 10, 11]) && out.all (plainFormat [11]), 7), (r 1 65536 boxes, 8), ([sy, sx, sh, sw].all positive32, 0x0D)]
  | .boxCentre gh gw priors gs _ _ =>
    [(ins.all (plainFormat [9, 10, 11]) && out.all (plainFormat [11]), 7), (r 1 65536 (gh * gw * priors), 8), (r 1 16 priors, 0x0C), (positive32 gs, 0x0D)]
  | .suppress cands classes maxPer skip mode iou score sigma =>
    [(suppressIns ins, 7), (r 1 65536 cands, 0x0A), (r 1 1024 maxPer, 0x0B),
     (r 1 256 classes && (skip < classes || skip = 65535), 0x0C),
     (mode ≤ 1 && vle 0 iou && vle iou 0x3F800000 && isFinite score && positive32 sigma && vle sigma 0x42C80000, 0x0D)]
  | .attention p => [(attentionOk img.training p && (ins.take 3).all (plainFormat [7, 8, 9, 10]), 0)]
  | .rowNorm row => [(row ≤ 262144, 0)]
  | .router => []
  | .experts => []
  | .vector => []
  | .unknown => [(false, 0)]

/-- The limit that an operator breaks: its code of R204, 0 for an operator outside the vision chapter. A reserved format, or
stochastic rounding outside a training image, comes first (assumption log 66). -/
def operatorFault (img : Image) (o : Operator) : Option Nat :=
  let out := tensorOf img o.out
  let named := o.ins.filterMap (tensorOf img) ++ out.toList
  let fmt : Nat := if visionOp o.kind then 7 else 0
  let formats := !(named.any fun t => formatReserved t.format) && !(out.any fun t => formatCode t.format = 12 && !t.scalePlane) &&
    !o.acrossBlocks && (!o.stochastic || img.training)
  (((formats, fmt) :: operatorLimits img o).find? fun x => !x.1).map (·.2)

/-- A tensor declaration that breaks its rule, whatever operator names it (R135, R140, R151, R152, R212). -/
def tensorFault (t : Tensor) : Bool :=
  formatReserved t.format || (formatCode t.format = 12 && !t.scalePlane) ||
    (t.sparse && !(decide (t.role = .weight) && formatBits (formatCode t.format) ≤ 8 &&
      t.meta24.all fun g => g.1 < g.2 && g.2 < 4)) ||
    (t.zeroCompressed && !(decide (t.role = .activation) && blockKind t.format = 0 &&
      [0, 1, 4, 5, 6, 7, 8, 9, 10].contains (formatCode t.format)))

/-- Serving declarations within their ranges (R250). -/
def servingOk (v : Serving) : Bool :=
  2 ≤ v.vocab && v.vocab ≤ 262144 && 16 ≤ v.context && v.context ≤ 131072 && 1 ≤ v.active && v.active ≤ 1024 &&
    1 ≤ v.batch && v.batch ≤ v.active && 16 ≤ v.prefillMin && v.prefillMin ≤ 2048 && v.prefillMin % 16 = 0

/-- First offending operator of an image, with its code. -/
def firstOperator (img : Image) : Nat → List Operator → Option (Nat × Nat)
  | _, [] => none
  | k, o :: r => match operatorFault img o with
    | some c => some (k, c)
    | none => firstOperator img (k + 1) r

/-- The completion payload of an OPERATOR_LIMIT refusal (R204): bytes 20 to 24. -/
def limitPayload (index code : Nat) : List Byte := le 4 0 ++ le 4 index ++ le 1 code

/-- The training link of R277 names a variant of a serving graph loaded in the same polder. -/
def linkOk (s : State) (p : Nat) (e : Experts) : Bool :=
  e.trainsOnlyPrivate && match getGraph s p e.linkHandle with
    | some g => (g.img.experts.bind (·.serving)).isSome && (tget g.variants e.linkVariant).isSome
    | none => false

/-- A serving image declares its quantities, within their ranges; a variant's image and a training image carry an EXPERTS
section for their link alone (R250, R269, R277). -/
def servingDeclared (variant : Bool) (img : Image) : Bool :=
  (img.experts.all fun e => variant || img.training || e.serving.isSome) && (img.experts.bind (·.serving)).all servingOk

/-- Step 6 of R478: the payload of the refusal, if the image breaks a limit. -/
def limitFault (s : State) (p : Nat) (variant : Bool) (img : Image) : Option (List Byte) :=
  match firstOperator img 0 img.operators with
  | some (k, c) => some (limitPayload k c)
  | none =>
    if img.tensors.any tensorFault || !servingDeclared variant img ||
        (img.training && !(img.experts.any (linkOk s p))) then some (limitPayload 4294967295 0)
    else none

/-! ## The image checks (steps 3 to 6 of R478) -/

/-- Strictness of a class: S 2, Q 1, B 0 (R76). -/
def strictness : Class → Nat
  | .S => 2
  | .Q => 1
  | .B => 0

/-- Steps 3 to 5 of R478. -/
def imageFault (s : State) (cls : Class) (len : Nat) (img : Image) : Option Reason :=
  if !img.headerOk || img.size ≠ len || !img.digestOk then some .imageDigest
  else if img.version < s.ident.rilamMin || s.ident.rilamMax < img.version then some .imageVersion
  else if img.unknownRequired then some .unknownSection
  else if !img.hasClass || !img.hasOperators || !img.hasTensors || (img.needsMaxima && !img.hasMaxima) || !img.hasIo then
    some .missingSection
  else if strictness img.cls < strictness cls || (img.training && decide (cls ≠ .B)) then some .classMismatch
  else if img.cls = .S then
    match img.safety with
    | none => some .missingSection
    | some x => if 4096 < (img.outPorts.map (·.bytes)).sum || 4096 < x.resultBytes then some .resultSize else none
  else none

/-! ## The tide's windows under a set of values (R79 to R82) -/

/-- The values that a costing uses: those in force, or those that a change proposes (R80, R476). -/
structure Env where
  periodQ : Nat
  swellLen : Nat
  sShare : Nat
  qOp : Nat
deriving DecidableEq, Repr

def envNow (s : State) : Env := ⟨s.tide.periodQ, s.tide.swellLen, s.work.sShare, s.work.qAdmitOp⟩

/-- The values of the accepted period change, if one is pending. -/
def envNext (s : State) : Option Env :=
  s.tide.change.map fun c => { envNow s with periodQ := c.periodQ, swellLen := c.swellLen }

def Env.period (e : Env) : Nat := e.periodQ * Config.quarterNs
def Env.window (e : Env) : Nat := e.sShare * 5 * e.period / 100
/-- Q/B region of an S tile or of a plain tile. -/
def Env.region (e : Env) (isS : Bool) : Nat := e.period - Config.edgeBandNs - (if isS then e.window else 0)
/-- The admission limit of a window: 90% of its length (R82). -/
def ninety (n : Nat) : Nat := 9 * n / 10

/-! ## Loaded graphs -/

/-- A placed graph: polder, handle, the polder's class, the graph. -/
structure Placed where
  polder : Nat
  handle : Nat
  cls : Class
  g : Graph
deriving DecidableEq, Repr

def placedOf (s : State) : List Placed :=
  s.work.polders.flatMap fun q => q.2.graphs.map fun g => (⟨q.1, g.1, q.2.cls, g.2⟩ : Placed)

/-- Tiles of a graph, its variants' with them. -/
def graphTiles (g : Graph) : List TileUse := g.plan.tiles ++ g.variants.flatMap (·.2.tiles)
def graphDegraded (g : Graph) : List TileUse := g.plan.degraded ++ g.variants.flatMap (·.2.degraded)
def graphPlans (g : Graph) : List Plan := g.plan :: g.variants.map (·.2)

/-- Duration in ns of so many cycles of the arithmetic clock at an operating point, rounded up (R84, R358). -/
def cyclesNs (op c : Nat) : Nat := (1000 * c + Config.clockMhz op - 1) / Config.clockMhz op

/-- Occupancy of a tile use at an operating point: the largest duration of its quanta in any one of the tides over which an
invocation is laid (R84). -/
def occAt (u : TileUse) (op : Nat) : Nat := u.quanta.foldl (fun m tide => max m (tide.map (cyclesNs op)).sum) 0

/-- Duration of its golden run, at OP0 (R88). -/
def goldenNs (u : TileUse) : Nat := cyclesNs 0 u.golden

def ofClass (c : Class) (gs : List Placed) : List Placed := gs.filter (·.cls = c)

/-- Tile uses of a class, with a choice of placement. -/
def usesOf (c : Class) (f : Graph → List TileUse) (gs : List Placed) : List TileUse :=
  (ofClass c gs).flatMap fun p => f p.g

/-- The tile index carries Class S work. -/
def sIndex (gs : List Placed) (n : Nat) : Bool := (usesOf .S graphTiles gs).any (·.tile = n)

/-- golden(tile) of R88. -/
def goldenAt (gs : List Placed) (n : Nat) : Nat :=
  (usesOf .S graphTiles gs).foldl (fun m u => if u.tile = n then max m (goldenNs u) else m) 0

/-- Class S occupancy of a tile index at OP0. -/
def sOccAt (gs : List Placed) (n : Nat) : Nat :=
  (((usesOf .S graphTiles gs).filter (·.tile = n)).map fun u => occAt u 0).sum

/-- Class Q occupancy of a tile at the costing point. -/
def qOccAt (e : Env) (gs : List Placed) (stack n : Nat) : Nat :=
  (((usesOf .Q graphTiles gs).filter fun u => u.stack = stack && u.tile = n).map fun u => occAt u e.qOp).sum

/-- Class Q occupancy of a position and tile index in the degraded configuration. -/
def qDegAt (e : Env) (gs : List Placed) (pos n : Nat) : Nat :=
  (((usesOf .Q graphDegraded gs).filter fun u => u.stack = pos && u.tile = n).map fun u => occAt u e.qOp).sum

/-- The reserve of R94: 20 µs on a starved tile. -/
def reserveAt (s : State) (stack n : Nat) : Nat :=
  if ((tget s.safety.tiles (32 * stack + n)).map (·.starved)).getD false then 20000 else 0

/-- The reserve that counts in the degraded configuration: that of a starved tile of the index on any stack. -/
def reserveDeg (s : State) (n : Nat) : Nat := (List.range 4).foldl (fun m k => max m (reserveAt s k n)) 0

/-- Stacks that carry the Class S channels. -/
def channelStacks (s : State) : List Nat := s.work.channels.filterMap id

/-- SRAM in KiB that graphs hold on a tile: Class S graphs on every channel's stack. -/
def sramAt (s : State) (gs : List Placed) (stack n : Nat) : Nat :=
  (gs.flatMap fun p => (graphTiles p.g).filter fun u =>
    u.tile = n && (if p.cls = .S then decide (stack ∈ channelStacks s) else u.stack = stack)).map (·.sramKiB) |>.sum

/-- SRAM in KiB on a position in the degraded configuration. -/
def sramDegAt (gs : List Placed) (pos n : Nat) : Nat :=
  ((usesOf .S graphTiles gs).filter (·.tile = n) ++
    (usesOf .Q graphDegraded gs).filter fun u => u.stack = pos && u.tile = n).map (·.sramKiB) |>.sum

/-! ## Checks: none where the check passes, else its reason and the excess over its limit in µs or bytes -/

abbrev Check := Option (Reason × Nat)

def excess (r : Reason) (unit used limit : Nat) : Check :=
  if used ≤ limit then none else some (r, (used - limit + unit - 1) / unit)

/-- The first failing check of a list. -/
def firstCheck : List Check → Check
  | [] => none
  | some x :: _ => some x
  | none :: t => firstCheck t

/-- Whether a quantum that cannot be cut does not fit its window even on an empty tile (SINGLE_QUANTUM). -/
def singleOver (us : List TileUse) (op window : Nat) : Check :=
  firstCheck (us.flatMap fun u => u.quanta.flatMap fun tide => tide.map fun c => excess .singleQuantum 1000 (cyclesNs op c) window)

/-- sram_fits of a Class S plan: nothing outside on-stack SRAM (R75, R76), the state copy of R323, and free SRAM on every
channel. -/
def sSramCheck (s : State) (e : Env) (gs : List Placed) (g : Graph) : Check :=
  if (graphPlans g).any Plan.spills then some (.sramSpace, 0)
  else
    firstCheck
      (excess .sramSpace 1 (((ofClass .S gs).flatMap fun p => (graphPlans p.g).map (·.stateBytes)).sum) (225 * e.region true) ::
        (graphTiles g).flatMap fun u => (channelStacks s).map fun k =>
          excess .sramSpace 1 (1024 * sramAt s gs k u.tile) (1024 * Config.tileSramKiB))

/-- The Class S window on every S tile of the graph. -/
def sWindowCheck (e : Env) (gs : List Placed) (g : Graph) : Check :=
  firstCheck ((graphTiles g).map fun u => excess .sWindow 1000 (sOccAt gs u.tile) (ninety e.window))

/-- The Q/B region of a tile: Class Q occupancy with golden room and the reserve of R94. -/
def qbTileCheck (s : State) (e : Env) (gs : List Placed) (stack n : Nat) : Check :=
  let isS := sIndex gs n && decide (stack ∈ channelStacks s)
  excess .qbWindow 1000 (qOccAt e gs stack n + (if isS then goldenAt gs n else 0) + reserveAt s stack n) (ninety (e.region isS))

/-- Every tile that is an S tile keeps golden room (R87, R88). -/
def sQbCheck (s : State) (e : Env) (gs : List Placed) : Check :=
  firstCheck ((usesOf .S graphTiles gs).flatMap fun u => (channelStacks s).map fun k => qbTileCheck s e gs k u.tile)

/-- The rate of Class S results (R5, R87): 24,000 a second is 6 in each quarter-millisecond. -/
def rateCheck (e : Env) (gs : List Placed) : Check :=
  excess .resultRate 1 (((ofClass .S gs).flatMap fun p => (graphPlans p.g).map (·.resultsPerTide)).sum) (6 * e.periodQ)

/-- The plan holds a degraded plan: tiles at positions 0 to 2 (R87). -/
def hasDegraded (q : Plan) : Bool := q.degraded ≠ [] && q.degraded.all fun u => u.stack < 3 && u.tile < 32

/-- HBM frames of the two DRAM stacks at a position that polders can hold, on the least of the stacks (R72, R171). -/
def positionFrames : Nat := 12058624

/-- HBM frames that degraded plans take at a position. -/
def hbmDegAt (gs : List Placed) (pos : Nat) : Nat :=
  ((ofClass .Q gs).flatMap fun p => (graphPlans p.g).flatMap fun q => (q.degHbm.filter (·.1 = pos)).map (·.2)).sum

/-- The degraded plan of every Class Q graph: it names tiles, and they hold it in time and in memory (R87, R90). -/
def degradedCheck (s : State) (e : Env) (gs : List Placed) : Check :=
  if (ofClass .Q gs).any fun p => (graphPlans p.g).any fun q => !hasDegraded q then some (.degradedQ, 0)
  else
    firstCheck
      (((usesOf .Q graphDegraded gs).flatMap fun u =>
        let isS := sIndex gs u.tile
        [excess .degradedQ 1000
           (qDegAt e gs u.stack u.tile + (if isS then goldenAt gs u.tile else 0) + reserveDeg s u.tile) (ninety (e.region isS)),
         excess .degradedQ 1 (1024 * sramDegAt gs u.stack u.tile) (1024 * Config.tileSramKiB)]) ++
       (List.range 3).map fun k => excess .degradedQ 1 (4096 * hbmDegAt gs k) (4096 * positionFrames))

/-- Bytes of Class Q traffic per tide on a channel; for die-to-die links Class S too (R89). -/
def channelBytes (withS : Bool) (f : Plan → List (Nat × Nat)) (pick : Nat → Nat) (gs : List Placed) (k : Nat) : Nat :=
  ((gs.filter fun p => p.cls = .Q || (withS && p.cls = .S)).flatMap fun p =>
    (graphPlans p.g).flatMap fun q => ((f q).filter fun b => pick b.1 = k).map (·.2)).sum

/-! ### What codec sessions cost (R287 to R289, R292); times in tenths of a nanosecond -/

def unitEncode : Nat := 23400
def unitDecode : Nat := 20475
def switchTime : Nat := 60000

/-- Units that one core may take of a decode picture: ceil(1.25 x N_ctu / DEC_PAR) (R289). -/
def decodeShare (c : Session) : Nat := (5 * ctuCount c + 4 * c.cfg.layout - 1) / max (4 * c.cfg.layout) 1

/-- Worst-case cost of a picture. -/
def pictureCost (c : Session) : Nat :=
  if c.kind = 0 then
    if c.cfg.layout = 0 then
      let n := min 8 (ctuW c)
      switchTime + (ctuW c + n - 1) / max n 1 * ctuH c * unitEncode
    else
      let r := ctuH c - 1
      switchTime + (r / 8 * ctuW c + r % 8 * 2 + ctuW c) * unitEncode
  else
    switchTime + max (decodeShare c * unitDecode) ((40 * c.cfg.maxPicBytes + c.cfg.layout - 1) / max c.cfg.layout 1)

/-- HBM bytes that a picture's coding moves (R292). -/
def codecTraffic (c : Session) : Nat := (if c.kind = 0 then 2 * c.cfg.refs + 2 else 6) * rawBytes c

/-- The session's buffers lie on a DRAM stack. -/
def buffersOn (k : Nat) (c : Session) : Bool :=
  c.buffers.any fun x => decide (dramOf x.base ≤ k) && decide (k ≤ dramOf (x.base + x.frames - 1))

/-- Bytes per tide of some sessions on a DRAM stack, at the highest rate of one picture: the engine codes one at a time. -/
def codecBytes (e : Env) (k : Nat) (cs : List Session) : Nat :=
  (cs.filter (buffersOn k)).foldl (fun m c => max m (codecTraffic c * 10 * e.period / max (pictureCost c) 1)) 0

/-- The open Class Q sessions. -/
def sessionsOfQ (s : State) : List Session := (s.codec.sessions.map (·.2)).filter fun x => clsOf s x.polder = some .Q

/-- 90% of a channel's bytes in one tide. -/
def channelLimit (e : Env) (perUs : Nat) : Nat := ninety (perUs * e.period / 1000)

/-- The channels of R89 and R172: each DRAM stack with both halves, each spillway half with its check codes
(17/16), each die-to-die link per direction; open Class Q codec sessions count on the DRAM stacks of their buffers. -/
def bandwidthCheck (s : State) (e : Env) (gs : List Placed) : Check :=
  firstCheck
    ((List.range 8).map (fun k =>
        excess .bandwidth 1 (channelBytes false (·.hbmBytes) (· / 2) gs k + codecBytes e k (sessionsOfQ s))
          (channelLimit e Config.hbmBytesPerUs)) ++
      (List.range 2).map (fun k =>
        excess .bandwidth 1 (spillMoved (channelBytes false (·.spillBytes) id gs k)) (channelLimit e Config.spillBytesPerUs)) ++
      (List.range 16).map (fun k =>
        excess .bandwidth 1 (channelBytes true (·.d2dBytes) id gs k) (channelLimit e Config.d2dBytesPerUs)))

/-- Levee frame bytes per µs of a port: 100 Gb/s for each lane that is up (R409, R410). -/
def portBytesPerUs (s : State) (n : Nat) : Nat :=
  let x := getPort s n
  if x.state = 2 then 12500 * x.lanes else 0

/-- The traffic of a linked job on each port that it uses, with that of the other linked jobs (R423). -/
def leveeCheck (s : State) (e : Env) (gs : List Placed) (g : Graph) : Check :=
  firstCheck ((((graphPlans g).flatMap (·.leveeBytes)).filter (·.2 ≠ 0)).map fun b =>
    excess .bandwidth 1 (channelBytes false (·.leveeBytes) id gs b.1) (channelLimit e (portBytesPerUs s b.1)))

/-! ## The distribution of attention work (R235), and the ring of a Class S graph (R246) -/

/-- Cut n pages into k blocks whose sizes differ by at most 1, larger first. -/
def cutPages (n k : Nat) : List Nat := (List.range k).map fun i => n / k + bit (decide (i < n % k))

/-- The work of the pairs (request's place, its pages), for each of `hkv` heads, on A tiles. -/
def attnWork (pairs : List (Nat × Nat)) (hkv A : Nat) : List AttnWork :=
  let total := hkv * (pairs.map (·.2)).sum
  let split := max 8 ((total + 2 * A - 1) / max (2 * A) 1)
  pairs.flatMap fun q => (List.range hkv).flatMap fun h =>
    (cutPages q.2 ((q.2 + split - 1) / split)).mapIdx fun i n => (⟨q.1, h, i, n⟩ : AttnWork)

/-- Sort by descending cost; ties by higher request, head and block. -/
def insertWork (w : AttnWork) : List AttnWork → List AttnWork
  | [] => [w]
  | v :: r =>
    let before := if v.cost ≠ w.cost then v.cost < w.cost
      else if v.req ≠ w.req then v.req < w.req
      else if v.head ≠ w.head then v.head < w.head
      else v.block < w.block
    if before then w :: v :: r else v :: insertWork w r

/-- The tile with the least load, the higher index on a tie. -/
def leastLoaded (loads : List Nat) : Nat :=
  ((List.range loads.length).foldl (fun best i =>
    match loads[i]?, best with
    | some l, some (_, b) => if l ≤ b then some (i, l) else best
    | some l, none => some (i, l)
    | none, _ => best) (none : Option (Nat × Nat))).map (·.1) |>.getD 0

/-- Give every block to a tile: the blocks with their tiles, and the loads. -/
def distribute (pairs : List (Nat × Nat)) (hkv A : Nat) : List (AttnWork × Nat) × List Nat :=
  ((attnWork pairs hkv A).foldl (fun acc w => insertWork w acc) []).foldl
    (fun acc w =>
      let t := leastLoaded acc.2
      (acc.1 ++ [(w, t)], acc.2.set t (acc.2.getD t 0 + w.cost))) ([], List.replicate A 0)

/-- KV heads of a serving graph. -/
def kvHeads (img : Image) : Nat :=
  img.operators.foldl (fun m o => match o.kind with
    | .attention a => max m a.hkv
    | _ => m) 1

/-- Pages of the context that an image declares (R226). -/
def contextPages (img : Image) : Nat :=
  img.operators.foldl (fun m o => match o.kind with
    | .attention a => max m ((a.context + 15) / 16)
    | _ => m) 0

/-- The ring of a Class S graph, and the split of its rows, which is fixed with the load: no polder of another class has one. -/
def ringOf (cls : Class) (img : Image) (g : Graph) : Graph :=
  if cls = .S then
    { g with ring := { size := contextPages img },
             decodeWork := (distribute [(0, contextPages img)] (kvHeads img) g.plan.attnTiles).1 }
  else g

/-- Bytes that the attention operators of a training image store: the weights of every layer and query head in tiles, and a
record for each row, at the declared length (R247, R248). -/
def storedAttention (img : Image) : Nat :=
  if img.training then
    (img.operators.map fun o => match o.kind with
      | .attention a =>
        let n := (a.context + 15) / 16
        a.layers * a.hq * ((if a.mask = 0 then n * (n + 1) / 2 else n * n) * 512 + 40 * a.context)
      | _ => 0).sum
  else 0

/-! ## Memory of a plan -/

/-- An extent lies apart from others of its tier. -/
def apart (e : Extent) (es : List Extent) : Bool :=
  es.all fun f => e.frames = 0 || f.frames = 0 || decide (e.base + e.frames ≤ f.base) || decide (f.base + f.frames ≤ e.base)

def apartAll : List Extent → Bool
  | [] => true
  | e :: r => apart e r && apartAll r

/-- The plan's frames are free, apart, and enough for the image copy and for the attention store of a training image, in HBM or
the spillway; no zero-compressed tensor lies in the spillway (R73, R74, R87, R212, R248). -/
def memoryFits (s : State) (p : Nat) (img : Image) (q : Plan) : Bool :=
  q.hbm.all (extentFree s p 1) && (q.spill ++ q.copy).all (extentFree s p 2) && apartAll q.hbm && apartAll (q.spill ++ q.copy) &&
    frames4K img.size ≤ frameSum q.copy && frames4K (storedAttention img) ≤ frameSum q.hbm + frameSum q.spill &&
    !(img.tensors.any fun t => t.zeroCompressed && q.tiers.any fun x => x.1 = t.id && x.2 = 2)

/-- Memory that a Class Q or Class B plan takes; `fits` is false where its frames do not. Frames are tested before SRAM
(assumption log 68). -/
def memoryCheck (s : State) (gs : List Placed) (g : Graph) (fits : Bool) : Check :=
  if !fits then some (.memorySpace, 0)
  else firstCheck ((graphTiles g).map fun u =>
    excess .sramSpace 1 (1024 * sramAt s gs u.stack u.tile) (1024 * Config.tileSramKiB))

/-- A quantum that fits no empty tile is SINGLE_QUANTUM, whatever its window holds (R91). -/
def orSingle (single window : Check) : Check :=
  match single with
  | some x => some x
  | none => window

/-! ## Golden offsets (R349) -/

def goldenWidth (swellLen : Nat) : Nat := min 9 swellLen

/-- Smallest offset, a multiple of w, whose window is not among the used ones. -/
def freeOffset (swellLen : Nat) (used : List Nat) : Nat → Nat → Option Nat
  | 0, _ => none
  | f + 1, k =>
    let w := goldenWidth swellLen
    if swellLen < k * w + w then none
    else if k * w ∈ used then freeOffset swellLen used f (k + 1)
    else some (k * w)

/-- Two Class S graphs share a tile index. -/
def shareIndex (a b : Graph) : Bool := (graphTiles a).any fun u => (graphTiles b).any (·.tile = u.tile)

/-- Golden offset of a graph, given the offsets that other graphs hold. -/
def offsetFor (swellLen : Nat) (held : List (Graph × Nat)) (g : Graph) : Option Nat :=
  freeOffset swellLen ((held.filter fun x => shareIndex x.1 g).map (·.2)) 1025 0

/-- Offsets afresh for every Class S graph in ascending order of polder and handle; none where one has none. -/
def assignOffsets (swellLen : Nat) : List Placed → List (Graph × Nat) → List (Placed × Option Nat)
  | [], _ => []
  | p :: r, held =>
    match offsetFor swellLen held p.g with
    | some o => (p, some o) :: assignOffsets swellLen r ((p.g, o) :: held)
    | none => (p, none) :: assignOffsets swellLen r held

/-- Offsets that the loaded Class S graphs hold under the values in force, or under the pending swell length. -/
def heldOffsets (next : Bool) (gs : List Placed) : List (Graph × Nat) :=
  (ofClass .S gs).filterMap fun p => if next then p.g.goldenNew.map (fun o => (p.g, o)) else p.g.golden.map fun x => (p.g, x.offset)

/-! ## The tests of one graph among all (R82 to R90, R94) -/

/-- The checks of a graph of a class, in order; `gs` holds every graph, this one with them, `offset` says
whether it has a golden offset, and `fits` whether the frames of its plan are free. -/
def graphChecks (s : State) (e : Env) (gs : List Placed) (cls : Class) (g : Graph) (offset fits : Bool) : List Check :=
  match cls with
  | .S =>
    [(if fits then none else some (.memorySpace, 0)), sSramCheck s e gs g,
     orSingle (singleOver (graphTiles g) 0 e.window) (sWindowCheck e gs g),
     (if offset then sQbCheck s e gs else some ((sQbCheck s e gs).getD (.qbWindow, 0))),
     rateCheck e gs, degradedCheck s e gs, bandwidthCheck s e gs]
  | .Q =>
    [memoryCheck s gs g fits,
     orSingle (singleOver (graphTiles g) e.qOp (e.region false))
       (firstCheck ((graphTiles g).map fun u => qbTileCheck s e gs u.stack u.tile)),
     degradedCheck s e gs, firstCheck [bandwidthCheck s e gs, leveeCheck s e gs g]]
  | .B => [memoryCheck s gs g fits, singleOver (graphTiles g) 7 (e.region false)]

/-- Checks passed before the first failure, and that failure. -/
def score : List Check → Nat × Check
  | [] => (0, none)
  | some x :: _ => (0, some x)
  | none :: t => let r := score t; (r.1 + 1, r.2)

/-! ## Re-costing under new values (R80) -/

/-- The first loaded graph that fails under new values: polder, handle and reason. -/
def recost (s : State) (e : Env) : Option (Nat × Nat × Reason) :=
  let gs := placedOf s
  let offs := assignOffsets e.swellLen (ofClass .S gs) []
  (gs.findSome? fun p =>
    let has := p.cls ≠ .S || (offs.find? fun x => x.1.polder = p.polder && x.1.handle = p.handle).any (·.2.isSome)
    (firstCheck (graphChecks s e gs p.cls p.g has true)).map fun x => (p.polder, p.handle, x.1))

/-- The refusal of a command whose re-costing fails: ST_OVERRUN_RISK with polder and handle (R80). -/
def recostPayload (x : Nat × Nat × Reason) : List Byte := le 1 x.1 ++ le 1 x.2.1

/-- Golden offsets for a new swell length; `pending` keeps them until the new period (R476). -/
def setOffsets (swellLen : Nat) (pending : Bool) (s : State) : State :=
  (assignOffsets swellLen (ofClass .S (placedOf s)) []).foldl (fun st x =>
    match x.2, getGraph st x.1.polder x.1.handle with
    | some o, some g =>
      setGraph st x.1.polder x.1.handle
        (if pending then { g with goldenNew := some o }
         else { g with golden := g.golden.map fun y => { y with offset := o } })
    | _, _ => st) s

/-! ## Deciding a load (R86, R87, R91) -/

/-- A graph as a plan would hold it. -/
def candidate (img : Image) (t d : Nat) (plan : Plan) : Graph := { img := img, t := t, d := d, plan := plan }

/-- The quotas that a plan breaks, in the order of R91; `gone` are graphs of the polder whose release the decision does not
count yet. -/
def quotaCheck (s : State) (p : Nat) (x : Polder) (gone : List Graph) (plan : Plan) : Check :=
  let also (f : Plan → Nat) : Nat := (gone.map (graphUse f)).sum
  let spill := spillUse x + also (·.spillFrames) + plan.spillFrames
  if 1048576 * x.sramQuota < sramUse x + also (·.sramHeld) + plan.sramHeld then some (.sramQuota, 0)
  else if 65536 * x.hbmQuota < hbmUse s p x + also (·.hbmFrames) + plan.hbmFrames + kvTables x +
      (kvReserved s p x - (262144 * x.spillQuota - spill)) then some (.hbmQuota, 0)
  else if 262144 * x.spillQuota < spill then some (.spillQuota, 0)
  else none

/-- Apply the replacement degraded plans that a Class S plan proposes (R90). -/
def applyReplans (rs : List (Nat × Nat × List TileUse)) (gs : List Placed) : List Placed :=
  gs.map fun p => match rs.find? (fun r => r.1 = p.polder && r.2.1 = p.handle) with
    | some r => { p with g := { p.g with plan := { p.g.plan with degraded := r.2.2 } } }
    | none => p

/-- Reasons that hold whatever the plan, in the order of R87: the graph count, for a new graph, and the spare. -/
def loadCheck (s : State) (x : Polder) (gone : List Graph) (new : Bool) : List Check :=
  [if new && 16 ≤ x.graphs.length + gone.length then some (.graphCount, 0) else none,
   if s.work.noSpare && x.cls ≠ .B then some (.noSpare, 0) else none]

/-- Graphs whose release comes after a decision's place in the order, as they were placed (R86, R101). -/
def ghostsFor (s : State) (no : Nat) : List Placed :=
  (countedFor s no).filterMap fun r => r.graph.map fun g => (⟨r.polder, 65536, r.cls, g⟩ : Placed)

/-- The module with the frames of those graphs still held. -/
def withGhosts (gs : List Placed) (s : State) : State :=
  let spans := gs.flatMap fun p => (graphPlans p.g).flatMap fun q =>
    q.hbm.map (fun e => (⟨1, e.base, e.frames, p.polder, 0, 0, true⟩ : Span)) ++
      (q.spill ++ q.copy).map fun e => (⟨2, e.base, e.frames, p.polder, 0, 0, true⟩ : Span)
  { s with mem.spans := spans ++ s.mem.spans }

/-- All checks of a plan of a graph or of its variant, quotas first, under the values in force and then under a pending change
(R476); `no` is the decision's place in the order. -/
def planChecks (s : State) (no p handle : Nat) (x : Polder) (g : Graph) (img : Image) (new : Bool) (plan : Plan) : List Check :=
  let ghosts := ghostsFor s no
  let own := (ghosts.filter (·.polder = p)).map (·.g)
  let others := applyReplans plan.replans ((placedOf s).filter fun q => !(q.polder = p && q.handle = handle)) ++ ghosts
  let gs := others ++ [(⟨p, handle, x.cls, g⟩ : Placed)]
  let has (next : Bool) (w : Nat) : Bool := x.cls ≠ .S || (offsetFor w (heldOffsets next others) g).isSome
  let fits := memoryFits (withGhosts ghosts s) p img plan
  quotaCheck s p x own plan ::
    (loadCheck s x own new ++
      (graphChecks s (envNow s) gs x.cls g (has false s.tide.swellLen) fits ++
        (match envNext s with
          | some e => graphChecks s e gs x.cls g (has true e.swellLen) fits
          | none => [])))

/-- Bytes that a tensor takes in its tier: a zero-compressed one its full slots, the state of a Class S graph its two copies
(R213, R215, R309). -/
def storedBytes (cls : Class) (t : Tensor) : Nat :=
  let c := formatCode t.format
  if t.zeroCompressed then (8 * t.bytes / max (formatBits c) 1 + 63) / 64 * slotBytes c
  else if cls = .S && t.role = .state then 2 * t.bytes
  else t.bytes

/-- The plan holds a tensor where it puts it. -/
def tensorPlaced (cls : Class) (q : Plan) (t : Tensor) : Bool :=
  match (q.tiers.find? (·.1 = t.id)).map (·.2) with
  | some 0 => storedBytes cls t ≤ q.sramHeld
  | some 1 => storedBytes cls t ≤ 4096 * q.hbmFrames
  | some _ => storedBytes cls t ≤ 4096 * frameSum q.spill
  | none => false

/-- The window time of a serving graph holds a decode step and a chunk of PREFILL_MIN tokens (R236, R251). -/
def servingTime (img : Image) (q : Plan) : Bool :=
  match img.experts.bind (·.serving) with
  | some v => q.decodeNs + v.prefillMin * q.prefillNsPerToken ≤ q.windowNs
  | none => true

/-- A candidate of the module's search: it names tiles of stacks in service, lays the quanta over at most D tides, puts every
tensor in a tier that holds it, and costs every data-dependent size, the candidates of a suppression and a compressed
tensor's slots among them, at its declared maximum at least (R78, R84, R93, R215, R225). -/
def planShape (s : State) (cls : Class) (d : Nat) (img : Image) (q : Plan) : Bool :=
  q.tiles ≠ [] &&
    (q.tiles.all fun u => u.tile < 32 && (cls = .S || (u.stack < 4 && s.work.stackOk.getD u.stack false)) &&
      u.quanta.length ≤ d) &&
    (q.degraded.all fun u => u.quanta.length ≤ d) &&
    img.tensors.all (tensorPlaced cls q) && servingTime img q &&
    img.maxima.all fun m => q.sizes.any fun z => z.1 = m.1 && m.2 ≤ z.2

/-- The plan to report: most checks passed, then the check listed first in R91, then the least excess. -/
def worse (a b : Nat × (Reason × Nat)) : Bool :=
  if a.1 ≠ b.1 then a.1 < b.1
  else if reasonCode a.2.1 ≠ reasonCode b.2.1 then reasonCode b.2.1 < reasonCode a.2.1
  else b.2.2 < a.2.2

/-- The first plan that passes every check, or the failure to report (R91); with no candidate at all, `bare`. -/
def choosePlan (bare : Reason × Nat) (checks : Plan → List Check) :
    List Plan → Option (Nat × (Reason × Nat)) → Plan ⊕ (Reason × Nat)
  | [], none => .inr bare
  | [], some b => .inr b.2
  | q :: r, best =>
    match score (checks q) with
    | (_, none) => .inl q
    | (n, some x) =>
      choosePlan bare checks r (match best with
        | none => some (n, x)
        | some b => if worse b (n, x) then some (n, x) else some b)

/-- The status of a placement reason (R91). -/
def placementStatus : Reason → Status
  | .sramQuota | .hbmQuota | .spillQuota | .graphCount => .quota
  | .noSpare | .sramSpace | .memorySpace => .noFit
  | .sWindow | .resultRate | .qbWindow | .degradedQ | .bandwidth | .singleQuantum => .overrunRisk
  | _ => .badParam

/-- Refuse a load: the log records the reason and the least excess for PF0 (R91). -/
def refuseLoad (c : Instr) (p : Nat) (x : Reason × Nat) (s : State) : State :=
  finishCmd c (placementStatus x.1) x.1 []
    (recordBreach 0x13 0 p 255 255 0 (reasonCode x.1 + 4294967296 * x.2) s)

/-- Peak occupancy of a plan in per mille of its window (R92). -/
def occPm (s : State) (cls : Class) (degraded : Bool) (us : List TileUse) : Nat :=
  let e := envNow s
  let gs := placedOf s
  match cls with
  | .B => 0
  | .S => if degraded then 0 else us.foldl (fun m u => max m (1000 * occAt u 0 / e.window)) 0
  | .Q => us.foldl (fun m u =>
      let isS := sIndex gs u.tile && (degraded || decide (u.stack ∈ channelStacks s))
      max m (1000 * occAt u e.qOp / e.region isS)) 0

/-- Write the replacement degraded plans into the graphs they name. -/
def installReplans (rs : List (Nat × Nat × List TileUse)) (s : State) : State :=
  rs.foldl (fun st r => match getGraph st r.1 r.2.1 with
    | some g => setGraph st r.1 r.2.1 { g with plan := { g.plan with degraded := r.2.2 } }
    | none => st) s

/-- A plan takes its frames: scrubbed as they change hands, then the image copy and the weights are written (R73, R187). -/
def takeFrames (p : Nat) (img : Image) (q : Plan) (s : State) : State :=
  placeWeights q img.weights (extentWrite 2 q.copy img.weights
    (claimAll p 2 (q.spill ++ q.copy) (claimAll p 1 q.hbm s)))

/-- Admit a graph under a plan. -/
def installGraph (c : Instr) (p handle t d : Nat) (img : Image) (x : Polder) (plan : Plan) (s : State) : State :=
  let others := placedOf s
  let g := ringOf x.cls img { candidate img t d plan with weights := img.weights }
  let gold : Option Golden :=
    if x.cls = .S then (offsetFor s.tide.swellLen (heldOffsets false others) g).map fun o => ({ offset := o } : Golden) else none
  let new := if x.cls = .S then s.tide.change.bind fun k => offsetFor k.swellLen (heldOffsets true others) g else none
  let s := setGraph (installReplans plan.replans s) p handle { g with golden := gold, goldenNew := new }
  let s := takeFrames p img plan s
  finishCmd c .ok .none (le 2 (occPm s x.cls false plan.tiles) ++ le 2 (occPm s x.cls true plan.degraded)) s

/-- The module as the scrubs in progress will leave it: their frames free (R74). -/
def afterScrubs (s : State) : State := { s with work.scrubs := [] }

/-- Decide a GRAPH_LOAD; none while the decision must wait for memory that is being scrubbed (R74). -/
def decideGraph (c : Instr) (no : Nat) (h : Hdr) (handle t d : Nat) (img : Image) (plans : List Plan) (s : State) : Option State :=
  let p := polderOf h
  match getPolder s p with
  | none => some (finishCmd c .polderReset .none [] s)
  | some x =>
    if (tget x.graphs handle).isSome then some (finishCmd c .badParam .handleInUse [] s)
    else
      let find (s : State) : Plan ⊕ (Reason × Nat) := choosePlan ((firstCheck (loadCheck s x [] true)).getD (.sramSpace, 0))
        (fun q => planChecks s no p handle x (candidate img t d q) img true q) (plans.filter (planShape s x.cls d img)) none
      match find s, find (afterScrubs s) with
      | .inl q, _ => some (installGraph c p handle t d img x q s)
      | .inr _, .inl _ => none
      | .inr r, .inr _ => some (refuseLoad c p r s)

/-- Decide a MODEL_VARIANT_ADD: the variant's plan is costed beside the graph's (R269). -/
def decideVariant (c : Instr) (no : Nat) (h : Hdr) (handle v : Nat) (img : Image) (plans : List Plan) (s : State) : Option State :=
  let p := polderOf h
  match getPolder s p, getGraph s p handle with
  | some x, some g =>
    let g' (q : Plan) : Graph := { g with variants := tset g.variants v q, experts := tset g.experts v img.weights }
    let find (s : State) : Plan ⊕ (Reason × Nat) := choosePlan ((firstCheck (loadCheck s x [] false)).getD (.sramSpace, 0))
      (fun q => planChecks s no p handle x (g' q) img false q) (plans.filter (planShape s x.cls g.d img)) none
    match find s, find (afterScrubs s) with
    | .inl q, _ => some (finishCmd c .ok .none [] (takeFrames p img q (setGraph s p handle (g' q))))
    | .inr _, .inl _ => none
    | .inr r, .inr _ => some (refuseLoad c p r s)
  | _, _ => some (finishCmd c .badParam .noGraph [] s)

/-! ## At the applying edge -/

/-- GRAPH_LOAD at its edge: steps 2 to 7 of R478, then the decision. -/
def applyGraphLoad (c : Instr) (h : Hdr) (handle len : Nat) (img : Image) (s : State) : State :=
  let p := polderOf h
  match getPolder s p with
  | none => finish h .notPermitted .wrongPolder [] s
  | some x =>
    if activationBlocks s then finish h .notPermitted .none [] s
    else if (tget x.graphs handle).isSome then finish h .badParam .handleInUse [] s
    else if img.fault then finish h .badParam .bufferFault [] s
    else
      match imageFault s x.cls len img with
      | some r => finish h .badParam r [] s
      | none =>
        match limitFault s p false img with
        | some pay => finish h .badParam .operatorLimit pay s
        | none =>
          if x.cls = .S && !wardensVote s then finish h .notPermitted .none [] s
          else awaitDecision c s

/-- The variant image matches its base (R269). -/
def variantMatch (base img : Image) : Bool :=
  match base.experts, img.experts with
  | some b, some v => decide (v.baseModel = base.model) && v.layers = b.layers && v.hidden = b.hidden &&
      v.expertLayers = b.expertLayers
  | _, _ => false

/-- Index of the first operator in which a variant's image differs from its base; where the lists do not differ, the index that a
refusal names is free (assumption log 66). -/
def firstOther : Nat → List Operator → List Operator → Option Nat
  | _, [], [] => none
  | k, a :: r, b :: t => if a = b then firstOther (k + 1) r t else some k
  | k, _, _ => some k

/-- MODEL_VARIANT_ADD at its edge. -/
def applyModelVariantAdd (c : Instr) (h : Hdr) (handle v len : Nat) (img : Image) (s : State) : State :=
  let p := polderOf h
  match getPolder s p, getGraph s p handle with
  | some x, some g =>
    if activationBlocks s then finish h .notPermitted .none [] s
    else if (tget g.variants v).isSome then finish h .badParam .handleInUse [] s
    else if img.fault then finish h .badParam .bufferFault [] s
    else
      match imageFault s x.cls len img with
      | some r => finish h .badParam r [] s
      | none =>
        match limitFault s p true img with
        | some pay => finish h .badParam .operatorLimit pay s
        | none =>
          if !variantMatch g.img img then
            finish h .badParam .operatorLimit
              (limitPayload ((firstOther 0 g.img.operators img.operators).getD (Config.freeWord s.fresh).toNat) 0)
              { s with fresh := s.fresh + 1 }
          else if x.cls = .S && !wardensVote s then finish h .notPermitted .none [] s
          else awaitDecision c s
  | _, _ => finish h .badParam .noGraph [] s

/-- The frames that a graph and its variants hold. -/
def graphFrames (g : Graph) : List (Nat × Extent) :=
  (graphPlans g).flatMap fun q => q.hbm.map (fun e => (1, e)) ++ (q.spill ++ q.copy).map fun e => (2, e)

/-- GRAPH_UNLOAD (R120): a graph with an active run or request stays (for requests: assumption log 68); else its frames leave
for the pool, and the end of their scrub completes the command (R119, R187). -/
def applyGraphUnload (c : Instr) (h : Hdr) (handle : Nat) (s : State) : State :=
  let p := polderOf h
  match getPolder s p with
  | none => finish h .notPermitted .wrongPolder [] s
  | some x =>
    match tget x.graphs handle with
    | none => finish h .badParam .noGraph [] s
    | some g =>
      if x.runs.any (·.2.handle = handle) || x.requests.any (·.handle = handle) then
        finish h .notPermitted .runsActive [] s
      else
        let s := releaseGraphs p x [g] (clearGraph p handle (setPolder s p { x with graphs := tdel x.graphs handle }))
        startScrub p .frames (some c) false (graphFrames g)
          { vacate (graphFrames g) s with work.binds := s.work.binds.filter fun b => !(b.polder = p && b.handle = handle) }

/-! ## GRAPH_QUERY_PLACEMENT (R92) -/

/-- Costing point of a class. -/
def costOp (s : State) : Class → Nat
  | .S => 0
  | .Q => s.work.qAdmitOp
  | .B => 7

/-- STATE of the report: 3 while a run's recurrent state is lost or no copy of the weights can be read, 1 while a move is
decided, 2 while the degraded plan is in force, else 0 (R92, R96, R177; their order: assumption log 71). -/
def stateOf (x : Polder) (handle : Nat) (g : Graph) : Nat :=
  if g.copyBad || x.runs.any (fun r => r.2.handle = handle && r.2.restartState) then 3
  else if g.moveAt.isSome then 1
  else if g.degraded then 2
  else 0

/-- Report header, 64 bytes. -/
def reportHeader (s : State) (handle : Nat) (x : Polder) (g : Graph) : List Byte :=
  let cls := x.cls
  le 4 handle ++ le 1 (classCode cls) ++ le 1 (stateOf x handle g) ++ le 2 g.img.tensors.length ++ le 2 g.t ++ le 2 g.d ++
    le 2 (occPm s cls false g.plan.tiles) ++
    le 2 (occPm s cls true g.plan.degraded) ++ le 2 g.plan.tiles.length ++ le 1 (costOp s cls) ++ le 1 0 ++
    le 4 g.replaceCount ++ le 2 (epochOf g.lastCount) ++ le 4 (tnOf g.lastCount) ++ List.replicate 34 0

/-- The KV tensor of a serving graph: the page blocks of its requests in HBM, each shared block once (R245). -/
def kvEntry (x : Polder) (handle : Nat) (t : Tensor) : List Byte :=
  let ps := polderPages { x with requests := x.requests.filter fun r => r.handle = handle }
  let held := (ps.map fun q => if q.2.tier = 1 then q.1 else 0).sum
  let residency := if ps.any (·.2.state = 1) then 1 else if ps.any (·.2.state = 2) then 2 else 0
  le 4 t.id ++ le 1 1 ++ le 1 residency ++ le 2 0 ++ le 8 (4096 * held)

/-- Tensor entry, 16 bytes. A tensor that nothing has been written to since the load is not yet written; weights are written
with it. -/
def tensorEntry (x : Polder) (handle : Nat) (g : Graph) (t : Tensor) : List Byte :=
  if t.role = .kv && x.cls ≠ .S then kvEntry x handle t
  else
    let tier := (g.plan.tiers.find? (·.1 = t.id)).map (·.2) |>.getD 0
    let residency := if t.role ≠ .weight && t.id ∉ g.touched then 3 else if tier = 2 then 1 else 0
    le 4 t.id ++ le 1 tier ++ le 1 residency ++ le 2 0 ++ le 8 t.bytes

/-- Tile entries, for PF0 only: a Class S graph's tiles on every channel's stack. -/
def tileEntries (s : State) (cls : Class) (g : Graph) : List Byte :=
  let one (stack : Nat) (u : TileUse) : List Byte := le 1 stack ++ le 1 u.tile ++ le 2 ((occAt u (costOp s cls) + 999) / 1000)
  if cls = .S then (channelStacks s).flatMap fun k => g.plan.tiles.flatMap (one k)
  else g.plan.tiles.flatMap fun u => one u.stack u

/-- The whole report. -/
def placementReport (s : State) (pf0 : Bool) (handle : Nat) (x : Polder) (g : Graph) : List Byte :=
  reportHeader s handle x g ++ g.img.tensors.flatMap (tensorEntry x handle g) ++
    (if pf0 then tileEntries s x.cls g else [])

/-- GRAPH_QUERY_PLACEMENT at its edge. -/
def applyGraphQueryPlacement (h : Hdr) (handle : Nat) (buf : Buf) (s : State) : State :=
  let p := polderOf h
  match getPolder s p, getGraph s p handle with
  | some x, some g =>
    let r := placementReport s (isPf0 h.fn) handle x g
    if buf.len < r.length then finish h .badParam .bufferShort (le 4 r.length) s
    else if buf.fault then finish h .badParam .bufferFault [] s
    else finish h .ok .none (le 4 r.length) (hostWrite h.fn buf.addr r s)
  | _, _ => finish h .badParam .noGraph [] s

/-! ## SAFETY_PROFILE_SET and GOLDEN_SET -/

/-- SAFETY_PROFILE_SET at its edge (R79, R80, R476): only while nothing is admitted and every loaded graph still fits. -/
def applySafetyProfileSet (h : Hdr) (share op : Nat) (s : State) : State :=
  if workAdmitted s || s.tide.change.isSome then finish h .notPermitted .busyAdmitted [] s
  else
    match recost s { envNow s with sShare := share, qOp := op } with
    | some x => finish h .overrunRisk x.2.2 (recostPayload x) s
    | none =>
      finish h .ok .none []
        { setOffsets s.tide.swellLen false s with
          work.sShare := share, work.qAdmitOp := op, flash.recSafety := ⟨s.flash.settingsFormat, share, op⟩ }

/-- GOLDEN_SET at its edge: the expected digest is stored, and the next golden run learns (R351). -/
def applyGoldenSet (h : Hdr) (handle : Nat) (digest : BitVec 128) (s : State) : State :=
  let p := polderOf h
  match getGraph s p handle with
  | some g =>
    finish h .ok .none []
      (setGraph s p handle { g with golden := g.golden.map fun y => { y with expected := digest, learning := true } })
  | none => finish h .badParam .noGraph [] s

/-! ## Meanings -/

def execGraphLoad (h : Hdr) (handle t d imageLen : Nat) (img : Image) (s : State) : Host.Outcome State Fault Refusal :=
  fetched (.graphLoad h handle t d imageLen img) h id s

def execGraphUnload (h : Hdr) (handle : Nat) (s : State) : Host.Outcome State Fault Refusal :=
  fetched (.graphUnload h handle) h id s

def execGraphQueryPlacement (h : Hdr) (handle : Nat) (buf : Buf) (s : State) : Host.Outcome State Fault Refusal :=
  fetched (.graphQueryPlacement h handle buf) h id s

def execModelVariantAdd (h : Hdr) (handle variant imageLen : Nat) (img : Image) (s : State) :
    Host.Outcome State Fault Refusal :=
  fetched (.modelVariantAdd h handle variant imageLen img) h id s

def execSafetyProfileSet (h : Hdr) (sShare qAdmit : Nat) (s : State) : Host.Outcome State Fault Refusal :=
  fetched (.safetyProfileSet h sShare qAdmit) h id s

def execGoldenSet (h : Hdr) (handle : Nat) (digest : BitVec 128) (s : State) : Host.Outcome State Fault Refusal :=
  fetched (.goldenSet h handle digest) h id s

end Sys2Proof.Machine
end

