-- ==== Sys2Proof/Machine/Tide.lean ====
section
/-! DEFINITION. Machine/Tide.lean: the tide's values and labels: SET_TIDE, TIDE_PRESET and their forwarding over Levee,
SET_TIMEBASE, gPTP, and the alignment fault (R37 to R56, R129, R130, R388, R389, R476). -/

namespace Sys2Proof.Machine

/-! ## Seconds and edges -/

/-- The first whole gPTP second that is at least 2 s after now, where now lies within the tide in progress. Where a whole second
falls within that tide, whether it has passed is free (assumption log 69). -/
def secondAfter (s : State) : Nat :=
  let q := (s.tide.nowQ / 4000 + 3) * 4000
  if (s.tide.nowQ + s.tide.periodQ - 1) / 4000 ≠ s.tide.nowQ / 4000 && Config.secondPassed s.fresh then q + 4000 else q

/-- The first whole second from `q` on that is an edge of the grid in force (R54). -/
def edgeSecond (s : State) : Nat → Nat → Nat
  | 0, q => q
  | f + 1, q => if (q - s.tide.originQ) % max s.tide.periodQ 1 = 0 then q else edgeSecond s f (q + 4000)

/-- Elapsed tides to the first edge at or after a time. -/
def tidesTo (s : State) (q : Nat) : Nat := (q - s.tide.nowQ + s.tide.periodQ - 1) / max s.tide.periodQ 1

/-! ## Levee members (R129, R130) -/

/-- Members of the installation: the peers of live associations. -/
def members (s : State) : List Nat := (s.links.assocs.filter (·.2.live)).map (·.1)

def statusOfCode (n : Nat) : Status :=
  match n with
  | 0x00 => .ok
  | 0x11 => .badParam
  | 0x12 => .notPermitted
  | 0x20 => .noFit
  | 0x21 => .overrunRisk
  | 0x22 => .quota
  | 0x30 => .cancelled
  | _ => .notPermitted

/-- Forward a command to every member, with the origin's own counter as SEQ (R129). -/
def forwardCmd (c : Instr) (f : Forwarded) (s : State) : State :=
  emit (.forwarded (s.flash.index.getD 0) s.links.forwardSeq f)
    { s with links.forwardSeq := s.links.forwardSeq + 1,
             links.forwards := s.links.forwards ++
               [(⟨c, s.links.forwardSeq, members s, [], []⟩ : ForwardWait)] }

/-! ## SET_TIDE (R54, R80, R476) -/

/-- The refusal of a period change by this member: status, reason and payload. -/
def tideRefusal (s : State) (q w : Nat) : Option (Status × Reason × List Byte) :=
  if busyAdmitted s || s.tide.change.isSome then some (.notPermitted, .busyAdmitted, [])
  else
    match recost s { envNow s with periodQ := q, swellLen := w } with
    | some x => some (.overrunRisk, x.2.2, recostPayload x)
    | none => none

/-- Accept a period change; `cmd` is answered at the first tide of the new period. One that is not firm waits for the other
members (R54, R130). -/
def acceptTide (q w : Nat) (cmd : Option Instr) (firm : Bool) (s : State) : State :=
  setOffsets w true { s with tide.change := some ⟨q, w, edgeSecond s 64 (secondAfter s), cmd, firm⟩ }

/-- The golden offsets of a period change that is not made are dropped. -/
def dropOffsets (x : Polder) : Polder :=
  { x with graphs := x.graphs.map fun g => (g.1, { g.2 with goldenNew := none }) }

/-- Withdraw a period change that some member refused. -/
def withdrawTide (s : State) : State :=
  { s with tide.change := none, work.polders := s.work.polders.map fun q => (q.1, dropOffsets q.2) }

/-- SET_TIDE on arrival at its origin. -/
def arriveSetTide (h : Hdr) (q w : Nat) (s : State) : State :=
  match tideRefusal s q w with
  | some (st, r, pay) => finish h st r pay s
  | none =>
    if members s = [] then accept h (acceptTide q w (some (.setTide h q w)) true s)
    else accept h (forwardCmd (.setTide h q w) (.setTide q w) (acceptTide q w none false s))

/-! ## TIDE_PRESET (R55, R56) -/

/-- Decide a relabel, kept in the order of their edges; none where it does not move the count forward. -/
def decideRelabel (count : Nat) (cmd : Option Instr) (firm : Bool) (s : State) : Option State :=
  let q := secondAfter s
  if count ≤ s.tide.count + tidesTo s q then none
  else some { s with tide.relabels := s.tide.relabels ++ [(⟨count, q, cmd, firm⟩ : Relabel)] }

/-- TIDE_PRESET on arrival at its origin, presence being asserted. -/
def arriveTidePreset (h : Hdr) (epoch tn : Nat) (s : State) : State :=
  let c := Instr.tidePreset h epoch tn
  if members s = [] then
    match decideRelabel (epoch * 4294967296 + tn) (some c) true s with
    | some s' => acceptOnce h s'
    | none => finish h .badParam .none [] s
  else
    match decideRelabel (epoch * 4294967296 + tn) none false s with
    | some s' => acceptOnce h (forwardCmd c (.tidePreset epoch tn) s')
    | none => finish h .badParam .none [] s

/-! ## The statuses of members (R130) -/

/-- The failure with the highest installation index. -/
def highestFailure : List (Nat × Nat × Nat) → Option (Nat × Nat × Nat)
  | [] => none
  | x :: r => match highestFailure r with
    | some y => if x.1 < y.1 then some y else some x
    | none => some x

/-- Every member has answered a forwarded command: a failure ends it, and this member's own acceptance with it; on
success the command is answered at its effect's edge. -/
def settleForward (f : ForwardWait) (s : State) : State :=
  let s := { s with links.forwards := s.links.forwards.filter fun x => x.seq ≠ f.seq }
  match highestFailure f.failed with
  | some (m, st, _) =>
    let s := match f.cmd with
      | .setTide _ _ _ => withdrawTide s
      | .tidePreset _ e t => { s with tide.relabels := s.tide.relabels.filter fun r =>
          !(!r.firm && r.count = e * 4294967296 + t) }
      | _ => s
    finishCmd f.cmd (statusOfCode st) .peerFailed (le 2 m) s
  | none =>
    match f.cmd with
    | .setTide _ _ _ => { s with tide.change := s.tide.change.map fun c => { c with cmd := some f.cmd, firm := true } }
    | .tidePreset _ e t => { s with tide.relabels := s.tide.relabels.map fun r =>
        if !r.firm && r.count = e * 4294967296 + t then { r with cmd := some f.cmd, firm := true } else r }
    | _ => s

/-- A member's status for a forwarded command of this origin. -/
def memberStatus (member : Nat) (seq : Word) (status reason : Nat) (s : State) : State :=
  match s.links.forwards.find? (·.seq = seq) with
  | none => s
  | some f =>
    if member ∈ f.waiting then
      let f := { f with waiting := f.waiting.filter (· ≠ member),
                        failed := if status = 0 then f.failed else f.failed ++ [(member, status, reason)] }
      if f.waiting = [] then settleForward f s
      else { s with links.forwards := s.links.forwards.map fun x => if x.seq = seq then f else x }
    else s

/-- PEER_FAILED: a member has not answered within 1 ms, and counts as failed with ST_NOT_PERMITTED. -/
def execPeerFailed (member : Nat) (s : State) : Host.Outcome State Fault Refusal :=
  .next (s.links.forwards.foldl (fun st f => memberStatus member f.seq (statusCode .notPermitted) 0 st) s)

/-! ## Time sources (R43 to R46, R389, R390) -/

def getJudge (s : State) (k : Nat) : Judge := (tget s.clocks.judges k).getD {}
def setJudge (s : State) (k : Nat) (j : Judge) : State := { s with clocks.judges := tset s.clocks.judges k j }

/-- The up port with the fewest hops to the keeper; among equal ports the higher number (R389). -/
def keeperPort (s : State) : Option Nat :=
  let hopsOf (n : Nat) : Option Nat :=
    if (getPort s n).state = 2 then
      ((s.links.assocs.filter fun a => a.2.live && n ∈ a.2.ports).map (·.2.hops)).foldl
        (fun m h => some (match m with
          | some x => min x h
          | none => h)) none
    else none
  ((List.range 8).foldl (fun best n =>
    match hopsOf n, best with
    | some h, some (_, b) => if h ≤ b then some (n, h) else best
    | some h, none => some (n, h)
    | none, _ => best) none).map (·.1)

/-- The judged oscillator that the selected source names: 0 the TCXO, 1 and 2 the 10GBASE-T1 receivers, 3 to 10 the
Levee receivers. The keeper of a SOURCE 3 installation uses the TCXO. -/
def wantedRef (s : State) : Nat :=
  match s.time.source with
  | 1 => 1
  | 2 => 2
  | 3 => if s.time.state = .follow || s.time.state = .holdover then ((keeperPort s).map (· + 3)).getD 0 else 0
  | _ => 0

/-- REFSEL takes the wanted input once it has been judged stable, and the TCXO otherwise (R389, R390). -/
def chooseRef (s : State) : State :=
  let w := wantedRef s
  { s with clocks.refsel := if w = 0 || (getJudge s w).stable then w else 0 }

/-- Some path to a member is left: a live association with it, or with a peer that follows it (R44, R389). -/
def pathTo (s : State) (k : Nat) : Bool :=
  s.links.assocs.any fun a => a.2.live && decide (a.2.ports ≠ []) &&
    (a.1 = k || (a.2.lastTide.isSome && a.2.keeper = k && decide (a.2.hops < 255)))

/-- With SOURCE 3, a module in FOLLOW that loses every path to its keeper enters HOLDOVER (R44). -/
def checkFollow (s : State) : State :=
  if s.time.source = 3 && s.time.state = .follow && !s.time.keeper.any (pathTo s) then
    { s with time.state := .holdover }
  else s

/-- SET_TIMEBASE on arrival: a newly selected source starts from FREE or ACQUIRE (R43, R44); the record is rewritten. -/
def arriveSetTimebase (h : Hdr) (src dom : Nat) (s : State) : State :=
  let s := { s with flash.recTime := ⟨s.flash.settingsFormat, src, dom⟩ }
  let s := if s.time.source = src && s.time.domain = dom then s
    else { s with
      time.source := src
      time.domain := dom
      time.goodSyncs := 0
      time.state := if src = 1 || src = 2 then .acquire else .free }
  finish h .ok .none [] (chooseRef s)

/-- GPTP_SYNC on the selected port and domain: the offset, and after 16 intervals within 100 ns the LOCKED state. -/
def execGptpSync (port domain : Nat) (offsetNs : Int) (s : State) : Host.Outcome State Fault Refusal :=
  .next (
    if (s.time.source = 1 || s.time.source = 2) && port = s.time.source && domain = s.time.domain then
      let good := if offsetNs.natAbs ≤ 100 then min 16 (s.time.goodSyncs + 1) else 0
      { s with
        time.offsetNs := offsetNs
        time.goodSyncs := good
        time.state := if good = 16 && (s.time.state = .acquire || s.time.state = .holdover) then .locked
          else s.time.state }
    else s)

/-- SYNC_TIMEOUT: no valid Sync for 1 s while locked. -/
def execSyncTimeout (s : State) : Host.Outcome State Fault Refusal :=
  .next (if (s.time.source = 1 || s.time.source = 2) && s.time.state = .locked then
    { s with time.state := .holdover, time.goodSyncs := 0 }
  else { s with time.goodSyncs := 0 })

/-- TIME_ALIGN_FAULT: set after 16 tides out of 200 ns, cleared after 16 within (R42). -/
def execTimeAlignFault (s : State) : Host.Outcome State Fault Refusal :=
  .next (if 16 ≤ s.time.outTides then { s with time.alignFault := true }
    else if 16 ≤ s.time.inTides then { s with time.alignFault := false }
    else s)

/-- At each edge, count the tides out of and within 200 ns of the keeper's edges. -/
def countAlign (offset : Int) (s : State) : State :=
  if 200 < offset.natAbs then { s with time.outTides := s.time.outTides + 1, time.inTides := 0 }
  else { s with time.inTides := s.time.inTides + 1, time.outTides := 0 }

/-! ## Meanings -/

def execSetTide (h : Hdr) (periodQ swellLen : Nat) (s : State) : Host.Outcome State Fault Refusal :=
  fetched (.setTide h periodQ swellLen) h (arriveSetTide h periodQ swellLen) s

def execSetTimebase (h : Hdr) (source domain : Nat) (s : State) : Host.Outcome State Fault Refusal :=
  fetched (.setTimebase h source domain) h (arriveSetTimebase h source domain) s

def execTidePreset (h : Hdr) (epoch tn : Nat) (s : State) : Host.Outcome State Fault Refusal :=
  fetched (.tidePreset h epoch tn) h (arriveTidePreset h epoch tn) s

end Sys2Proof.Machine
end

