-- ==== Sys2Proof/Machine/Presence.lean ====
section
/-! DEFINITION. Machine/Presence.lean: physical presence and the command that it releases, the seal, the secure parts'
wipes and the sessions they end (R24, R27, R126, R127, R201, R202, R428, R429, R436). -/

namespace Sys2Proof.Machine

/-! ## Sessions and wipes -/

/-- The end of a function's SPDM session: its bounce-mode sluices fault and stop (R436). -/
def endSession (fn : Fn) (s : State) : State :=
  let f := getFunc s fn
  if !f.session then s
  else
    (sluicesOf s fn).foldl (fun st n =>
      let x := getSluice st fn n
      if x.devMem && x.enable then setSluice st fn n { x with ringFault := true, bounceStopped := true } else st)
      (setFunc s fn { f with session := false })

/-- Every function that exists, by its place in the tables. -/
def everyFn : List Fn := [.pf0, .pf0b] ++ (List.range 64).map Fn.vf

/-- End every SPDM session (R202, R426, R458). -/
def endSessions (s : State) : State := everyFn.foldl (fun st fn => endSession fn st) s

/-- First address of a scratchpad's secure part, its top 512 KiB (R196). -/
def secureBase (io : Nat) : Nat := scrBase io + 8388608 - 524288

/-- Start a wipe of one secure part: it reads zero at once (R201). -/
def wipeScr (io cause : Nat) (s : State) : State :=
  let x := getScr s io
  setScr { s with mem.cells := clearRange s.mem.cells (secureBase io) (secureBase io + 524288) } io
    { x with wiping := true, cause := cause, wipes := min 65535 (x.wipes + 1) }

/-- Presence deasserts. -/
def dropPresence (s : State) : State := { s with aon.presence := false, aon.window := 0, aon.windowQ := 0 }

/-- Wipe both secure parts: presence deasserts and every SPDM session ends (R201, R202, R429). -/
def wipeSecure (cause : Nat) (s : State) : State :=
  let s := dropPresence s
  if mainUp s then moduleEvent 1 512 (moduleEvent 0 512 (endSessions (wipeScr 1 cause (wipeScr 0 cause s)))) else s

/-- The seal breaks: BROKEN, BREAKS, and a wipe (R27, R201). -/
def breakSeal (s : State) : State :=
  if s.aon.sense then
    wipeSecure 1 { s with aon.sense := false, aon.broken := true, aon.breaks := min 65535 (s.aon.breaks + 1) }
  else s

def execSealBreak (s : State) : Host.Outcome State Fault Refusal := .next (breakSeal s)

/-- GLITCH_DETECT: a voltage glitch or a clock glitch. -/
def execGlitchDetect (clock : Bool) (s : State) : Host.Outcome State Fault Refusal :=
  .next (if mainUp s then wipeSecure (if clock then 3 else 2) s else s)

/-- WIPE_DONE: the secure part is reachable again. -/
def execWipeDone (io : Nat) (s : State) : Host.Outcome State Fault Refusal :=
  .next (if io < 2 then setScr s io { getScr s io with wiping := false } else s)

/-! ## The held command (R126) -/

/-- The effect on arrival of a presence-gated command that has one: TIDE_PRESET. -/
def gatedArrival (c : Instr) : State → State :=
  match c with
  | .tidePreset h e t => arriveTidePreset h e t
  | _ => id

/-- Release the held command: the tide in which presence is first asserted becomes its intake tide. -/
def releaseHeld (s : State) : State :=
  match s.aon.held with
  | none => s
  | some o =>
    let s := { s with aon.held := none }
    match hdrOf o.cmd, opInfo o.cmd with
    | some h, some i =>
      let x := getSluice s h.fn h.sluice
      let s := setSluice s h.fn h.sluice
        { x with owed := x.owed.map fun e => if e.seq = h.seq then { e with intakeIx := s.tide.ix } else e }
      proceed o.cmd i h true (gatedArrival o.cmd) (markApplied h s)
    | _, _ => s

/-- PRESENCE_HOLD_TIMEOUT: 120 s have passed. -/
def execPresenceHoldTimeout (s : State) : Host.Outcome State Fault Refusal :=
  .next (match s.aon.held with
    | some o => finishCmd o.cmd .presenceRequired .presenceTimeout [] { s with aon.held := none }
    | none => s)

/-! ## Presence (R24, R428, R429) -/

/-- PRESENCE_ASSERT: the jumper read low for 10 ms on a V fit; the button held for 1 s on a C fit, which breaks the
seal first. A press after a stuck button counts only once the button has been released. -/
def execPresenceAssert (s : State) : Host.Outcome State Fault Refusal :=
  .next (
    if !s.aon.up then s
    else if s.ident.cabinet then
      if s.aon.buttonLockout then s
      else releaseHeld (pinLevel 2 { breakSeal s with aon.presence := true, aon.buttonHeld := true, aon.window := 60, aon.windowQ := 0 })
    else releaseHeld (pinLevel 1 { s with aon.presence := true }))

/-- PRESENCE_DEASSERT: the jumper high for 10 ms, or 60 s after the button's release. -/
def execPresenceDeassert (s : State) : Host.Outcome State Fault Refusal :=
  .next (if s.ident.cabinet then (if s.aon.buttonHeld then s else dropPresence s) else pinLevel 1 (dropPresence s))

/-- BUTTON_STUCK: the service button held for 30 s. -/
def execButtonStuck (s : State) : Host.Outcome State Fault Refusal :=
  .next (if s.ident.cabinet && s.aon.buttonHeld then
    recordBreach 0x18 0 255 255 255 0 0 { dropPresence s with aon.buttonLockout := true }
  else s)

/-- BUTTON_RELEASE: the 60 s window starts, and a stuck-button lockout ends. -/
def execButtonRelease (s : State) : Host.Outcome State Fault Refusal :=
  .next (if s.ident.cabinet then
    pinLevel 2
      { s with
        aon.buttonHeld := false
        aon.buttonLockout := false
        aon.windowQ := if s.aon.presence then 240000 else s.aon.windowQ }
  else s)

/-- The presence window counts down with each tide (R429). -/
def countWindow (s : State) : State :=
  if s.ident.cabinet && s.aon.presence && !s.aon.buttonHeld then
    let q := s.aon.windowQ - s.tide.periodQ
    { s with aon.windowQ := q, aon.window := (q + 3999) / 4000 }
  else s

end Sys2Proof.Machine
end

