-- ==== Sys2Proof/Machine/Security.lean ====
section
/-! DEFINITION. Machine/Security.lean: the life cycle, DEBUG_UNLOCK, attestation and SPDM, IDE and TDISP
(R424 to R443). -/

namespace Sys2Proof.Machine

/-! ## Moving TDIs and associations -/

/-- Move a TDI that is locked or running to ERROR (R434). -/
def tdiError (p : Nat) (s : State) : State := if getTdi s p = 1 || getTdi s p = 2 then setTdi s p 3 else s

/-- Move every locked or running TDI to ERROR (R426, R434, R458). -/
def tdisError (s : State) : State := (List.range 64).foldl (fun st p => tdiError p st) s

/-- Take every association down with a cause: no port has one that authenticates (R413). -/
def dropAssocs (cause : Nat) (s : State) : State :=
  let down (x : Port) : Port := if x.state = 2 then { x with state := 3, cause := cause } else x
  checkFollow { s with
    links.assocs := s.links.assocs.map fun a => (a.1, { a.2 with live := false, cause := cause })
    links.ports := s.links.ports.map fun p => (p.1, down p.2) }

/-- Put every port down with a cause. -/
def portsDownAll (cause : Nat) (s : State) : State :=
  (List.range 8).foldl (fun st n =>
    setPort st n { getPort st n with state := 0, lanes := 0, step := 0, cause := cause }) s

/-! ## LIFECYCLE_ADVANCE (R425 to R427, R438) -/

/-- The reason for which a transition is refused, or none. -/
def transitionFault (s : State) (target : Nat) : Option Reason :=
  if target = 1 && s.ident.debugOpen then some .lifecycle
  else
    match s.ident.lifecycle, target with
    | .blank, 1 => if s.ident.rootsFused then none else some .lifecycle
    | .sealed, 2 => if 64 ≤ s.ident.serviceEntries then some .counterExhausted else none
    | .service, 1 => none
    | .sealed, 3 => none
    | .service, 3 => none
    | _, _ => some .lifecycle

/-- The effects of every change of state (R426). -/
def changeLifecycle (l : Lifecycle) (s : State) : State := tdisError (wipeSecure 4 { s with ident.lifecycle := l })

/-- Destroy every polder (R100). -/
def destroyAll (s : State) : State := (polderNumbers s).foldl (fun st p => resetPolder p true none false st) s

/-- LIFECYCLE_ADVANCE at its edge. -/
def applyLifecycleAdvance (c : Instr) (h : Hdr) (target : Nat) (s : State) : State :=
  if activationBlocks s then finish h .notPermitted .none [] s
  else
    match transitionFault s target with
    | some r => finish h .notPermitted r [] s
    | none =>
      if target = 1 then finish h .ok .none [] (changeLifecycle .sealed s)
      else if target = 2 then
        finish h .ok .none [] (changeLifecycle .service { s with ident.serviceEntries := s.ident.serviceEntries + 1 })
      else
        startScrub 64 .decommission none false (wholeTier 1 ++ wholeTier 2)
          (portsDownAll 1 (dropAssocs 1
            { destroyAll (changeLifecycle .decommissioned s) with work.pfx := [], startup.decommissioning := some c }))

/-- The end of decommissioning: the settings and epoch records are erased and the fuse is burned (R427). -/
def decommissioned (s : State) : State :=
  let s := { s with
    flash.recTide := ⟨s.flash.settingsFormat, 4, 50⟩
    flash.recTime := ⟨s.flash.settingsFormat, 0, 0⟩
    flash.recSafety := ⟨s.flash.settingsFormat, 8, 7⟩
    flash.recPorts := ⟨s.flash.settingsFormat, 255, 0⟩
    flash.epochRec := 0
    ident.decommissionFuse := true }
  match s.startup.decommissioning with
  | some c => finishCmd c .ok .none [] { s with startup.decommissioning := none }
  | none => s

/-! ## DEBUG_UNLOCK (R437) -/

/-- DEBUG_UNLOCK at its edge. -/
def applyDebugUnlock (c : Instr) (h : Hdr) (s : State) : State :=
  if activationBlocks s then finish h .notPermitted .none [] s
  else if 32 ≤ s.ident.debugUnlocks then finish h .notPermitted .counterExhausted [] s
  else
    let s := destroyAll s
    let s := wipeSecure 5 (dropAssocs 1 { s with work.pfx := [], startup.unlocking := some c })
    startScrub 64 .debug none false [] (tdisError s)

/-- A warden returns to ARMED and stays there while warden debug is open. -/
def toArmed (x : WardenSt) : WardenSt :=
  match x.state with
  | .off | .boot => x
  | _ => { x with state := .armed }

/-- The end of the unlock's scrub: debug opens. -/
def unlocked (s : State) : State :=
  match s.startup.unlocking with
  | some c =>
    let scope := match c with
      | .debugUnlock _ n => n
      | _ => 0
    let s := { s with
      ident.debugDerivation := true
      ident.debugOpen := true
      ident.debugUnlocks := s.ident.debugUnlocks + 1
      startup.unlocking := none }
    let s := if scope = 1 then
        { s with ident.wardenDebug := true, wardens.a := toArmed s.wardens.a, wardens.b := toArmed s.wardens.b }
      else s
    finishCmd c .ok .none [] s
  | none => s

/-! ## The attestation report (R440, R441) -/

/-- Bytes of a block with its header. -/
def block (index : Nat) (bs : List Byte) : List Byte := le 4 index ++ le 4 bs.length ++ bs

/-- Characters of the order code KN-9640-i-ffff (R1). -/
def hexDigit (n : Nat) : Nat := if n < 10 then 48 + n else 55 + n
def orderCode (s : State) : List Byte :=
  let f := s.ident.fleet
  [0x4B, 0x4E, 0x2D, 0x39, 0x36, 0x34, 0x30, 0x2D, (if s.ident.cabinet then 0x43 else 0x56), 0x2D] ++
    [f / 4096 % 16, f / 256 % 16, f / 16 % 16, f % 16].map (fun d => BitVec.ofNat 8 (hexDigit d))

def identityBlock (s : State) : List Byte :=
  padTo 48 (padTo 16 (orderCode s) ++ le 6 s.ident.serial ++ le 2 (s.flash.index.getD 0) ++ le 4 s.ident.fwVersion ++
    le 2 s.ident.fleet ++ le 1 (if s.ident.cabinet then 0x43 else 0x56))

/-- Key fingerprints and the check values of the link root, the memory root and the firmware-image key. -/
def fingerprintBlock (s : State) : List Byte :=
  le 48 (Config.sha384 Config.rsaPublic).toNat ++ le 48 (Config.sha384 Config.slhPublic).toNat ++
    [1, 0, 2].flatMap fun k => le 8 (rootCheck s k)

/-- Active part i in manifest order, the manifest last: KIND, version and digest. Those of the firmware that the module ships with
are free (assumption log 6). -/
def activePart (s : State) (i : Nat) : Nat × Nat × BitVec 384 :=
  (s.ident.parts[i]?).getD (i + 1, if i = 6 then s.ident.fwVersion else Config.partVersion s.ident.fwVersion i,
    Config.partDigest s.ident.fwVersion i)

def firmwareBlock (s : State) : List Byte :=
  (List.range 7).flatMap fun i =>
    let p := activePart s i
    le 1 p.1 ++ le 1 i ++ le 2 0 ++ le 4 p.2.1 ++ le 48 p.2.2.toNat

def stateBlock (s : State) : List Byte :=
  padTo 16 (le 1 (lifecycleCode s.ident.lifecycle) ++
    le 1 (bitAt 0 s.ident.debugOpen + bitAt 1 s.aon.broken + bitAt 2 s.ident.wardenDebug) ++ le 2 s.ident.antiRollback ++
    le 1 s.ident.serviceEntries ++ le 1 s.ident.debugUnlocks ++ le 2 s.aon.breaks ++ le 2 (keyCounter s 64))

/-- One entry of the polder layout; generation and group only for the requester or PF0 (R441). -/
def polderEntry (s : State) (asker : Option Nat) (p : Nat) : List Byte :=
  match getPolder s p with
  | none => padTo 16 (le 1 255 ++ le 1 (p + 1) ++ le 1 0 ++ le 1 (getTdi s p))
  | some x =>
    let own := asker.isNone || asker = some p
    padTo 16 (le 1 (classCode x.cls) ++ le 1 (p + 1) ++ le 1 x.sluices ++ le 1 (getTdi s p) ++ le 2 x.sramQuota ++
      le 2 x.hbmQuota ++ le 2 x.spillQuota ++ le 2 (if own then x.keyGen else 0) ++ le 2 (if own then x.group else 0) ++
      le 1 x.bwWeight)

/-- The polder that asks; none for PF0. -/
def askerOf : Fn → Option Nat
  | .vf p => some p
  | _ => none

/-- Measurement blocks 1 to 5. -/
def measurementBlocks (s : State) (fn : Fn) : List Byte :=
  block 1 (identityBlock s) ++ block 2 (fingerprintBlock s) ++ block 3 (firmwareBlock s) ++
    block 4 (stateBlock s) ++ block 5 ((List.range 64).flatMap (polderEntry s (askerOf fn)))

/-- Bytes of the report with seven firmware parts (R440). -/
def reportLength : Nat := 37752

/-- The report: header, blocks and both signatures. -/
def attestReport (s : State) (fn : Fn) (nonce : BitVec 256) : List Byte :=
  let head := padTo 64 (le 2 1 ++ le 2 5 ++ le 4 reportLength ++ le 2 (epochOf s.tide.count) ++ le 4 (tnOf s.tide.count) ++
    le 1 (if isPf0 fn then 0 else 1) ++ le 1 ((askerOf fn).getD 255) ++ le 32 nonce.toNat)
  let body := head ++ measurementBlocks s fn
  body ++ padTo 384 (Config.rsaSign body) ++ padTo 35664 (Config.slhSign body)

/-- A signing request of the function is outstanding (R442). -/
def signingBusy (s : State) (fn : Fn) : Bool := (getFunc s fn).signing.isSome || (getFunc s fn).spdmSigning

/-- ATTEST on arrival: the blocks are captured and a signing is queued. -/
def arriveAttest (h : Hdr) (nonce : BitVec 256) (buf : Buf) (s : State) : State :=
  if buf.len < reportLength then finish h .badParam .bufferShort (le 4 reportLength) s
  else if signingBusy s h.fn then finish h .notPermitted .none [] s
  else
    accept h (setFunc s h.fn { getFunc s h.fn with
      signing := some ⟨.attest h nonce buf, s.tide.ix⟩, captured := attestReport s h.fn nonce })

/-- ATTEST_SIGNED: the security engine ends a function's signing; the report or the SPDM message goes out. -/
def execAttestSigned (fn : Fn) (s : State) : Host.Outcome State Fault Refusal :=
  .next (
    let f := getFunc s fn
    if !mainUp s then s
    else match f.signing with
    | some o =>
      match o.cmd with
      | .attest h _ buf =>
        let s := setFunc s fn { f with signing := none, captured := [] }
        if buf.fault then finish h .badParam .bufferFault [] s
        else finish h .ok .none (le 4 f.captured.length) (hostWrite fn buf.addr f.captured s)
      | _ => s
    | none =>
      if f.spdmSigning then emit (.spdm fn false f.captured) (setFunc s fn { f with spdmSigning := false, captured := [] })
      else s)

/-- An SPDM request to sign a message: Busy while a signing is outstanding (R442). -/
def spdmSign (fn : Fn) (message : List Byte) (s : State) : State :=
  if !reachable s fn then s
  else if signingBusy s fn then emit (.spdm fn true []) s
  else setFunc s fn { getFunc s fn with spdmSigning := true, captured := message }

/-- GET_MEASUREMENTS: blocks 1 to 5, index 0xEF, and the response's own signature (R440). -/
def execGetMeasurements (fn : Fn) (nonce : BitVec 256) (s : State) : Host.Outcome State Fault Refusal :=
  .next (
    let blocks := measurementBlocks s fn
    let digest := le 48 (Config.sha384 (le 32 nonce.toNat ++ blocks)).toNat
    let body := blocks ++ block 0xEF (padTo 35664 (Config.slhSign digest))
    spdmSign fn (body ++ padTo 384 (Config.rsaSign (le 32 nonce.toNat ++ body))) s)

/-- CHALLENGE: a signature over the nonce and the measurements. -/
def execChallenge (fn : Fn) (nonce : BitVec 256) (s : State) : Host.Outcome State Fault Refusal :=
  .next (spdmSign fn (padTo 384 (Config.rsaSign (le 32 nonce.toNat ++ measurementBlocks s fn))) s)

/-- KEY_EXCHANGE and FINISH open a session on a function that exists (R439). -/
def execKeyExchange (fn : Fn) (s : State) : Host.Outcome State Fault Refusal :=
  .next (if reachable s fn then setFunc s fn { getFunc s fn with session := true } else s)

def execSpdmSessionEnd (fn : Fn) (s : State) : Host.Outcome State Fault Refusal := .next (endSession fn s)

/-! ## IDE and TDISP (R433 to R435) -/

/-- The x4 link that carries a function. -/
def linkOf : Fn → Nat
  | .pf0 => 0
  | .pf0b => 1
  | .vf p => p / 32

/-- Selective IDE streams of a link, or of both. -/
def streamCount (s : State) (link : Option Nat) : Nat :=
  (everyFn.map fun fn => if link.isNone || link = some (linkOf fn) then (getFunc s fn).ideStreams.length else 0).sum

/-- IDE_KM inside a session programs a stream: at most 4 on a x4 link and 8 in all. -/
def execIdeKm (fn : Fn) (stream : Nat) (s : State) : Host.Outcome State Fault Refusal :=
  .next (
    let f := getFunc s fn
    if !f.session || !reachable s fn || stream ∈ f.ideStreams then s
    else if 8 ≤ streamCount s none || (s.host.bifurcated && 4 ≤ streamCount s (some (linkOf fn))) then s
    else setFunc s fn { f with ideStreams := stream :: f.ideStreams })

/-- A TDISP request of a virtual function that the host can reach changes its TDI, or is refused. -/
def tdispMove (p : Nat) (ok : Bool) (next : Nat) (s : State) : State :=
  if !reachable s (.vf p) then s
  else if ok then emit (.tdisp p true []) (setTdi s p next)
  else emit (.tdisp p false []) s

def execLockInterfaceRequest (p : Nat) (s : State) : Host.Outcome State Fault Refusal :=
  .next (tdispMove p (getTdi s p = 0) 1 s)

def execStartInterfaceRequest (p : Nat) (s : State) : Host.Outcome State Fault Refusal :=
  .next (tdispMove p (getTdi s p = 1) 2 s)

/-- GET_DEVICE_INTERFACE_REPORT: one MMIO range, the 64 KiB BAR0 block. -/
def execGetDeviceInterfaceReport (p : Nat) (s : State) : Host.Outcome State Fault Refusal :=
  .next (if !reachable s (.vf p) then s
  else if getTdi s p = 1 || getTdi s p = 2 then
    emit (.tdisp p true (le 4 1 ++ le 8 0 ++ le 4 65536)) s
  else emit (.tdisp p false []) s)

/-- STOP_INTERFACE_REQUEST: a polder reset at the next edge; the response waits for its scrub, or for the scrub that
is already running (R435, R443). With no polder there is nothing to scrub. R58 gives it no place in the merge order; the model's
tag is that of a function-level reset (DESIGN CHOICE, assumption log 68). -/
def execStopInterfaceRequest (p : Nat) (s : State) : Host.Outcome State Fault Refusal :=
  .next (
    if !reachable s (.vf p) then s
    else if getTdi s p = 0 then emit (.tdisp p false []) s
    else
      match getPolder s p with
      | none => emit (.tdisp p true []) (setTdi s p 0)
      | some x =>
        if x.resetting then
          { s with work.scrubs := s.work.scrubs.map fun j =>
              if j.polder = p && j.kind ≠ .frames then { j with tdisp := true } else j }
        else
          { s with tide.queued := s.tide.queued ++
              [(⟨.stopInterfaceRequest p, s.tide.ix, s.tide.ix + 1,
                ⟨epochOf s.tide.count, tnOf s.tide.count, 1, s.flash.index.getD 0, 16 * p + 15, 0xFFFFFFFF⟩⟩ : Queued)] })

def execIdeIntegrityFailure (p : Nat) (s : State) : Host.Outcome State Fault Refusal := .next (tdiError p s)

/-! ## Meanings of the commands -/

def execAttest (h : Hdr) (nonce : BitVec 256) (buf : Buf) (s : State) : Host.Outcome State Fault Refusal :=
  fetched (.attest h nonce buf) h (arriveAttest h nonce buf) s

def execLifecycleAdvance (h : Hdr) (target : Nat) (s : State) : Host.Outcome State Fault Refusal :=
  fetched (.lifecycleAdvance h target) h id s

def execDebugUnlock (h : Hdr) (scope : Nat) (s : State) : Host.Outcome State Fault Refusal :=
  fetched (.debugUnlock h scope) h id s

end Sys2Proof.Machine
end

