-- ==== Sys2Proof/Machine/Admin.lean ====
section
/-! DEFINITION. Machine/Admin.lean: the commands that report: IDENTIFY, GET_HEALTH, GET_TELEMETRY, BREACH_LOG_READ and
SELFTEST_REPORT, and the copy of the breach log to flash (R119, R123, R347, R354, R385). -/

namespace Sys2Proof.Machine

/-- Write a report to a host buffer and complete with ST_OK, or with BUFFER_FAULT where the bus refuses the write (R125). -/
def report (h : Hdr) (buf : Buf) (bytes payload : List Byte) (s : State) : State :=
  if bytes = [] then finish h .ok .none payload s
  else if buf.fault then finish h .badParam .bufferFault [] s
  else finish h .ok .none payload (hostWrite h.fn buf.addr bytes s)

/-! ## IDENTIFY and GET_HEALTH -/

/-- IDENTIFY's payload (R119). -/
def identifyPayload (s : State) : List Byte :=
  le 4 s.ident.fwVersion ++ le 2 s.ident.fleet ++ le 1 (if s.ident.cabinet then 0x43 else 0x56) ++
    le 1 (lifecycleCode s.ident.lifecycle) ++ le 2 (s.flash.index.getD 0) ++ le 6 s.ident.serial

/-- GET_HEALTH's payload (R119). -/
def healthPayload (s : State) : List Byte :=
  le 4 (healthFlags s) ++ le 1 (timeStateCode s.time.state) ++ le 1 s.power.op ++ le 2 (epochsRemaining s) ++
    le 4 s.safety.log.length ++ le 2 s.ident.rilamMin ++ le 2 s.ident.rilamMax

/-- GET_HEALTH reports the flags and clears SAFE_HOLD since the last read (R123). -/
def arriveGetHealth (h : Hdr) (s : State) : State :=
  finish h .ok .none (healthPayload s) { s with host.safeHoldSeen := false }

/-! ## GET_TELEMETRY (R385) -/

/-- FLAGS of the telemetry header. -/
def telemetryFlags (s : State) : Nat :=
  bitAt 0 s.power.mismatch + bitAt 1 (s.power.hotspots.any (·.2.suspect)) + bitAt 2 s.power.flowWarn +
    bitAt 3 s.power.flowShed + bitAt 4 s.power.stop + bitAt 5 s.power.readingMissing

/-- Energy since cold start in J. -/
def energyJ (s : State) : Nat := s.power.energyMj / 1000

/-- The 64-byte telemetry header. -/
def telemetryHeader (s : State) : List Byte :=
  padTo 64 (le 2 s.power.powerW ++ le 2 s.power.avgW ++ le 2 s.power.capW ++ le 2 s.power.orphanW ++ le 2 s.power.deficitW ++
    le 1 s.power.windowS ++ le 1 s.power.op ++ le 1 s.power.want ++ le 1 s.power.limits ++ le 1 s.power.rung ++
    le 1 (telemetryFlags s) ++ le 4 (leaseMs s) ++ le 2 s.power.flow ++ le 1 (tempByte s.power.inlet) ++
    le 1 (tempByte s.power.outlet) ++ le 2 s.aon.vin48 ++ le 2 s.aon.auxA ++ le 2 s.aon.auxB ++ le 2 s.power.ratio ++
    le 8 (energyJ s) ++ le 2 146)

/-- One hotspot's 4-byte entry. -/
def hotspotEntry (s : State) (i : Nat) : List Byte :=
  let h := getHotspot s i
  le 1 (tempByte h.reading) ++ le 1 (tempByte (forecastOf s i)) ++ le 1 (hotFlags h) ++ le 1 h.pace

def telemetry (s : State) : List Byte := telemetryHeader s ++ (List.range 146).flatMap (hotspotEntry s)

def telemetryPayload (s : State) : List Byte :=
  le 2 s.power.powerW ++ le 2 s.power.capW ++ le 1 s.power.op ++ le 1 (tempByte (hottest s).1) ++ le 2 0 ++ le 8 (energyJ s)

/-- GET_TELEMETRY: a BUF_LEN of 0 writes nothing, any other below 648 is too short. -/
def arriveGetTelemetry (h : Hdr) (buf : Buf) (s : State) : State :=
  if buf.len = 0 then finish h .ok .none (telemetryPayload s) s
  else if buf.len < 648 then finish h .badParam .bufferShort [] s
  else report h buf (telemetry s) (telemetryPayload s) s

/-! ## BREACH_LOG_READ (R354) -/

/-- DETAIL as a polder sees it: the fields that the kind table marks PF0 only read zero. -/
def shownDetail (kind detail : Nat) : Nat :=
  if kind = 0x0D then detail / 4294967296 * 4294967296
  else if kind = 0x13 then detail % 4294967296
  else detail

/-- One 32-byte entry, as PF0 or a polder sees it. -/
def breachBytes (pf0 : Bool) (b : Breach) : List Byte :=
  padTo 32 (le 4 b.index ++ le 2 (epochOf b.count) ++ le 4 (tnOf b.count) ++ le 1 b.kind ++ le 1 b.flags ++ le 1 b.polder ++
    le 1 (if pf0 then b.stack else 255) ++ le 1 (if pf0 then b.tile else 255) ++ le 1 b.sub ++
    le 16 (if pf0 then b.detail else shownDetail b.kind b.detail))

/-- The entries that a requester may read, oldest first, from FIRST on. -/
def readableBreaches (s : State) (asker : Option Nat) (first : Nat) : List Breach :=
  (s.safety.log.filter fun b => decide (first ≤ b.index) && (asker.isNone || asker = some b.polder)).reverse

/-- BREACH_LOG_READ: as many whole entries as the buffer takes, and the index at which the next read goes on. -/
def arriveBreachLogRead (h : Hdr) (first : Nat) (buf : Buf) (s : State) : State :=
  let all := readableBreaches s (askerOf h.fn) first
  let es := all.take (buf.len / 32)
  let next := match (all.drop (buf.len / 32)).head? with
    | some b => b.index
    | none => s.safety.nextIndex
  report h buf (es.flatMap (breachBytes (isPf0 h.fn))) (le 4 es.length ++ le 4 next) s

/-! ## SELFTEST_REPORT (R335, R343, R344, R347) -/

/-- Items of a tile, with their slices (R335). -/
def tileItems : List (Nat × Nat) :=
  [(1, 4), (2, 4), (3, 4), (4, 2), (5, 2), (6, 1), (7, 1), (8, 8), (9, 1), (10, 10), (11, 1)]

/-- Items outside the tiles and injection items, with their instances (R343, R344). -/
def outsideItems : List (Nat × Nat) :=
  [(0x21, 16), (0x22, 2), (0x23, 18), (0x24, 2), (0x41, 1), (0x42, 1), (0x43, 1), (0x44, 1), (0x45, 1), (0x46, 1),
   (0x47, 16), (0x48, 8), (0x49, 2), (0x61, 2), (0x62, 2), (0x63, 2), (0x64, 2), (0x65, 2), (0x66, 2)]

/-- STACK and TILE of an instance outside the tiles: four memory-controller halves and four memory engines a stack, two
vote lanes of a stack, and the warden of a warden item. -/
def instancePlace (item k : Nat) : Nat × Nat :=
  if (item = 0x21 || item = 0x23) && k < 16 then (k / 4, 255)
  else if item = 0x48 then (k % 4, 255)
  else if item = 0x49 || 0x61 ≤ item then (255, k)
  else (255, 255)

/-- The result of an item from its slices: 2 if one failed, else 3 if one is untested, else 1 if one failed once. -/
def foldResults (rs : List ItemResult) : Nat :=
  if rs.any (·.result = 2) then 2
  else if rs.any (·.result = 3) then 3
  else if rs.any (·.result = 1) then 1
  else 0

/-- AGE in ms: that of the slice whose last pass is the oldest, saturating; 65,535 where one has never passed. -/
def ageOf (s : State) (rs : List ItemResult) : Nat :=
  rs.foldl (fun m r => max m (match r.passQ with
    | some q => min 65535 ((s.tide.nowQ - q) / 4)
    | none => 65535)) 0

def itemEntry (s : State) (item stack tile : Nat) (rs : List ItemResult) : List Byte :=
  le 2 item ++ le 1 stack ++ le 1 tile ++ le 1 (foldResults rs) ++ le 1 0 ++ le 2 (ageOf s rs)

/-- Results of one item of one tile. -/
def tileResults (s : State) (stack tile item slices : Nat) : List ItemResult :=
  let t := (tget s.safety.tiles (32 * stack + tile)).getD {}
  (List.range slices).map fun k => (tget t.results (16 * item + k)).getD {}

/-- Every entry of the report: item, stack, tile, and what it rests on. -/
def selftestRows (s : State) : List (Nat × Nat × Nat × List ItemResult) :=
  ((List.range 4).flatMap fun st => (List.range 32).flatMap fun n =>
    tileItems.map fun i => (i.1, st, n, tileResults s st n i.1 i.2)) ++
  outsideItems.flatMap fun i => (List.range i.2).map fun k =>
    (i.1, (instancePlace i.1 k).1, (instancePlace i.1 k).2, [(tget s.safety.items (32 * i.1 + k)).getD {}])

/-- Entries with RESULT 2. -/
def failedTests (s : State) : Nat := ((selftestRows s).filter fun r => foldResults r.2.2.2 = 2).length

/-- Powered hours since the last start whose injection passed. -/
def poweredHours (s : State) : Nat := (s.tide.nowQ - s.safety.injectionQ) / 14400000

def starvedTiles (s : State) : Nat := (s.safety.tiles.filter (·.2.starved)).length

def selftestBytes (s : State) : List Byte :=
  padTo 32 (le 4 (selftestRows s).length ++ le 4 (failedTests s) ++ le 4 (poweredHours s) ++ le 4 (starvedTiles s)) ++
    (selftestRows s).flatMap fun r => itemEntry s r.1 r.2.1 r.2.2.1 r.2.2.2

/-- SELFTEST_REPORT on arrival. -/
def arriveSelftestReport (h : Hdr) (buf : Buf) (s : State) : State :=
  let bytes := selftestBytes s
  if buf.len < bytes.length then finish h .badParam .bufferShort (le 4 bytes.length) s
  else report h buf bytes (le 4 (failedTests s)) s

/-! ## Meanings -/

def execIdentify (h : Hdr) (s : State) : Host.Outcome State Fault Refusal :=
  fetched (.identify h) h (fun st => finish h .ok .none (identifyPayload st) st) s

def execGetHealth (h : Hdr) (s : State) : Host.Outcome State Fault Refusal := fetched (.getHealth h) h (arriveGetHealth h) s

def execGetTelemetry (h : Hdr) (buf : Buf) (s : State) : Host.Outcome State Fault Refusal :=
  fetched (.getTelemetry h buf) h (arriveGetTelemetry h buf) s

def execBreachLogRead (h : Hdr) (first : Nat) (buf : Buf) (s : State) : Host.Outcome State Fault Refusal :=
  fetched (.breachLogRead h first buf) h (arriveBreachLogRead h first buf) s

def execSelftestReport (h : Hdr) (buf : Buf) (s : State) : Host.Outcome State Fault Refusal :=
  fetched (.selftestReport h buf) h (arriveSelftestReport h buf) s

/-- BREACH_LOG_FLUSH: the log is copied to the dual-bank flash at least once per second, unless a control core of IO0 is halted
(R354, R466). -/
def execBreachLogFlush (s : State) : Host.Outcome State Fault Refusal :=
  .next (if mainUp s && !clusterHalted s 0 then flushLog s else s)

end Sys2Proof.Machine
end

