-- ==== Sys2Proof/Machine/Vision.lean ====
section
/-! DEFINITION. Machine/Vision.lean: convolution, crop-and-resize, box decoding and suppression (R205 to R209, R216 to
R225). -/

namespace Sys2Proof.Machine

def wordBytes (w : Word) : List Byte := le 4 w.toNat

/-! ## Convolution (R205 to R209) -/

/-- Output height and width. -/
def convOut (p : ConvParams) : Nat × Nat :=
  ((p.h + p.pt + p.pb - ((p.fh - 1) * p.dh + 1)) / max p.sh 1 + 1, (p.w + p.pl + p.pr - ((p.fw - 1) * p.dw + 1)) / max p.sw 1 + 1)

/-- Channels of a group, and those padded to whole chunk spans (R207). -/
def convCg (p : ConvParams) : Nat := p.cin / max p.g 1
def padSpan (span n : Nat) : Nat := (n + span - 1) / max span 1 * span

/-- Output channels of a group. -/
def convKg (p : ConvParams) : Nat := max (p.cout / max p.g 1) 1

/-- The value of the input at a position; zero in the padding. -/
def convIn (p : ConvParams) (input : List (Option Val)) (y x : Int) (c : Nat) : Option Val :=
  if y < 0 || x < 0 || (p.h : Int) ≤ y || (p.w : Int) ≤ x then some zeroVal
  else input.getD ((y.toNat * p.w + x.toNat) * p.cin + c) (some zeroVal)

/-- The operand pairs of one tap of one output, filter first, c innermost (R205, R206); the groups of a sparse filter lie
along c within each tap (R208). -/
def convTap (p : ConvParams) (y x k t : Nat) (input filter : List (Option Val)) (sparse : Bool) : List (Val × Val) :=
  let cg := convCg p
  let stride := if sparse then padSpan 4 cg else cg
  let iy : Int := (y * p.sh + t / max p.fw 1 * p.dh : Nat) - (p.pt : Int)
  let ix : Int := (x * p.sw + t % max p.fw 1 * p.dw : Nat) - (p.pl : Int)
  (List.range cg).map fun c =>
    pairOf (filter.getD (t * stride + c) (some zeroVal)) (convIn p input iy ix (k / convKg p * cg + c))

/-- The chunks of a dense mapping: each tap padded with zero positions to whole chunk spans (R207). -/
def denseChunks (span taps : Nat) (tap : Nat → List (Val × Val)) : List (List (Val × Val)) :=
  (List.range taps).flatMap fun t =>
    let l := tap t
    cutChunks span (l ++ List.replicate (padSpan span l.length - l.length) (zeroVal, zeroVal))

/-- Rows cut where chunks of C array rows begin, the first row standing at `row`. -/
def cutRows (c row : Nat) (l : List (Val × Val)) : List (List (Val × Val)) :=
  let n := c - row % max c 1
  l.take n :: cutChunks c (l.drop n)

/-- The chunks of the diagonal mapping of a grouped convolution: each pass places T taps of a group in its slot, HB rows
high (R210, R211). -/
def diagonalChunks (p : ConvParams) (c taps k : Nat) (tap : Nat → List (Val × Val)) : List (List (Val × Val)) :=
  let cg := max (convCg p) 1
  let most := max (64 / cg) 1
  (List.range ((taps + most - 1) / most)).flatMap fun pass =>
    let t0 := pass * most
    let n := min most (taps - t0)
    let hb := cg * n
    let slots := max (min (128 / hb) (128 / convKg p)) 1
    cutRows c (hb * (k / convKg p % slots)) ((List.range n).flatMap fun i => tap (t0 + i))

/-- The chunks of one output of a convolution (R206, R207, R210); blocks lie along c, of a pixel of the input and of a tap of
the filter (R208). -/
def convChunks (p : ConvParams) (y x k : Nat) (input filter : Vec) : List (List (Val × Val)) :=
  let sparse := decide (filter.groups ≠ [])
  let row := if sparse then padSpan 4 (convCg p) else convCg p
  let tap (t : Nat) : List (Val × Val) := convTap p y x k t (rowVals p.cin input) (rowVals row filter) sparse
  if 2 ≤ p.g && convCg p ≤ 64 && convKg p ≤ 64 then
    diagonalChunks p (chunkLength filter.format input.format) (p.fh * p.fw) k tap
  else denseChunks (chunkSpan filter.format input.format sparse) (p.fh * p.fw) tap

/-- A fused activation by number: 0 none, 1 ReLU, 2 ReLU clamped at a ceiling, 3 SiLU, 4 GELU in erf form, 5 tanh, 6 GELU in
tanh form (R209). -/
def activate (n : Nat) (ceiling x : Word) : Word :=
  match n with
  | 1 => vmax x 0
  | 2 => vmin (vmax x 0) ceiling
  | 3 => vfun 8 x
  | 4 => vfun 9 x
  | 5 => vfun 6 x
  | 6 => vfun 10 x
  | _ => x

/-- A position of the output lies within it. -/
def convInside (p : ConvParams) (n y x : Nat) : Bool := n < max p.n 1 && y < (convOut p).1 && x < (convOut p).2

/-- Element of the output tensor (N, HO, WO, COUT) at which a channel of a position stands (R205). -/
def convIndex (p : ConvParams) (n y x k : Nat) : Nat := ((n * (convOut p).1 + y) * (convOut p).2 + x) * p.cout + k

/-- The values of some output channels of a position, from the first on. -/
def convVals (p : ConvParams) (y x : Nat) (input : Vec) (first : Nat) (filters : List Vec) (shares : List (Nat × Nat)) : List Val :=
  filters.mapIdx fun i f => dotValue f.format input.format shares (convChunks p y x (first + i) input f)

/-- Their accumulator entries. -/
def convWindows (p : ConvParams) (y x : Nat) (input : Vec) (first : Nat) (filters : List Vec) (shares : List (Nat × Nat)) :
    List Window :=
  filters.mapIdx fun i f => (dotWindow f.format input.format shares (convChunks p y x (first + i) input f)).getD ⟨0, 0, 0⟩

/-- Bias and activation on a drained output (R209). -/
def convPost (activation : Nat) (ceiling : Word) (v : Val) (bias : Option Word) : Word :=
  let w := BitVec.ofNat 32 (convertTo 11 v).1
  activate activation ceiling (match bias with
    | some b => vadd w b
    | none => w)

/-- Finish the outputs of a convolution at one position: without bias or activation the drain writes them; with either they go to
the vector unit in FP32 (R209). -/
def convDrain (input : Vec) (columns : List (Vec × Option Word)) (activation : Nat) (ceiling : Word)
    (draw : Nat → Option (BitVec 16)) (format : Nat) (vs : List Val) : OpOut :=
  if activation = 0 && columns.all (·.2.isNone) then
    drainRow draw (columns.all fun c => bothInts c.1.format input.format) format vs
  else convertRow draw format ((vs.zip columns).map fun q => convPost activation ceiling q.1 q.2.2)

/-- Outputs of a convolution at one position. -/
def convOp (p : ConvParams) (y x : Nat) (input : Vec) (first : Nat) (columns : List (Vec × Option Word)) (activation : Nat)
    (ceiling : Word) (shares : List (Nat × Nat)) (draw : Nat → Option (BitVec 16)) (format : Nat) : OpOut :=
  convDrain input columns activation ceiling draw format (convVals p y x input first (columns.map (·.1)) shares)

/-! ## List tensors (R216) -/

/-- A list: COUNT, the records, and zeros up to the declared maximum. -/
def listTensor (recordBytes declared : Nat) (records : List (List Byte)) : List Byte :=
  let rs := records.take declared
  padTo 16 (le 4 rs.length) ++ rs.flatten ++ List.replicate ((declared - rs.length) * recordBytes) 0

/-- The records of a list that an operator reads: 0 to COUNT − 1. -/
def listRecords {α : Type} (count : Nat) (records : List α) : List α := records.take count

/-- The FP32 word of an element code, widened exactly (R217, R220, R221). -/
def widenTo32 (c : Nat) (w : Word) : Word := BitVec.ofNat 32 (convertTo 11 (decodeElem c w.toNat)).1

def widenBox (c : Nat) (b : Box) : Box := ⟨widenTo32 c b.y1, widenTo32 c b.x1, widenTo32 c b.y2, widenTo32 c b.x2⟩

def boxBytes (b : Box) : List Byte := wordBytes b.y1 ++ wordBytes b.x1 ++ wordBytes b.y2 ++ wordBytes b.x2

/-! ## Crop-and-resize (R217 to R219) -/

def half32 : Word := 0x3F000000

/-- The sampling coordinate of output index i along one side of n outputs over a map of `size` (R218). -/
def cropCoord (mode n size i : Nat) (a b : Word) : Word :=
  let m := ofNat32 (size - 1)
  if mode = 0 then
    if 1 < n then vadd (vmul a m) (vmul (ofNat32 i) (vdiv (vmul (vsub b a) m) (ofNat32 (n - 1))))
    else vmul (vmul half32 (vadd a b)) m
  else if 1 < n then vadd a (vmul (ofNat32 i) (vdiv (vsub b a) (ofNat32 (n - 1))))
  else vmul half32 (vadd a b)

/-- The coordinate lies on the map. -/
def onMap (size : Nat) (y : Word) : Bool := vle 0 y && vle y (ofNat32 (size - 1))

/-- a + (b − a) x f. -/
def lerp (a b f : Word) : Word := vadd a (vmul (vsub b a) f)

/-- One output position of crop-and-resize in one channel, `px` giving the map; a box at or beyond COUNT gives zero. -/
def cropAt (valid : Bool) (oh ow mode : Nat) (extrapolation : Word) (h w n : Nat) (batch : Int) (b : Box) (i j : Nat)
    (px : Nat → Nat → Word) : Word :=
  let y := cropCoord mode oh h i b.y1 b.y2
  let x := cropCoord mode ow w j b.x1 b.x2
  if !valid then 0
  else if !onMap h y || !onMap w x || batch < 0 || (n : Int) ≤ batch then extrapolation
  else
    let y0 := (floorVal (val32 y)).toNat
    let x0 := (floorVal (val32 x)).toNat
    let y1 := min (y0 + 1) (h - 1)
    let x1 := min (x0 + 1) (w - 1)
    let fy := vsub y (ofNat32 y0)
    let fx := vsub x (ofNat32 x0)
    lerp (lerp (px y0 x0) (px y0 x1) fx) (lerp (px y1 x0) (px y1 x1) fx) fy

/-- The words of a feature map, its channels innermost and its blocks along them (R217). -/
def mapWords (channels : Nat) (map : Vec) : List Word :=
  (rowVals channels map).map fun v => BitVec.ofNat 32 (convertTo 11 (v.getD zeroVal)).1

/-- One output position in every channel. -/
def cropOp (valid : Bool) (oh ow mode : Nat) (extrapolation : Word) (h w n : Nat) (batch : Int) (b : Box) (i j channels : Nat)
    (map : Vec) (format : Nat) : OpOut :=
  let ws := mapWords channels map
  convertRow noDraw format ((List.range channels).map fun k =>
    cropAt valid oh ow mode extrapolation h w n batch b i j fun r c => ws.getD ((r * w + c) * channels + k) 0)

/-! ## Box decoding (R220) -/

/-- Corner form of a centre and a size, clamped with CLIP set. -/
def cornerBox (yc xc h w : Word) (clip : Option (Word × Word)) : Box :=
  let lim (hi v : Word) : Word := vmin (vmax v 0) hi
  let y1 := vsub yc (vmul half32 h)
  let y2 := vadd yc (vmul half32 h)
  let x1 := vsub xc (vmul half32 w)
  let x2 := vadd xc (vmul half32 w)
  match clip with
  | some (ch, cw) => ⟨lim ch y1, lim cw x1, lim ch y2, lim cw x2⟩
  | none => ⟨y1, x1, y2, x2⟩

/-- Anchor form: the delta holds TY, TX, TH, TW and the anchor YA, XA, HA, WA. -/
def anchorBox (d a : Box) (sy sx sh sw clamp : Word) (clip : Option (Word × Word)) : Box :=
  cornerBox (vadd (vmul (vdiv d.y1 sy) a.y2) a.y1) (vadd (vmul (vdiv d.x1 sx) a.x2) a.x1)
    (vmul (vexp (vmin (vdiv d.y2 sh) clamp)) a.y2) (vmul (vexp (vmin (vdiv d.x2 sw) clamp)) a.x2) clip

/-- Centre-size form: the delta holds OY, OX, TH, TW. -/
def centreBox (d : Box) (row col : Nat) (ph pw gs clamp : Word) (sigmoid : Bool) (clip : Option (Word × Word)) : Box :=
  let f (x : Word) : Word := if sigmoid then vfun 7 x else x
  cornerBox (vmul (vadd (ofNat32 row) (f d.y1)) gs) (vmul (vadd (ofNat32 col) (f d.x1)) gs)
    (vmul (vexp (vmin d.y2 clamp)) ph) (vmul (vexp (vmin d.x2 clamp)) pw) clip

/-- The list of boxes in anchor form. -/
def anchorList (boxes : List (Box × Box)) (sy sx sh sw clamp : Word) (clip : Option (Word × Word)) (declared : Nat) : OpOut :=
  bytesOut (listTensor 16 declared (boxes.map fun q => boxBytes (anchorBox q.1 q.2 sy sx sh sw clamp clip))) 0

/-- The list of boxes in centre-size form: record (row x GW + col) x A + a. -/
def centreList (deltas : List Box) (gw : Nat) (priors : List (Word × Word)) (gs clamp : Word) (sigmoid : Bool)
    (clip : Option (Word × Word)) (declared : Nat) : OpOut :=
  let a := max priors.length 1
  let one (i : Nat) (d : Box) : List Byte :=
    let q := priors.getD (i % a) (0, 0)
    boxBytes (centreBox d (i / a / max gw 1) (i / a % max gw 1) q.1 q.2 gs clamp sigmoid clip)
  bytesOut (listTensor 16 declared (deltas.mapIdx one)) 0

/-! ## Suppression (R221 to R224) -/

/-- A box with its corners ordered. -/
def orderBox (b : Box) : Box := ⟨vmin b.y1 b.y2, vmin b.x1 b.x2, vmax b.y1 b.y2, vmax b.x1 b.x2⟩

def boxArea (b : Box) : Word := vmul (vsub b.y2 b.y1) (vsub b.x2 b.x1)

/-- The overlap of two boxes (R222). -/
def iou (a b : Box) : Word :=
  let a := orderBox a
  let b := orderBox b
  let ih := vsub (vmin a.y2 b.y2) (vmax a.y1 b.y1)
  let iw := vsub (vmin a.x2 b.x2) (vmax a.x1 b.x1)
  let inter := vmul (vmax ih 0) (vmax iw 0)
  let uni := vsub (vadd (boxArea a) (boxArea b)) inter
  if vle uni 0 then 0 else vmul inter (vrecip uni)

/-- A candidate: box index, box and current score. -/
abbrev Cand := Nat × Box × Word

def boxFinite (b : Box) : Bool := isFinite b.y1 && isFinite b.x1 && isFinite b.y2 && isFinite b.x2

/-- The candidates of a class, and the discards among them (R221). -/
def candidates (boxes : List Box) (scores : List Word) (threshold : Word) : List Cand × Nat :=
  let all : List Cand := (boxes.zip scores).mapIdx fun i q => (i, q.1, q.2)
  let cs := all.filter fun c => vle threshold c.2.2 || isNan c.2.2
  let ok := cs.filter fun c => isFinite c.2.2 && boxFinite c.2.1
  (ok, cs.length - ok.length)

/-- The highest score, the highest box index among equal ones. -/
def bestCand : List Cand → Option Cand
  | [] => none
  | c :: r => match bestCand r with
    | some b => if vlt b.2.2 c.2.2 || (!vlt c.2.2 b.2.2 && b.1 < c.1) then some c else some b
    | none => some c

/-- What a kept box does to another candidate; none where it removes it. -/
def decay (mode : Nat) (iouThr scoreThr sigma : Word) (kept c : Cand) : Option Cand :=
  let u := iou kept.2.1 c.2.1
  if mode = 0 then (if vlt iouThr u then none else some c)
  else
    let x := vmul c.2.2 (vexp (vdiv (vsub 0 (vmul u u)) sigma))
    if vlt x scoreThr then none else some (c.1, c.2.1, x)

/-- suppress of R223: at most n boxes kept. -/
def suppressClass (mode : Nat) (iouThr scoreThr sigma : Word) : Nat → List Cand → List Cand
  | 0, _ => []
  | n + 1, cs => match bestCand cs with
    | none => []
    | some c => c :: suppressClass mode iouThr scoreThr sigma n
        ((cs.filter fun x => x.1 ≠ c.1).filterMap (decay mode iouThr scoreThr sigma c))

/-- A record of the detection list (R224). -/
def detection (k : Nat) (c : Cand) : List Byte := boxBytes c.2.1 ++ wordBytes c.2.2 ++ le 2 c.1 ++ le 2 k

/-- Suppression over all classes; an overflow of the declared maximum, at most MAX_PER_CLASS records a class, counts once. -/
def suppressOp (boxes : List Box) (scores : List (List Word)) (maxPer skip mode : Nat) (iouThr scoreThr sigma : Word)
    (declared : Nat) : OpOut :=
  let classes := (scores.mapIdx fun k sc => (k, candidates boxes sc scoreThr)).filter (·.1 ≠ skip)
  let declared := min declared (scores.length * maxPer)
  let kept := classes.flatMap fun q => (suppressClass mode iouThr scoreThr sigma maxPer q.2.1).map (detection q.1)
  bytesOut (listTensor 24 declared kept) ((classes.map (·.2.2)).sum + bit (decide (declared < kept.length)))

end Sys2Proof.Machine
end

