-- ==== Sys2Proof/Machine/Attention.lean ====
section
/-! DEFINITION. Machine/Attention.lean: scores, weights, the merge of split rows and the backward pass (R226 to R228, R237,
R238, R247 to R249), and expert layers (R270). -/

namespace Sys2Proof.Machine

def negInf32 : Word := 0xFF800000

/-- The KV head that a query head reads: floor(h x HKV / HQ) (R226). -/
def kvHead (a : AttnParams) (h : Nat) : Nat := h * a.hkv / max a.hq 1

/-- Place of a query head's layer and KV head among the image's constants K_SCALE and V_SCALE. -/
def scaleIndex (a : AttnParams) (layer h : Nat) : Nat := layer * a.hkv + kvHead a h

/-- The score of one query and key position (R227). -/
def scoreOp (a : AttnParams) (layer h : Nat) (q k : Vec) (i j : Nat) (written : Bool) : Word :=
  if !written || (a.mask = 0 && i < j) || (a.window ≠ 0 && a.window + j ≤ i) then negInf32
  else
    let d := BitVec.ofNat 32 (convertTo 11 (matmulValue k q [])).1
    let x := vmul d (vmul a.scale (a.kScale.getD (scaleIndex a layer h) 0))
    if a.cap &&& 0x7FFFFFFF = 0 then x else vmul a.cap (vfun 6 (vdiv x a.cap))

/-- The weight exp(s − m), as a BF16 code; a key that no query sees weighs +0 (R228, R248). -/
def weightCode (m x : Word) : Nat := if x = negInf32 then 0 else (convertTo 9 (val32 (vexp (vsub x m)))).1

/-- The FP32 sum of a list of words, in order. -/
def addWords (ws : List Word) : Word := ws.foldl vadd 0

/-- The FP32 word of a BF16 code. -/
def widen16 (c : Nat) : Word := BitVec.ofNat 32 (c * 65536)

/-- One block of a row (R228, R235): its maximum, the sum of its weights, and its output, which the array forms. A block with no
visible key has the maximum −∞. -/
def attnBlock (scores : List Word) (values : List Vec) : Word × Word × List Word :=
  let m := scores.foldl vmax negInf32
  let es := scores.map (weightCode m)
  (m, addWords (es.map widen16),
    values.map fun v => BitVec.ofNat 32 (convertTo 11 (matmulValue v { format := 9, elems := es } [])).1)

/-- The partial of a block as it goes to the merging tile. -/
def attnBlockOp (scores : List Word) (values : List Vec) : OpOut :=
  let x := attnBlock scores values
  wordsOut (x.1 :: x.2.1 :: x.2.2)

/-- The tile of 16 x 16 weights is stored: under a causal mask only where no key lies beyond every query (R248). -/
def tileStored (mask qi kj : Nat) : Bool := mask ≠ 0 || kj ≤ qi

/-- Byte offset of a tile of stored weights (R248). -/
def tileOffset (mask groups qi kj : Nat) : Nat := (if mask = 0 then qi * (qi + 1) / 2 + kj else qi * groups + kj) * 512

/-- A tile of stored weights, row-major (R247, R248). -/
def weightTileOp (scores maxima : List Word) : OpOut :=
  { bits := 16, codes := (List.range 256).map fun i => weightCode (maxima.getD (i / 16) negInf32) (scores.getD i negInf32) }

/-- The statistics record of a row: −∞ for blocks beyond it (R247). -/
def rowStatsOp (m lsum : Word) (mBlk : List Word) : OpOut :=
  wordsOut (m :: lsum :: (List.range 8).map fun b => mBlk.getD b negInf32)

/-- An expert layer for one token of a variant: the sum of the shared experts and of the variant's own that its router selects
(R270; the order of the sum: assumption log 74). -/
def expertsOp (variant : Nat) (shared : List (List Word)) (routed : List (Nat × Nat × List Word)) (selected : List Nat) : OpOut :=
  let own := selected.filterMap fun n => (routed.find? fun x => x.1 = variant && x.2.1 = n).map (·.2.2)
  match shared ++ own with
  | [] => noOut
  | x :: r => wordsOut (r.foldl (fun acc y => (acc.zip y).map fun q => vadd q.1 q.2) x)

/-- The state of a merge: M, the sum, and the output row. -/
structure MergeState where
  m : Word
  sum : Word
  o : List Word
deriving DecidableEq, Repr

/-- One partial taken into the merge; a block with no visible key is passed over. -/
def mergePart (x : MergeState) (p : Word × Word × List Word) : MergeState :=
  if p.1 = negInf32 then x
  else
    let mn := vmax x.m p.1
    let a := rescale (vsub x.m mn)
    let b := rescale (vsub p.1 mn)
    let row := if x.o = [] then p.2.2.map fun _ => (0 : Word) else x.o
    { m := mn, sum := vadd (vmul x.sum a) (vmul p.2.1 b),
      o := (row.zip p.2.2).map fun q => vadd (vmul q.1 a) (vmul q.2 b) }

/-- A row merged from its partials in ascending block index; a row with no visible key is NaN, and counts in ARITH_EXC. -/
def mergeOp (parts : List (Word × Word × List Word)) (vScale : Word) (format : Nat) : OpOut :=
  let x := parts.foldl mergePart ⟨negInf32, 0, []⟩
  if x.m = negInf32 then
    let r := convertRow noDraw format (((parts.head?.map (·.2.2)).getD []).map fun _ => nan32)
    { r with exc := r.exc + 1 }
  else
    let k := vrecip x.sum
    convertRow noDraw format (x.o.map fun v => vmul (vmul v k) vScale)

/-- The words of partials, in the order in which they travel (R239). -/
def partWords (parts : List (Word × Word × List Word)) : List Word := parts.flatMap fun p => p.1 :: p.2.1 :: p.2.2

/-- Every word of the partials arrived with its residue (R156, R239). -/
def partsOk (parts : List (Word × Word × List Word)) (residues : List Nat) : Bool :=
  (partWords parts).map (residue ·.toNat) = residues

/-- A probability recovered in the backward pass (R249). -/
def backwardOp (e mBlk m lsum : Word) : Word := vmul (vmul e (rescale (vsub mBlk m))) (vrecip lsum)

end Sys2Proof.Machine
end

