-- ==== Sys2Proof/Machine/Links.lean ====
section
/-! DEFINITION. Machine/Links.lean: Levee ports, associations and frames, and the commands on them (R409 to R423). -/

namespace Sys2Proof.Machine

/-! ## Associations -/

def getAssoc (s : State) (m : Nat) : Option Assoc := tget s.links.assocs m
def setAssoc (s : State) (m : Nat) (a : Assoc) : State := { s with links.assocs := tset s.links.assocs m a }

def mapAssocs (f : Assoc → Assoc) (s : State) : State :=
  { s with links.assocs := s.links.assocs.map fun a => (a.1, f a.2) }

/-- An association without a port: it dies with its last one. -/
def losePort (n : Nat) (a : Assoc) : Assoc :=
  let ps := a.ports.filter (· ≠ n)
  { a with ports := ps, live := a.live && decide (ps ≠ []) }

/-- Live associations that a port carries. -/
def assocsOver (s : State) (n : Nat) : List (Nat × Assoc) := s.links.assocs.filter fun a => a.2.live && n ∈ a.2.ports

/-- PEER of LVL_STATn: the lowest index that the port reaches. -/
def lowestPeer (s : State) (n : Nat) : Nat :=
  match (assocsOver s n).map (·.1) with
  | [] => 0
  | m :: r => r.foldl min m

/-- An up port other than `n` that reaches a peer, the highest-numbered one (R418, R423). -/
def otherPort (s : State) (n m : Nat) : Option Nat :=
  ((List.range 8).filter fun k => k ≠ n && (getPort s k).state = 2 && (getAssoc s m).any fun a => k ∈ a.ports).getLast?

/-- The invocations of the linked jobs that include a member, whose tensors of the tide do not come (R423). -/
def failJobs (m : Nat) (s : State) : State :=
  s.links.jobs.foldl (fun st j => if j.2.2 = m then breachInUse j.1 (fun r _ => r = j.2.1) st else st) s

/-- Resend a port's unacknowledged frames over another port to the same destination; those with none are lost (R423). -/
def reroute (n : Nat) (s : State) : State :=
  let fs := (getPort s n).retry
  let s := setPort s n { getPort s n with retry := [] }
  fs.foldl (fun st f =>
    match otherPort st n f.1 with
    | some k =>
      let st := setPort st k { getPort st k with retry := (getPort st k).retry ++ [f] }
      emit (.leveeResend k 1) (setPort st n { getPort st n with resent := true })
    | none => setPort st n { getPort st n with lost := true }) s

/-- A port goes down with a cause: its frames are resent or lost, and its associations lose it; of a member that no other port
reaches, the tensors on their way are lost (R423). -/
def takePortDown (n cause : Nat) (s : State) : State :=
  let cut := (assocsOver s n).filter fun a => (otherPort s n a.1).isNone
  let s := reroute n s
  let s := mapAssocs (losePort n) (cut.foldl (fun st a => failJobs a.1 st) s)
  checkFollow (setPort s n { getPort s n with state := 0, lanes := 0, step := 0, cause := cause, peer := 0 })

/-- Lanes of the widest set that avoids the failed lanes (R410). -/
def widest (failed : List Nat) : Nat :=
  if 0 ∈ failed then 0 else if 1 ∈ failed then 1 else if 2 ∈ failed || 3 ∈ failed then 2 else 4

/-- Start training a port at step 1 (R412), or keep it down with its cause (R410, R411). -/
def trainPort (n : Nat) (s : State) : State :=
  let x := getPort s n
  if !x.enabled || s.ident.lifecycle = .decommissioned then setPort s n { x with cause := 1 }
  else if s.flash.index.isNone then setPort s n { x with cause := 11 }
  else if widest x.failed = 0 then setPort s n { x with cause := 8 }
  else if !x.cable then setPort s n { x with cause := 2 }
  else setPort s n { x with state := 1, step := 1, lanes := 0 }

/-- Send an AUTH frame on a port: index, fleet code, firmware version, period and a new nonce (R413). -/
def sendAuth (n : Nat) (s : State) : State :=
  let nonce := Config.authNonce s.fresh
  emit (.leveeAuth n (s.flash.index.getD 0) s.ident.fleet s.ident.fwVersion s.tide.periodQ nonce)
    (setPort { s with fresh := s.fresh + 1 } n { getPort s n with nonce := nonce })

/-- Authenticate again: the association is no longer live, and AUTH frames go out on its ports. -/
def reauthenticate (m cause : Nat) (s : State) : State :=
  match getAssoc s m with
  | some a =>
    a.ports.foldl (fun st n => sendAuth n (setPort st n { getPort st n with cause := cause }))
      (checkFollow (setAssoc s m { a with live := false, cause := cause }))
  | none => s

/-! ## LINK_CONFIG and LINK_STATUS -/

/-- Enable or disable one port (R411). -/
def configPort (portMask enableMask : Byte) (s : State) (n : Nat) : State :=
  if !portMask.getLsbD n then s
  else if enableMask.getLsbD n then
    let x := getPort s n
    if x.enabled then s else trainPort n (setPort s n { x with enabled := true })
  else takePortDown n 1 (setPort s n { getPort s n with enabled := false })

/-- The settings record of the port enables (R460). -/
def portRecord (s : State) : Nat := (List.range 8).foldl (fun a n => a + bitAt n (getPort s n).enabled) 0

/-- A new installation index: every association authenticates again; ports kept down with NO_INDEX train. -/
def changeIndex (index : Nat) (s : State) : State :=
  let old := s.flash.index
  let s := { s with flash.index := some index }
  if old = some index then s
  else
    let s := (s.links.assocs.map (·.1)).foldl (fun st m => reauthenticate m 0 st) s
    if old.isNone then (List.range 8).foldl (fun st n => trainPort n st) s else s

/-- The command would enable a port that is disabled. -/
def enablesPort (s : State) (portMask enableMask : Byte) : Bool :=
  (List.range 8).any fun n => portMask.getLsbD n && enableMask.getLsbD n && !(getPort s n).enabled

/-- LINK_CONFIG on arrival; while DEBUG_OPEN is 1 it cannot enable a port (R438). -/
def arriveLinkConfig (h : Hdr) (portMask enableMask : Byte) (index : Nat) (s : State) : State :=
  if s.ident.debugOpen && enablesPort s portMask enableMask then finish h .notPermitted .lifecycle [] s
  else
  let s := if index = 65535 then s else changeIndex index s
  let s := (List.range 8).foldl (configPort portMask enableMask) s
  finish h .ok .none [] { s with flash.recPorts := ⟨s.flash.settingsFormat, portRecord s, 0⟩ }

/-- LINK_STATUS on arrival. -/
def arriveLinkStatus (h : Hdr) (port : Nat) (s : State) : State :=
  let x := getPort s port
  finish h .ok .none
    (le 1 x.state ++ le 1 x.lanes ++ le 2 x.peer ++ le 4 (sat32 x.replayDrops) ++ le 4 (sat32 x.frameErrors)) s

/-! ## KEY_ROTATE with KEY 1 (R416) -/

/-- The key and salt under which this module sends to a peer, of its link generation (R414, R431). -/
def sendKey (s : State) (peer : Nat) (own nonce : BitVec 256) : BitVec 288 :=
  directionKey (s.flash.index.getD 0) peer own nonce (keyCounter s 64)

/-- Announce the switch of the first rotation that waits: every live association switches 16 tides later. -/
def announceSwitch (s : State) : State :=
  mapAssocs (fun a => if a.live then { a with switchAt := some (s.tide.ix + 16), switched := false } else a) s

/-- Every association in force has switched. -/
def allSwitched (s : State) : Bool := s.links.assocs.all fun a => !a.2.live || a.2.switchAt.isNone || a.2.switched

/-- Complete the rotation whose switch every association has made, and start the next. -/
def settleRotations (s : State) : State :=
  if !allSwitched s then s
  else
    match s.links.rotations with
    | [] => s
    | (c, g) :: rest =>
      let s := finishCmd c .ok .none (le 2 g)
        (mapAssocs (fun a => { a with switchAt := none, switched := false }) { s with links.rotations := rest })
      if rest = [] then s else announceSwitch s

/-- KEY_ROTATE with KEY 1 at its edge: the link counter advances (R432), and the switch is announced. -/
def applyKeyRotateLink (c : Instr) (h : Hdr) (s : State) : State :=
  if 65535 ≤ keyCounter s 64 then finish h .notPermitted .counterExhausted [] s
  else
    let g := keyCounter s 64 + 1
    let first := s.links.rotations = []
    let s := { setCounter s 64 g with links.rotations := s.links.rotations ++ [(c, g)] }
    settleRotations (if first then announceSwitch s else s)

/-- At an edge, associations whose switch edge has come send under the new generation. -/
def switchKeys (s : State) : State :=
  { s with links.assocs := s.links.assocs.map fun a =>
      (a.1, if a.2.switchAt = some s.tide.ix then { a.2 with txGen := !a.2.txGen, txKey := sendKey s a.1 a.2.ownNonce a.2.nonce } else a.2) }

/-- KEY_SWITCH_TIMEOUT: the association has not switched within 64 tides. -/
def execKeySwitchTimeout (peer : Nat) (s : State) : Host.Outcome State Fault Refusal :=
  .next (if !mainUp s then s else match getAssoc s peer with
    | some a => if a.live && a.switchAt.isSome && !a.switched then reauthenticate peer 9 s else s
    | none => s)

/-! ## Training (R410 to R412) -/

/-- CABLE_DETECT: the cable's application list is read (step 1). -/
def execCableDetect (port : Nat) (cable : Cable) (s : State) : Host.Outcome State Fault Refusal :=
  .next (
    if !mainUp s || 8 ≤ port then s
    else if !cable.cmisOk || !cable.app106 then
      let s := takePortDown port 4 s
      setPort s port { getPort s port with cable := false }
    else
      let s := trainPort port (setPort s port { getPort s port with cable := true })
      let x := getPort s port
      if x.state = 1 then setPort s port { x with step := 2 } else s)

/-- TRAINING_STEP_DONE: the next step; at the end of step 4 the port is up. -/
def execTrainingStepDone (port : Nat) (s : State) : Host.Outcome State Fault Refusal :=
  .next (
    let x := getPort s port
    if !mainUp s || 8 ≤ port || x.state ≠ 1 then s
    else if x.step < 4 then setPort s port { x with step := x.step + 1, waitS := 0 }
    else sendAuth port
      (setPort s port { x with step := 5, state := 2, lanes := widest x.failed, attempts := 0, waitS := 0 }))

/-- TRAINING_TIMEOUT: back to step 1 after 1 s, or after 10 s once three attempts in a row have failed. -/
def execTrainingTimeout (port : Nat) (s : State) : Host.Outcome State Fault Refusal :=
  .next (
    let x := getPort s port
    if !mainUp s || 8 ≤ port || x.state = 0 || assocsOver s port ≠ [] then s
    else
      let n := x.attempts + 1
      setPort s port { x with state := 1, step := 1, lanes := 0, cause := 3, attempts := n, waitS := if 3 ≤ n then 10 else 1 })

/-- LANE_FAILURE: the port trains again at the widest set that avoids the lane; without lane 0 it stays down. -/
def execLaneFailure (port lane : Nat) (s : State) : Host.Outcome State Fault Refusal :=
  .next (
    if !mainUp s || 8 ≤ port || 4 ≤ lane then s
    else
      let x := getPort s port
      let s := setPort s port { x with failed := if lane ∈ x.failed then x.failed else lane :: x.failed }
      if x.state = 0 then s else trainPort port (takePortDown port 8 s))

/-- PORT_DOWN: no signal. -/
def execPortDown (port : Nat) (s : State) : Host.Outcome State Fault Refusal :=
  .next (if mainUp s && port < 8 && (getPort s port).state ≠ 0 then takePortDown port 2 s else s)

/-- CODEWORD_UNCORRECTABLE: resend from the first unacknowledged frame (R417). -/
def execCodewordUncorrectable (port : Nat) (s : State) : Host.Outcome State Fault Refusal :=
  .next (if mainUp s && port < 8 && (getPort s port).retry ≠ [] then emit (.leveeResend port (getPort s port).retry.length) s else s)

/-- HOP_ACKNOWLEDGEMENT: the oldest frames leave the retry buffer. -/
def execHopAcknowledgement (port count : Nat) (s : State) : Host.Outcome State Fault Refusal :=
  .next (if mainUp s && port < 8 then setPort s port { getPort s port with retry := (getPort s port).retry.drop count } else s)

/-! ## Authentication (R413) -/

/-- Refuse an association with a cause: a port over which none authenticates reports STATE 3. -/
def refuseAssoc (f : AuthFrame) (cause : Nat) (s : State) : State :=
  let s := match getAssoc s f.peer with
    | some a => if a.live then s else setAssoc s f.peer { a with cause := cause }
    | none => setAssoc s f.peer { ports := [f.port], live := false, cause := cause }
  let x := getPort s f.port
  setPort s f.port { x with cause := cause, state := if assocsOver s f.port = [] then 3 else x.state }

/-- An association with fresh keys and counters over some ports. -/
def newAssoc (f : AuthFrame) (ports : List Nat) (s : State) : State :=
  let own := (getPort s f.port).nonce
  setAssoc s f.peer
    { ports := ports, live := true, nonce := f.nonce, ownNonce := own, txKey := sendKey s f.peer own f.nonce, periodQ := f.periodQ }

/-- Form an association with fresh keys and counters, or add a port to it. -/
def formAssoc (f : AuthFrame) (s : State) : State :=
  let s := match getAssoc s f.peer with
    | some a =>
      let ports := if f.port ∈ a.ports then a.ports else a.ports ++ [f.port]
      if a.live then setAssoc s f.peer { a with ports := ports } else newAssoc f ports s
    | none => newAssoc f [f.port] s
  let x := getPort s f.port
  settleRotations (setPort s f.port { x with state := 2, step := 5, peer := lowestPeer s f.port })

/-- A live association with the peer of this very exchange, to which the frame only adds a port. -/
def samePeer (f : AuthFrame) (s : State) : Bool := (getAssoc s f.peer).any fun a => a.live && a.nonce = f.nonce

/-- The frame's period would not be this module's: while a change is pending, it must be the one that takes effect
(assumption log 62); else one of the two modules must be able to adopt the other's (R4, R413). -/
def periodClash (f : AuthFrame) (s : State) : Bool :=
  match s.tide.change with
  | some c => f.periodQ ≠ c.periodQ
  | none => f.periodQ ≠ s.tide.periodQ && busyAdmitted s && f.busy

/-- The cause for which an AUTH frame is refused: FLEET_MISMATCH, DUP_INDEX or PERIOD_MISMATCH. -/
def authFault (f : AuthFrame) (s : State) : Option Nat :=
  if !f.macOk || f.fleet ≠ s.ident.fleet then some 5
  else if s.flash.index = some f.peer || (getAssoc s f.peer).any (fun a => a.live && a.nonce ≠ f.nonce) then some 6
  else if !samePeer f s && periodClash f s then some 7
  else none

/-- This module's index is the lower of the two. -/
def ownLower (s : State) (peer : Nat) : Bool := decide (s.flash.index.getD 0 < peer)

/-- AUTH_FRAME on a port that is up. A module with nothing admitted adopts the period of one that has work, and of two with
nothing admitted the one with the lower index adopts the other's (assumption log 62). While debug is open no association
forms (R438, R443). -/
def execAuthFrame (f : AuthFrame) (s : State) : Host.Outcome State Fault Refusal :=
  .next (
    if !mainUp s || 8 ≤ f.port || !((getPort s f.port).state = 2 || (getPort s f.port).state = 3) || s.ident.debugOpen ||
        s.startup.unlocking.isSome then s
    else
      match authFault f s with
      | some k => refuseAssoc f k s
      | none =>
        let s := formAssoc f s
        if f.periodQ ≠ s.tide.periodQ && !busyAdmitted s && s.tide.change.isNone && (f.busy || ownLower s f.peer) then
          acceptTide f.periodQ s.tide.swellLen none true s
        else s)

/-- AUTH_RETRY: a refused association is tried again. -/
def execAuthRetry (peer : Nat) (s : State) : Host.Outcome State Fault Refusal :=
  .next (if !mainUp s then s else match getAssoc s peer with
    | some a => if a.live then s else a.ports.foldl (fun st n => sendAuth n st) s
    | none => s)

/-! ## Frames received (R414 to R416) -/

/-- Count a discarded frame on its port; a failed tag is a frame error too. -/
def dropFrame (port : Nat) (tag : Bool) (s : State) : State :=
  let x := getPort s port
  setPort s port { x with replayDrops := sat32 (x.replayDrops + 1), frameErrors := if tag then x.frameErrors else sat32 (x.frameErrors + 1) }

/-- The counter lies in the replay window and has not been accepted. -/
def freshCounter (a : Assoc) (counter : Nat) : Bool :=
  decide (a.rxHigh < counter + 1024) && counter ∉ a.rxSeen && decide (1 ≤ counter)

/-- The frame's generation is one that the receiver still keeps. -/
def keptGen (s : State) (a : Assoc) (gen : Bool) : Bool :=
  gen = a.rxGen || match a.rxOldUntil with
    | none => true
    | some u => decide (s.tide.ix < u)

/-- Accept a frame's counter and generation. The first frame under a new generation starts the 16 tides for which the old
one is kept; a peer that answers a switch under the new generation has switched. -/
def noteFrame (s : State) (a : Assoc) (counter : Nat) (gen : Bool) : Assoc :=
  let high := max a.rxHigh counter
  let a := { a with rxHigh := high, rxSeen := (counter :: a.rxSeen).filter fun c => high < c + 1024 }
  let old := a.rxOldUntil.any fun u => s.tide.ix < u
  let a := if gen = a.rxGen || old then a else { a with rxGen := gen, rxOldUntil := some (s.tide.ix + 16) }
  let due := a.switchAt.any fun k => decide (k ≤ s.tide.ix)
  { a with switched := a.switched || (due && gen = a.txGen) }

/-- Check a frame; none where it is discarded and counted. -/
def acceptFrame (port src counter : Nat) (gen tagOk : Bool) (s : State) : State × Bool :=
  match getAssoc s src with
  | some a =>
    if !a.live then (s, false)
    else if !freshCounter a counter then (dropFrame port true s, false)
    else if !tagOk || !keptGen s a gen then (dropFrame port false s, false)
    else (settleRotations (setAssoc s src (noteFrame s a counter gen)), true)
  | none => (s, false)

/-- The full tag of a datum taken in at a tide count (R57). -/
def datumTag (intake : Nat) (d : Datum) (seq : Word) : Tag :=
  { epoch := epochOf intake, tn := tnOf intake, rank := d.rank, srcMod := d.srcMod, srcLocal := d.srcLocal, seq := seq }

/-- Number that a breach entry shows of a tag. -/
def tagNumber (t : Tag) : Nat :=
  unle (tagBytes t)

/-- An input that waits for its edge; of two with the same full tag the first is kept, and a differing payload is a
breach (R63). -/
def awaitInput (w : Waiting) (s : State) : State :=
  match s.tide.waiting.find? (fun x => x.tag = w.tag && x.consumer = w.consumer) with
  | some x =>
    if x.datum.payload = w.datum.payload then s
    else recordBreach 0x0F 0 w.consumer.polder 255 255 w.tag.rank (tagNumber w.tag) s
  | none => { s with tide.waiting := s.tide.waiting ++ [w] }

/-- A late input: discarded and counted; the invocations that launched at the edge at which it was due carry LATE_INPUT
(R64). A codec session whose input does not come codes no picture, so no completion carries the flag. -/
def lateInput (c : Consumer) (dueIx : Nat) (s : State) : State :=
  modPolder { s with tide.ordLate := sat32 (s.tide.ordLate + 1) } c.polder
    (mapInvs (fun _ y => y.handle = c.handle) fun i => if i.launchIx = dueIx then { i with late := true } else i)

/-- The elapsed index of the tide that bears a label, by the spans of labels since the last relabels (R55). -/
def ixOfLabel (s : State) (count : Nat) : Nat :=
  match s.tide.labels.find? fun l => decide (l.2 ≤ count) with
  | some l => l.1 + (count - l.2)
  | none => 0

/-- DATA_FRAME: a forwarded input, visible two tides after its intake (R61), or a tensor of a linked job. A tag whose epoch
is 0 is invalid (R47). -/
def execDataFrame (f : DataFrame) (s : State) : Host.Outcome State Fault Refusal :=
  .next (
    if !mainUp s || 8 ≤ f.port then s
    else
      let r := acceptFrame f.port f.src f.counter f.keyGen f.tagOk s
      let s := r.1
      if !r.2 then s
      else
        match f.payload with
        | .input c intake d =>
          if epochOf intake = 0 then { s with tide.ordInvalid := sat32 (s.tide.ordInvalid + 1) }
          else if (getPolder s c.polder).isNone then s
          else
            let due := ixOfLabel s intake + 2
            if due ≤ s.tide.ix then lateInput c due s
            else awaitInput ⟨datumTag intake d d.seq, intake, due, { c with linked := true }, d⟩ s
        | .tensor p run _ =>
          if (p, run, f.src) ∈ s.links.jobs then s else { s with links.jobs := s.links.jobs ++ [(p, run, f.src)] })

/-! ## Control frames (R418 to R421) -/

/-- This member's index. -/
def ownIndex (s : State) : Nat := s.flash.index.getD 0

/-- The peers whose control frames have been heard. -/
def heardPeers (s : State) : List (Nat × Assoc) := s.links.assocs.filter fun a => a.2.live && a.2.lastTide.isSome

/-- The keepers that peers follow and that are no peers of this module: members reached through a relay. A relayed keeper
counts as LOCKED, since the peer that follows it would else have chosen by index among the same members (assumption
log 69). -/
def relayedKeepers (s : State) : List (Nat × Nat) :=
  ((heardPeers s).filter fun a => decide (a.2.hops < 255) && a.2.keeper ≠ a.1 && a.2.keeper ≠ ownIndex s &&
    !(heardPeers s).any (·.1 = a.2.keeper)).map fun a => (a.2.keeper, 2)

/-- The time keeper: the highest index among the LOCKED members, else the highest of all (R45). -/
def keeperIndex (s : State) : Nat :=
  let all := (ownIndex s, timeStateCode s.time.state) :: ((heardPeers s).map fun a => (a.1, a.2.timeState)) ++ relayedKeepers s
  let locked := all.filter fun m => m.2 = 2
  ((if locked = [] then all else locked).map (·.1)).foldl max 0

/-- The live peer that a follower measures: the keeper, or the peer with the fewest hops to it (R389, R419). -/
def timePeer (s : State) : Option Nat :=
  let k := keeperIndex s
  if memberReachable s k then some k
  else (((heardPeers s).filter fun a => a.2.keeper = k).foldl (fun b a => match b with
    | some (m, h) => if a.2.hops ≤ h then some (a.1, a.2.hops) else some (m, h)
    | none => some (a.1, a.2.hops)) none).map (·.1)

/-- Path delay and offset from the four times, in 1/16 ns (R419). -/
def pathDelay (f : ControlFrame) : Int := ((f.rxAt - f.correction - f.tEcho) - (f.tSend - f.tEchoRx)) / 2
def pathOffset (f : ControlFrame) : Int := ((f.tEcho - f.tEchoRx) + (f.rxAt - f.correction - f.tSend)) / 2

/-- Follow the keeper with SOURCE 3: the offset of its frames, or of the nearest peer's (R43 to R45, R419). -/
def followTime (f : ControlFrame) (s : State) : State :=
  let k := keeperIndex s
  let s := { s with time.keeper := some k }
  let s :=
    if k = ownIndex s then
      { s with time.hops := 0, time.state := if s.time.source = 3 then .free else s.time.state }
    else if timePeer s = some f.src then
      let s := { s with time.hops := min 255 (f.hops + 1) }
      if s.time.source = 3 then
        { s with time.state := .follow, time.offsetNs := pathOffset f / 16, time.delay16 := pathDelay f }
      else s
    else s
  chooseRef s

/-- Install an announced relabel at its edge; one already decided takes the announced edge (R55, R421). -/
def announcedRelabel (atTide count : Nat) (s : State) : State :=
  if atTide ≤ s.tide.count || count ≤ atTide then s
  else
    let q := s.tide.nowQ + (atTide - s.tide.count) * s.tide.periodQ
    if s.tide.relabels.any (·.count = count) then
      { s with tide.relabels := s.tide.relabels.map fun r => if r.count = count then { r with atQ := q, firm := true } else r }
    else { s with tide.relabels := s.tide.relabels ++ [(⟨count, q, none, true⟩ : Relabel)] }

/-- A period change that this member has accepted is announced: it stands, at the announced edge (R54, R421). -/
def announcedPeriod (atTide : Nat) (s : State) : State :=
  match s.tide.change with
  | some c =>
    if atTide ≤ s.tide.count || c.firm then s
    else
      let q := s.tide.nowQ + (atTide - s.tide.count) * s.tide.periodQ
      { s with tide.change := some { c with atQ := q, firm := true } }
  | none => s

/-- Return a status to an origin in the next control frame to it. -/
def replyStatus (origin : Nat) (seq : Word) (st : Status) (r : Reason) (s : State) : State :=
  match getAssoc s origin with
  | some a => setAssoc s origin { a with replyRecords := a.replyRecords ++ [.status (ownIndex s) origin seq (statusCode st) (reasonCode r)] }
  | none => s

/-- A forwarded command (R129, R130). -/
def forwardedCommand (origin : Nat) (seq : Word) (c : Forwarded) (s : State) : State :=
  match c with
  | .other _ => { s with tide.leveeDropped := sat32 (s.tide.leveeDropped + 1) }
  | .setTide q w =>
    if (origin, seq) ∈ s.links.seen then s
    else
      let s := { s with links.seen := (origin, seq) :: s.links.seen }
      match tideRefusal s q w with
      | some (st, r, _) => replyStatus origin seq st r s
      | none => replyStatus origin seq .ok .none (acceptTide q w none false s)
  | .tidePreset e t =>
    if (origin, seq) ∈ s.links.seen then s
    else
      let s := { s with links.seen := (origin, seq) :: s.links.seen }
      if s.ident.lifecycle ≠ .service then replyStatus origin seq .notPermitted .lifecycle s
      else
        match decideRelabel (e * 4294967296 + t) none false s with
        | some s' => replyStatus origin seq .ok .none s'
        | none => replyStatus origin seq .badParam .none s

/-- One record of a control frame. -/
def takeRecord (s : State) (r : LinkRecord) : State :=
  match r with
  | .command origin seq c => forwardedCommand origin seq c (wakeEvent s)
  | .status member origin seq st reason => if origin = ownIndex s then memberStatus member seq st reason s else s

/-- A joining module's next epoch above the installation's: the count advances to that epoch, unless the advance has been
decided already (R50, R421). -/
def advanceEpoch (epochNext : Nat) (s : State) : State :=
  if epochOf s.tide.count < epochNext && !s.tide.relabels.any (fun r => decide (epochNext * 4294967296 ≤ r.count)) then
    (decideRelabel (epochNext * 4294967296) none true s).getD s
  else s

/-- The grid that a module without a running tide adopts from a member: its next edge, and the tides from the origin to it
(R50, R418). -/
def joinOf (f : ControlFrame) : Join :=
  { count := f.tide + 1
    elapsed := (f.tSend.toNat / 16) / (max f.periodQ 1 * Config.quarterNs) + 1
    periodQ := f.periodQ }

/-- What the association remembers of a control frame. -/
def noteControl (f : ControlFrame) (s : State) : State :=
  match getAssoc s f.src with
  | some a =>
    setAssoc s f.src
      { a with lastTide := some f.tide, timeState := f.timeState, hops := f.hops, keeper := f.keeper,
               epochNext := f.epochNext, periodQ := f.periodQ, opTarget := some (f.tide + 2, f.opTarget),
               lastSend := f.tSend, lastRx := f.rxAt - f.correction,
               switchAt := if f.announceKey && a.switchAt.isNone then some (s.tide.ix + (f.atTide - s.tide.count)) else a.switchAt }
  | none => s

/-- CONTROL_FRAME. -/
def execControlFrame (f : ControlFrame) (s : State) : Host.Outcome State Fault Refusal :=
  .next (
    if !mainUp s || 8 ≤ f.port then s
    else
      let r := acceptFrame f.port f.src f.counter f.keyGen f.tagOk s
      let s := r.1
      if !r.2 then s
      else
        let s := followTime f (noteControl f s)
        let s := if s.tide.running then advanceEpoch f.epochNext s else { s with tide.join := some (joinOf f) }
        let s := if f.announceRelabel then announcedRelabel f.atTide f.relabelTo s else s
        let s := if f.announcePeriod then announcedPeriod f.atTide s else s
        f.records.foldl takeRecord s)

/-! ## Control frames sent (R418, R421) -/

/-- The announcement bits and their values: a relabel, a period change, a key switch. -/
def announcement (s : State) (a : Assoc) : Bool × Bool × Bool × Nat × Nat :=
  let edge (q : Nat) : Nat := s.tide.count + tidesTo s q
  match s.tide.relabels.filter (·.firm), s.tide.change.filter (·.firm), a.switchAt with
  | r :: _, _, _ => (true, false, false, edge r.atQ, r.count)
  | [], some c, _ => (false, true, false, edge c.atQ, 0)
  | [], none, some k => (false, false, decide (s.tide.ix < k), s.tide.count + (k - s.tide.ix), 0)
  | [], none, none => (false, false, false, 0, 0)

/-- Forwarded commands of this origin that a member has not answered. -/
def forwardRecords (s : State) (m : Nat) : List LinkRecord :=
  (s.links.forwards.filter fun f => m ∈ f.waiting).filterMap fun f => match f.cmd with
    | .setTide _ q w => some (.command (ownIndex s) f.seq (.setTide q w))
    | .tidePreset _ e t => some (.command (ownIndex s) f.seq (.tidePreset e t))
    | _ => none

/-- Send one control frame to a peer over the highest-numbered up port that reaches it; at most four records, the rest in
the next tide's frame. A counter that reaches 2^63 forces a new authentication (R414). -/
def sendControl (op : Nat) (s : State) (m : Nat) : State :=
  match getAssoc s m, otherPort s 8 m with
  | some a, some n =>
    if !a.live then s
    else if 9223372036854775808 ≤ a.txCounter then reauthenticate m 0 s
    else
      let recs := (a.replyRecords ++ forwardRecords s m).take 4
      let an := announcement s a
      let s := setAssoc s m { a with txCounter := a.txCounter + 1, replyRecords := a.replyRecords.drop 4 }
      let s := setPort s n { getPort s n with retry := (getPort s n).retry ++ [(m, a.txCounter)] }
      emit (.leveeControl m n s.tide.count s.tide.epochNext (timeStateCode s.time.state) s.time.hops
        (s.time.keeper.getD (ownIndex s)) op s.tide.periodQ a.lastSend a.lastRx an.1 an.2.1 an.2.2.1 an.2.2.2.1 an.2.2.2.2 recs) s
  | _, _ => s

/-- The control frames of a tide, with this module's own target for the tide after the next. -/
def sendControls (op : Nat) (s : State) : State := (s.links.assocs.map (·.1)).foldl (sendControl op) s

/-- The lowest target that the members of the linked jobs announced for a tide; a missing one counts as OP0 (R364). -/
def linkLimit (s : State) : Nat :=
  (s.links.jobs.map (·.2.2)).foldl (fun m j =>
    min m (match (getAssoc s j).bind (·.opTarget) with
      | some (t, op) => if t = s.tide.count then op else 0
      | none => 0)) 7

/-! ## Meanings of the commands -/

def execLinkConfig (h : Hdr) (portMask enableMask : Byte) (index : Nat) (s : State) : Host.Outcome State Fault Refusal :=
  fetched (.linkConfig h portMask enableMask index) h (arriveLinkConfig h portMask enableMask index) s

def execLinkStatus (h : Hdr) (port : Nat) (s : State) : Host.Outcome State Fault Refusal :=
  fetched (.linkStatus h port) h (arriveLinkStatus h port) s

def execKeyRotateLink (h : Hdr) (key : Nat) (s : State) : Host.Outcome State Fault Refusal :=
  fetched (.keyRotateLink h key) h id s

end Sys2Proof.Machine
end

