-- ==== Sys2Proof/Machine/Channels.lean ====
section
/-! DEFINITION. Machine/Channels.lean: the Class S channels, the loss of a stack, spare promotion and golden runs
(R93 to R97, R306 to R310, R314, R322 to R324, R340, R348 to R352). -/

namespace Sys2Proof.Machine

/-! ## Channels and stacks -/

/-- Stacks in service. -/
def okStacks (s : State) : List Nat := (List.range 4).filter fun k => s.work.stackOk.getD k false

/-- Channels that have a stack. -/
def liveChannels (s : State) : List Nat := (List.range 3).filter fun c => (s.work.channels.getD c none).isSome

/-- The channel that a stack carries. -/
def channelOf (s : State) (stack : Nat) : Option Nat :=
  (List.range 3).find? fun c => s.work.channels.getD c none = some stack

/-- The stack of a channel; 255 when it has none. -/
def stackOfChannel (s : State) (c : Nat) : Nat := (s.work.channels.getD c none).getD 255

/-- The graph's work lies on a stack. -/
def onStack (g : Graph) (k : Nat) : Bool := (graphTiles g).any (·.stack = k)

/-- Apply a function to every graph, polders ascending, handles ascending. -/
def forGraphs (f : Nat → Nat → State → State) (s : State) : State :=
  (polderNumbers s).foldl (fun st p => match getPolder st p with
    | some x => (x.graphs.map (·.1)).foldl (fun u h => f p h u) st
    | none => st) s

/-! ## Moves of Class Q and Class B work (R93, R95) -/

/-- Clear the written bits of the lines that a move of a graph vacates (R169). -/
def clearVacated (p h : Nat) (g : Graph) (s : State) : State :=
  let held := (graphTiles g).map fun u => 32 * u.stack + u.tile
  clearWhere (fun tile k => k = lineHolder p h && tile ∉ held) s

/-- A re-placement takes effect: the count, its tide, and the polder's PLACEMENT_CHANGED vector. -/
def moved (p h : Nat) (g : Graph) (s : State) : State :=
  raiseVector (.vf p) 17 (clearVacated p h g
    (setGraph s p h { g with replaceCount := g.replaceCount + 1, lastCount := s.tide.count, moveAt := none }))

/-- One line of the module before, by its number among all tiles, written into another line (R168). -/
def putLine (holder : Nat) (was : State) (key to_ : Nat) (s : State) : State :=
  sramWrite holder (64 * to_) (readBytes was.mem.cells (64 * key) 64) s

/-- The line of a tile that a moved line takes: that of its own number, or the least that no line of the same tile index
holds on any stack (assumption log 63). -/
def freeLine (s : State) (tile line : Nat) : Nat :=
  let taken := (s.mem.written.filter fun e => e.1 / 1048576 % 32 = tile % 32).map (·.1 % 1048576)
  if line ∈ taken then ((List.range (taken.length + 1)).find? (· ∉ taken)).getD line else line

/-- The lines that a graph's move has vacated reach its new tiles, those of a stack in service (R95): the tile of each is
the one that took the place of its own. -/
def carryGraph (was : State) (p h : Nat) (s : State) : State :=
  match getGraph was p h, getGraph s p h with
  | some f, some g =>
    if f.replaceCount = g.replaceCount then s
    else
      let src := graphTiles f
      let dst := graphTiles g
      was.mem.written.foldl (fun st e =>
        let tile := e.1 / 1048576
        if e.2 ≠ lineHolder p h || (tget s.mem.written e.1).isSome || tile / 32 ∉ okStacks s then st
        else match dst[src.findIdx (fun u => 32 * u.stack + u.tile = tile) % max dst.length 1]? with
          | some v =>
            if v.stack < 4 then
              putLine e.2 was e.1 (1048576 * (32 * v.stack + v.tile) + freeLine st (32 * v.stack + v.tile) (e.1 % 1048576)) st
            else st
          | none => st) s
  | _, _ => s

/-- Moves lose no committed state: between the module before and after them, every graph's lines have gone with it (R95). -/
def carryMoves (was s : State) : State := forGraphs (carryGraph was) s

/-- Tile uses that leave a place go to places that the module's search finds, on stacks in service. -/
def replaceUses (s : State) (k : Nat) (leave : TileUse → Bool) (us : List TileUse) : List TileUse :=
  let ok := okStacks s
  us.mapIdx fun i u =>
    if leave u then
      let v := Config.newPlace k i
      { u with stack := ok.getD (v / 32 % max ok.length 1) 255, tile := v % 32 }
    else u

/-- Apply a change to the plans of a graph and of its variants. -/
def mapPlans (f : Plan → Plan) (g : Graph) : Graph :=
  { g with plan := f g.plan, variants := g.variants.map fun v => (v.1, f v.2) }

/-- A graph with its tiles elsewhere. -/
def withTiles (f : List TileUse → List TileUse) (g : Graph) : Graph := mapPlans (fun q => { q with tiles := f q.tiles }) g

/-! ### Frames that a lost stack held (R96, R187) -/

/-- HBM frames of a compute stack's two DRAM stacks. -/
def stackFrames (k : Nat) : Nat × Nat := (12582912 * k, 12582912 * (k + 1))

/-- The parts of extents that lie on a compute stack, and those that do not. -/
def extentsOn (k : Nat) (es : List Extent) : List Extent :=
  es.filterMap fun e =>
    let a := max e.base (stackFrames k).1
    let b := min (e.base + e.frames) (stackFrames k).2
    if a < b then some ⟨a, b - a⟩ else none

def extentsOff (k : Nat) (es : List Extent) : List Extent :=
  es.flatMap fun e => (subIv (stackFrames k) [(e.base, e.base + e.frames)]).map fun x => ⟨x.1, x.2 - x.1⟩

/-- A plan's HBM leaves a compute stack for free frames of the others: the frames that it vacates are scrubbed for the pool,
and those that it takes come scrubbed from it. -/
def leaveFrames (p k : Nat) (q : Plan) (s : State) : Plan × State :=
  let gone := extentsOn k q.hbm
  if gone = [] then (q, s)
  else
    let room := (freeIvs s p 1 0 (tierFrames 1)).flatMap fun iv => subIv (stackFrames k) [iv]
    let new := gather (frameSum gone) room
    let es := gone.map fun e => (1, e)
    ({ q with hbm := extentsOff k q.hbm ++ new }, claimAll p 1 new (startScrub p .frames none false es (vacate es s)))

/-- The graph's own plan leaves a compute stack's HBM. -/
def leaveHbm (p h k : Nat) (s : State) : State :=
  match getGraph s p h with
  | some g =>
    let r := leaveFrames p k g.plan s
    setGraph r.2 p h { g with plan := r.1 }
  | none => s

/-! ### Moving and shedding -/

/-- Shed a Class B graph's runs (R96). -/
def shedGraph (p h : Nat) (s : State) : State :=
  (runNumbers s p).foldl (fun st r => if (getRun st p r).any (fun y => y.handle = h) then shedRun p r st else st) s

/-- A Class B graph fits with its tiles elsewhere: free SRAM on each (R75, R91). -/
def fitsB (s : State) (p h : Nat) (g : Graph) : Bool :=
  let gs := (placedOf s).filter (fun q => !(q.polder = p && q.handle = h)) ++ [(⟨p, h, .B, g⟩ : Placed)]
  (graphTiles g).all (fun u => u.stack < 4) && (memoryCheck s gs g true).isNone

/-- Move a Class B graph off a lost stack: re-placed, or shed where the places that the search finds do not hold it. -/
def moveB (p h : Nat) (leave : TileUse → Bool) (s : State) : State :=
  match getGraph s p h with
  | none => s
  | some g =>
    let g' := withTiles (replaceUses s s.fresh leave) g
    let ok := fitsB s p h g'
    let s := { s with fresh := s.fresh + 1 }
    if ok then moved p h g' s else shedGraph p h s

/-- A Class Q graph passes the Class Q checks with its tiles elsewhere (R93). -/
def passesQ (s : State) (p h : Nat) (g : Graph) : Bool :=
  let gs := (placedOf s).filter (fun q => !(q.polder = p && q.handle = h)) ++ [(⟨p, h, .Q, g⟩ : Placed)]
  (graphTiles g).all (fun u => u.stack < 4) && (firstCheck (graphChecks s (envNow s) gs .Q g true true)).isNone

/-- Why work would leave a tile: it is paced, or TEST_STARVED stands for it (R93). -/
inductive MoveCause where
  | paced
  | starved
deriving DecidableEq, Repr

/-- The reserve of R94 breaks the limit of a tile. -/
def reserveBreaks (s : State) (place : Nat) : Bool := (qbTileCheck s (envNow s) (placedOf s) (place / 32) (place % 32)).isSome

/-- Decide a move of a Class Q or Class B graph off a tile, to take effect at one edge within 50 tides (R93, R95). Class Q moves
off a paced tile, or off one whose limit the reserve breaks, where the search finds a plan that passes the Class Q checks.
Class B moves; where nothing holds it, it is shed off a starved tile, and stays on a paced one. -/
def decideMove (cause : MoveCause) (p h place : Nat) (s : State) : State :=
  match getGraph s p h, clsOf s p with
  | some g, some cls =>
    if cls = .S || g.moveAt.isSome || !(graphTiles g).any (fun u => 32 * u.stack + u.tile = place) then s
    else if cls = .Q && cause = .starved && !reserveBreaks s place then s
    else
      let k := s.fresh
      let g' := withTiles (replaceUses s k fun u => 32 * u.stack + u.tile = place) g
      let ok := if cls = .Q then passesQ s p h g' else fitsB s p h g'
      let s := { s with fresh := s.fresh + 1 }
      if ok then setGraph s p h { g with moveAt := some ⟨s.tide.ix + 1 + Config.moveTides k % 50, k, place⟩ }
      else if cls = .B && cause = .starved then shedGraph p h s
      else s
  | _, _ => s

/-- Decide moves of every Class Q and Class B graph off a tile. -/
def decideMoves (cause : MoveCause) (place : Nat) (s : State) : State :=
  forGraphs (fun p h st => decideMove cause p h place st) s

/-- At an edge, the moves whose switching edge has come take the places that their decision found. -/
def switchMoves (s : State) : State :=
  forGraphs (fun p h st => match getGraph st p h with
    | some g => match g.moveAt with
      | some m =>
        if m.edge ≤ st.tide.ix then
          moved p h (withTiles (replaceUses st m.search fun u => 32 * u.stack + u.tile = m.place) g) st
        else st
      | none => st
    | none => st) s

/-- The graph declares recurrent state. -/
def hasState (g : Graph) : Bool := g.img.tensors.any (·.role = .state)

/-- The degraded plan in force: its tiles, position k on the stack in service with the k-th lowest number (R87). -/
def toDegraded (s : State) (q : Plan) : Plan :=
  { q with tiles := q.degraded.map fun u => { u with stack := (okStacks s).getD u.stack 255 } }

/-- Class Q work leaves for its degraded plan. -/
def degradeQ (p h : Nat) (s : State) : State :=
  match getGraph s p h with
  | some g => moved p h { mapPlans (toDegraded s) g with degraded := true } s
  | none => s

/-- The stack goes out of service (R340). -/
def retire (k : Nat) (s : State) : State := { s with work.stackOk := s.work.stackOk.set k false }

/-- A session's buffers leave a stack that goes out of service, for free frames of the others. -/
def moveBuffers (k : Nat) (s : State) : State :=
  s.codec.sessions.foldl (fun st q =>
    let gone := extentsOn k q.2.buffers
    if gone = [] then st
    else
      let p := q.2.polder
      let room := (freeIvs st p 1 0 (tierFrames 1)).flatMap fun iv => subIv (stackFrames k) [iv]
      let new := gather (frameSum gone) room
      let es := gone.map fun e => (1, e)
      let st := claimAll p 1 new (startScrub p .frames none false es (vacate es st))
      { st with codec.sessions := tset st.codec.sessions q.1 { q.2 with buffers := extentsOff k q.2.buffers ++ new } }) s

/-- A frame of HBM lies on a compute stack. -/
def onHbm (k tier frame : Nat) : Bool := tier = 1 && decide ((stackFrames k).1 ≤ frame) && decide (frame < (stackFrames k).2)

/-- Keys and values that a stack held when it went out of service cannot be read: the requests that need them meet ST_DATA_ERROR,
and entries of the prefix store there are dropped (R177, R276). -/
def loseKv (k : Nat) (s : State) : State :=
  let hit (r : Request) : Request := if r.pages.any fun e => onHbm k e.tier e.frame then { r with dataError := true } else r
  let gone := s.work.pfx.filter fun e => onHbm k e.tier e.frame
  gone.foldl (fun st e => loosen e.tier ⟨e.frame, e.frames⟩ st)
    { s with
      work.polders := s.work.polders.map fun q => (q.1, { q.2 with requests := q.2.requests.map hit })
      work.pfx := s.work.pfx.filter fun e => !onHbm k e.tier e.frame }

/-- Class Q and Class B work that lies on a stack leaves it at one edge; `was` is the module before. Frames of a stack that goes
out of service are left too. -/
def leaveStack (was : State) (k : Nat) (s : State) : State :=
  let out := was.work.stackOk.getD k false && !s.work.stackOk.getD k false
  let s := if out then moveBuffers k (loseKv k s) else s
  forGraphs (fun p h st => match getGraph st p h with
    | some g =>
      if isClassS st p then st
      else
        let st := if out then leaveHbm p h k st else st
        if ((getGraph was p h).any fun f => onStack f k) && onStack g k then
          if clsOf st p = some .Q then degradeQ p h st else moveB p h (fun u => u.stack = k) st
        else st
    | none => st) s

/-- The frames of a session's input slots, and those of its reference slots (R285; assumption log 73). -/
def inputFrames (c : Session) : List Extent :=
  let slot := if c.kind = 0 then rawBytes c else 2 * c.cfg.maxPicBytes
  gather (frames4K (2 * slot)) (c.buffers.map fun e => (e.base, e.base + e.frames))

def refFrames (c : Session) : List Extent :=
  (inputFrames c).foldl (fun es i => es.flatMap fun e =>
    (subIv (i.base, i.base + i.frames) [(e.base, e.base + e.frames)]).map fun x => ⟨x.1, x.2 - x.1⟩) c.buffers

/-- Codec sessions whose slots a lost stack held: the picture being coded meets damaged data, and after lost references the
next one starts afresh (R304, R305). -/
def loseSlots (k : Nat) (s : State) : State :=
  let lostIn (c : Session) : Bool := extentsOn k (inputFrames c) ≠ []
  let lostRef (c : Session) : Bool := extentsOn k (refFrames c) ≠ []
  let mark (q : Picture) : Picture := match tget s.codec.sessions q.session with
    | some c => if q.started then { q with inputError := q.inputError || lostIn c, refError := q.refError || lostRef c } else q
    | none => q
  let fresh (c : Session) : Session := if lostRef c then { c with forceIdr := true, refs := [] } else c
  { s with codec.queue := s.codec.queue.map mark,
           codec.sessions := s.codec.sessions.map fun q => (q.1, fresh q.2) }

/-- Work of a lost stack (R96): the invocations complete with ST_BREACH, runs with recurrent state restart, and weights
are reloaded from the image copy; steps of serving requests of that tide are lost. -/
def loseWork (k : Nat) (s : State) : State :=
  loseSlots k <| forGraphs (fun p h st => match getGraph st p h with
    | some g =>
      if isClassS st p || !onStack g k then st
      else
        let st := failRuns p (fun _ y => y.handle = h) .breach false st
        let st := modPolder st p fun x =>
          { x with
            runs := x.runs.map fun q => if q.2.handle = h then (q.1, { q.2 with restartState := hasState g }) else q
            requests := x.requests.map fun r => if r.handle = h then { r with work := none, stepDone := false } else r }
        setGraph st p h { g with reloadWeights := true }
    | none => st) s

/-! ## Breaches and removals at an edge (R314, R322, R340) -/

/-- A channel is breached by a decision: the entry carries the digest that was seen, 0 where none was (R313, R354). -/
def markBreached (c seen : Nat) (s : State) : State :=
  if c ∈ s.work.breached then s
  else recordBreach 0x03 2 255 (stackOfChannel s c) 255 c seen { s with work.breached := s.work.breached ++ [c] }

/-- Ask for the removal of a stack at the next edge, with its cause (R340). -/
def removeStack (k cause : Nat) (s : State) : State :=
  if s.work.removals.any (·.1 = k) || !s.work.stackOk.getD k false then s
  else { s with work.removals := s.work.removals ++ [(k, cause)] }

/-- CS3 can take a channel's place: in service, carrying none, and the module still has its spare. -/
def spareReady (s : State) : Bool := s.work.stackOk.getD 3 false && (channelOf s 3).isNone && !s.work.noSpare

/-- The source of a promotion: the healthy channel with the higher stack number (R322). -/
def promotionSource (s : State) : Nat := (channelStacks s).foldl max 0

/-- Stacks that the closing edge takes away: those to be removed, and those of the channels that its decisions breach. -/
def lostStacks (s : State) : List Nat :=
  s.work.removals.map (·.1) ++ (s.work.breached.filter fun c => c ∈ liveChannels s).map (stackOfChannel s)

/-- Work of the closing tide on the stacks that its edge takes away is lost before anything commits (R96). -/
def loseStacks (s : State) : State := (lostStacks s).foldl (fun st k => loseWork k st) s

/-- Channel c leaves the vote: DUAL mode, and the promotion of the spare starts. Its stack is lost to other work (R87, R96;
assumption log 64). -/
def leaveVote (c : Nat) (s : State) : State :=
  let k := stackOfChannel s c
  let s := { s with work.channels := s.work.channels.set c none, work.dual := true }
  let s := leaveStack s k (retire k s)
  if spareReady s then { s with work.promotion := some { e0 := s.tide.ix, channel := c, source := promotionSource s } }
  else { s with work.noSpare := true }

/-- Remove one stack from service at the edge: its channel is breached; the loss of an unpromoted CS3 leaves no spare. -/
def takeStack (k cause : Nat) (s : State) : State :=
  let s := recordBreach 0x0A 2 255 k 255 cause 0 s
  match channelOf s k with
  | some c => markBreached c 0 s
  | none => leaveStack s k (retire k { s with work.noSpare := true, work.promotion := none })

/-- The channel of a stack that is out of service has none left. -/
def dropChannel (k : Nat) (s : State) : State :=
  retire k { s with work.channels := s.work.channels.map fun c => if c = some k then none else c }

/-- The removals and the breaches that take effect at the edge: one breach in TRIPLE mode starts DUAL mode; two in one
tide, or one in DUAL mode, enter SAFE_HOLD (R314, R324, R326). -/
def settleChannels (s : State) : State :=
  let gone := s.work.removals.map (·.1)
  let s := s.work.removals.foldl (fun st r => takeStack r.1 r.2 st) { s with work.removals := [] }
  let cs := s.work.breached.filter fun c => c ∈ liveChannels s
  let s := { s with work.breached := [] }
  let s := match cs with
    | [] => s
    | [c] => if s.work.dual then enterHold 1 s else leaveVote c s
    | _ => enterHold 1 s
  gone.foldl (fun st k => dropChannel k st) s

/-- First byte and first line of a stack's SRAM. -/
def stackBase (k : Nat) : Nat := sramBase (32 * k)

/-- Clear the written bits of a stack's lines, but for those of graphs that lie on it (R169, R322). -/
def clearStack (k : Nat) (s : State) : State :=
  { s with mem.written := s.mem.written.filter fun e =>
      e.1 < stackBase k / 64 || stackBase (k + 1) / 64 ≤ e.1 || (getGraph s (e.2 / 16) (e.2 % 16)).any fun g => onStack g k }

/-- The spare takes the source's Class S lines at the same indices, with their written bits (R170, R322). -/
def mirrorStack (src dst : Nat) (s : State) : State :=
  let line (a : Nat) : Bool := stackBase src / 64 ≤ a && a < stackBase (src + 1) / 64
  s.mem.written.foldl
    (fun st e => if line e.1 && isClassS s (e.2 / 16) then
        putLine e.2 s e.1 (e.1 - stackBase src / 64 + stackBase dst / 64) st
      else st) s

/-- The promotion's steps at an edge: by e0 + 10 the spare's work leaves; after the copy of a tide the spare joins as the
breached channel and the vote is TRIPLE again (R322). -/
def stepPromotion (s : State) : State :=
  match s.work.promotion with
  | none => s
  | some m =>
    let s := if !m.switched && m.e0 + 10 ≤ s.tide.ix then
        clearStack 3 (leaveStack s 3 { s with work.promotion := some { m with switched := true } })
      else s
    if m.copied && m.switched then
      mirrorStack m.source 3
        { s with work.channels := s.work.channels.set m.channel (some 3), work.dual := false, work.noSpare := true,
                 work.promotion := none }
    else s

/-- After a warm restart the promotion starts again from its first step (R324). -/
def restartPromotion (s : State) : State :=
  { s with work.promotion := s.work.promotion.map fun m => { m with e0 := s.tide.ix, switched := false, copied := false } }

/-- PROMOTION_COPY_DONE: the copies of a tide have ended; one that failed is repeated in the next tide (R322, R324). -/
def execPromotionCopyDone (ok : Bool) (s : State) : Host.Outcome State Fault Refusal :=
  .next (match s.work.promotion with
    | some m => if m.switched then { s with work.promotion := some { m with copied := ok } } else s
    | none => s)

/-! ## Fault markers (R158, R177, R310) -/

/-- The tag of a run's result in the tide in progress (R308). -/
def resultTag (s : State) (p r : Nat) : Tag :=
  { epoch := epochOf s.tide.count, tn := tnOf s.tide.count, rank := 7, srcMod := s.flash.index.getD 0,
    srcLocal := 64 * p + r, seq := nextSeq s (resultKey s p r) }

/-- A channel has sent its frame of a run in this tide. -/
def sentResult (s : State) (p r c : Nat) : Bool := s.work.results.any fun x => x.1 = p && x.2.1 = r && x.2.2.1 = c

/-- One bit of CRC-32C, least significant bit first. -/
def crcBit (c : Nat) : Nat := if c % 2 = 1 then (BitVec.ofNat 32 (c / 2) ^^^ 0x82F63B78).toNat else c / 2

/-- CRC-32C of some bytes. -/
def crc32c (bs : List Byte) : Nat :=
  let step (c : Nat) (b : Byte) : Nat := (List.range 8).foldl (fun c _ => crcBit c) (BitVec.ofNat 32 c ^^^ b.setWidth 32).toNat
  4294967295 - bs.foldl step 4294967295

/-- The bytes of a vote frame, with its CRC (R310). -/
def voteFrameBytes (f : VoteFrame) : List Byte :=
  let n := f.payload.length
  let body := tagBytes f.tag ++ le 1 f.channel ++ le 1 f.stack ++ le 1 (bit f.marker) ++ le 1 (bit f.trajectory) ++ le 4 n ++
    le 8 0 ++ le 16 f.digest.toNat ++ padTo ((n + 15) / 16 * 16) f.payload
  body ++ le 4 (crc32c body)

/-- Send a frame to both wardens, and note it. -/
def sendVote (p r c : Nat) (f : VoteFrame) (d : Option (BitVec 128)) (s : State) : State :=
  if sentResult s p r c then s
  else emit (.voteFrame .B f (voteFrameBytes f)) (emit (.voteFrame .A f (voteFrameBytes f)) { s with work.results := s.work.results ++ [(p, r, c, d)] })

/-- A channel sends a fault marker in place of a run's result. -/
def sendMarker (p r c : Nat) (s : State) : State :=
  sendVote p r c
    { tag := resultTag s p r, channel := c, stack := stackOfChannel s c, marker := true, trajectory := false, payload := [],
      digest := 0, crcOk := true, testFrame := false } none s

/-- A channel sends fault markers for every result of the tide that a pick chooses. -/
def markChannel (pick : Nat → Nat → Bool) (c : Nat) (s : State) : State :=
  forRuns (fun p r st =>
    if isClassS st p && pick p r && (getRun st p r).any (fun y => y.invs ≠ []) then sendMarker p r c st else st) s

/-! ## Golden runs (R348 to R352) -/

/-- Position of the tide in its swell, and the swell's number. -/
def swellPos (s : State) : Nat × Nat :=
  ((s.tide.ix - s.tide.swellIx) % max s.tide.swellLen 1, (s.tide.ix - s.tide.swellIx) / max s.tide.swellLen 1)

/-- Class B occupancy due on a tile in this tide, at the operating point in force. -/
def bDueAt (s : State) (stack n : Nat) : Nat :=
  ((placedOf s).filter fun q => q.cls = .B && ((getPolder s q.polder).any fun x => x.runs.any fun r =>
      r.2.handle = q.handle && r.2.invs ≠ [])).map (fun q =>
    (((graphTiles q.g).filter fun u => u.stack = stack && u.tile = n).map fun u => occAt u s.power.op).sum) |>.sum

/-- The golden run fits on every tile before P − E beside the Class Q and Class B quanta due there. -/
def goldenFits (s : State) (g : Graph) : Bool :=
  let e := envNow s
  let gs := placedOf s
  (graphTiles g).all fun u => (channelStacks s).all fun k =>
    decide (qOccAt e gs k u.tile + goldenNs u + bDueAt s k u.tile ≤ e.region true)

/-- Golden runs may not take place: a promotion, SAFE_HOLD, or nothing launches. -/
def goldenBlocked (s : State) : Bool := s.work.promotion.isSome || s.safety.hold.isSome || !mayLaunch s

/-- Place the golden run of one graph at the opening edge of a tide of its window. -/
def placeGolden (p h : Nat) (s : State) : State :=
  match getGraph s p h with
  | none => s
  | some g => match g.golden with
    | none => s
    | some y =>
      let pos := (swellPos s).1
      let no := (swellPos s).2
      let w := goldenWidth s.tide.swellLen
      let last := pos + 1 = y.offset + w
      if pos < y.offset || y.offset + w ≤ pos || y.doneSwell = some no then s
      else if goldenBlocked s then
        if last then
          setGraph (recordBreach 0x0C 0 p 255 255 h 0 s) p h { g with golden := some { y with doneSwell := some no } }
        else s
      else if last || goldenFits s g then
        setGraph s p h { g with golden := some { y with runningIx := some s.tide.ix, digests := [], parts := [], doneSwell := some no } }
      else s

def placeGoldens (s : State) : State := forGraphs placeGolden s

/-- The digest of one channel's golden run. -/
def noteGolden (p h c : Nat) (d : Option (BitVec 128)) (s : State) : State :=
  match getGraph s p h with
  | some g => setGraph s p h { g with golden := g.golden.map fun y =>
      if y.runningIx.isSome && !y.digests.any (·.1 = c) then { y with digests := y.digests ++ [(c, d)] } else y }
  | none => s

/-- What one channel's golden run has written of the output tensors is its result, whose digest the last quantum gives (R348). -/
def endGolden (p h c : Nat) (s : State) : State :=
  match getGraph s p h with
  | some g => match g.golden with
    | some y => noteGolden p h c (some (Config.sha256Head (resultOf g.img y.parts c))) s
    | none => s
  | none => s

/-- Fault markers replace the digests of the golden runs that a polder has in progress on a channel (R352). -/
def markGoldens (p c : Nat) (s : State) : State :=
  forGraphs (fun q h st => if q = p then noteGolden p h c none st else st) s

/-- What a channel's golden run gave: none where it is missing or a fault marker. -/
def goldenDigest (y : Golden) (c : Nat) : Option (BitVec 128) := ((y.digests.find? (·.1 = c)).map (·.2)).join

/-- A digest that at least two of the channels gave. -/
def majority (ds : List (Option (BitVec 128))) : Option (BitVec 128) :=
  ds.findSome? fun d => d.bind fun x => if 2 ≤ (ds.filter (· = some x)).length then some x else none

/-- Learn a reference (R351). -/
def learnGolden (p h : Nat) (g : Graph) (y : Golden) (d : BitVec 128) (s : State) : State :=
  recordBreach 0x0B (if y.expected ≠ 0 && y.expected = d then 4 else 0) p 255 255 h d.toNat
    (setGraph s p h { g with golden := some { y with reference := some d, learning := false, runningIx := none, digests := [], parts := [] } })

/-- Breach the channels of a golden run, each with the digest that it gave. -/
def breachGolden (y : Golden) (cs : List Nat) (s : State) : State :=
  cs.foldl (fun st c => markBreached c (((goldenDigest y c).map (·.toNat)).getD 0) st) s

/-- Judge the golden run of one graph, a decision of the tide that closes (R351, R352). -/
def judgeGolden (lostIx p h : Nat) (s : State) : State :=
  match getGraph s p h with
  | none => s
  | some g => match g.golden with
    | none => s
    | some y =>
      if y.runningIx ≠ some lostIx then s
      else
        let live := liveChannels s
        let ds := live.map (goldenDigest y)
        let ended := setGraph s p h { g with golden := some { y with runningIx := none, digests := [], parts := [] } }
        let differ (d : Option (BitVec 128)) : List Nat := live.filter fun c => goldenDigest y c ≠ d || d.isNone
        if y.learning then
          match majority ds with
          | some d =>
            if s.work.dual then learnGolden p h g y d s
            else breachGolden y (differ (some d)) (learnGolden p h g y d s)
          | none => if s.work.dual then enterHold 1 ended else breachGolden y live ended
        else if differ y.reference = [] then ended
        else if s.work.dual then enterHold 1 ended
        else breachGolden y (differ y.reference) ended

def judgeGoldens (lostIx : Nat) (s : State) : State := forGraphs (judgeGolden lostIx) s

/-- A discarded tide: its golden runs are forgotten and run again (R332). -/
def dropGoldens (s : State) : State :=
  forGraphs (fun p h st => match getGraph st p h with
    | some g => setGraph st p h { g with golden := g.golden.map fun y =>
        if y.runningIx.isSome then { y with runningIx := none, digests := [], parts := [], doneSwell := none } else y }
    | none => st) s

end Sys2Proof.Machine
end

