-- ==== Sys2Proof/Machine/Arbiter.lean ====
section
/-! DEFINITION. Machine/Arbiter.lean: the arbiters of the memory channels: their inputs, the order of requests, grants, turn
hints, counters, starvation, masks, and the pacing of what reaches them (R14, R98, R165, R166, R190 to R195). -/

namespace Sys2Proof.Machine

/-! ## Inputs and the order among requesters that share one (R98, R190, R191) -/

/-- Input of a requester: R98 maps polders, R190 the others; a codec session takes input 2 or 3 by its number (assumption
log 72). -/
def inputOf (s : State) : Requester → Nat
  | .vote => 15
  | .polder p => match clsOf s p with
    | some .S => 14
    | some .Q => 12 + p % 2
    | _ => 4 + p % 8
  | .codec n => 2 + n % 2
  | .scrub _ => 1
  | .sweep _ => 1
  | .debug => 0

/-- Place among the requesters of one input, higher first: polder or session number; on input 1 the module's own scrub, then
the scrubs of polders before sweeps (R188, R191). -/
def rankOf : Requester → Nat
  | .polder p => p
  | .codec n => n
  | .scrub p => 128 + p
  | .sweep p => p
  | .vote => 0
  | .debug => 0

/-! ## Masks (R195, R392) -/

/-- A domain's monitor holds its outputs, its arbiter sideband among them, until its watchdog resets it (R392). -/
def sideband (s : State) (d : Nat) : Bool := (tget s.clocks.domains d).any fun x => x.flagged && !x.fallback

/-- Compute stack whose tiles ask at an arbiter instance; none at the spillway's. -/
def instStack (inst : Nat) : Option Nat :=
  if inst < 1024 then some (inst / 256) else if inst < 1040 then some ((inst - 1024) / 4)
  else if inst < 1042 then none else some ((inst - 1042) / 4)

/-- The requesters of an input are in reset or powered down: the tiles of a stack at its SRAM, HBM and die-to-die arbiters
(inputs 4 to 14), the codec (2 and 3), and the control cores of both dies (0 and 1) (R98, R190, R195). -/
def inputMasked (s : State) (inst input : Nat) : Bool :=
  if 4 ≤ input && input ≤ 14 then
    (instStack inst).any fun k => sideband s (9 * k) || sideband s (9 * k + 1) || sideband s (9 * k + 2) ||
      (s.tide.running && !s.work.stackOk.getD k false)
  else if 2 ≤ input && input ≤ 3 then sideband s 47 && sideband s 66
  else input ≤ 1 && sideband s 37 && sideband s 56

/-! ## Starvation (R193, R401) -/

/-- Hub and source of an arbiter's starvation interrupt. -/
def starveSource (inst : Nat) : Nat × Nat :=
  if inst < 1024 then (inst / 512, 1024 + inst % 512)
  else if inst < 1040 then ((inst - 1024) / 8, 1536 + (inst - 1024) % 8)
  else if inst < 1042 then (inst - 1040, 1544)
  else ((inst - 1042) / 8, 1545 + (inst - 1042) % 8)

/-- An input has waited longer than the threshold: its flag and interrupt; a breach where admitted traffic went unserved; the
next edge reduces the pacing of the Class B inputs above it. -/
def starve (inst input : Nat) (s : State) : State :=
  let x := getArbiter s inst
  let s := setArbiter s inst { x with flags := if input ∈ x.flags then x.flags else input :: x.flags }
  let s := raise (starveSource inst).1 (starveSource inst).2 s
  let s := if 12 ≤ input && input ≤ 14 then recordBreach 0x0D 0 255 255 255 input inst s else s
  { s with work.starving := if (inst, input) ∈ s.work.starving then s.work.starving else s.work.starving ++ [(inst, input)] }

/-- ARBITER_STARVATION: a masked input raises nothing (R195). -/
def execArbiterStarvation (inst input : Nat) (s : State) : Host.Outcome State Fault Refusal :=
  .next (if !mainUp s || 1057 < inst || 15 < input || inputMasked s inst input then s else starve inst input s)

/-- At an edge, the firmware reduces the pacing of the Class B inputs above each input found starving; Class Q and Class S are
not touched (R193). Each reduction halves an input's share, down to nothing after 16 (assumption log 72). -/
def repace (s : State) : State :=
  let cut (t : Table Nat) (x : Nat × Nat) : Table Nat := ((List.range 8).map (· + 4)).foldl (fun t b =>
    if x.2 < b then tset t (16 * x.1 + b) (min 16 ((tget t (16 * x.1 + b)).getD 0 + 1)) else t) t
  { s with work.paced := s.work.starving.foldl cut s.work.paced, work.starving := [] }

/-! ## Pacing (R89, R98, R101) -/

/-- Bytes per tide of a plan at an HBM half, a spillway half or a die-to-die link, check lines with the spillway's. -/
def planBytes (inst : Nat) (q : Plan) : Nat :=
  let at_ (k : Nat) (l : List (Nat × Nat)) : Nat := ((l.filter (·.1 = k)).map (·.2)).sum
  if inst < 1024 then 0
  else if inst < 1040 then at_ (inst - 1024) q.hbmBytes
  else if inst < 1042 then spillMoved (at_ (inst - 1040) q.spillBytes)
  else at_ (inst - 1042) q.d2dBytes

/-- Admitted bytes per tide of a polder at an instance. -/
def admittedBytes (s : State) (inst p : Nat) : Nat :=
  ((placedOf s).filter (·.polder = p)).flatMap (fun q => (graphPlans q.g).map (planBytes inst)) |>.sum

/-- Bytes that a channel moves in a tide. -/
def channelCapacity (s : State) (inst : Nat) : Nat :=
  (if inst < 1040 then Config.hbmBytesPerUs else if inst < 1042 then Config.spillBytesPerUs else Config.d2dBytesPerUs) *
    periodNs s / 1000

/-- Class B polders with an invocation in progress, with their weights. -/
def activeB (s : State) : List (Nat × Nat) :=
  (s.work.polders.filter fun q => q.2.cls = .B && q.2.runs.any fun r => r.2.invs ≠ []).map fun q => (q.1, q.2.bwWeight)

/-- A Class B polder's share of what admitted traffic leaves: in proportion to BW_WEIGHT, less the firmware's reductions. -/
def shareB (s : State) (inst p : Nat) : Nat :=
  let act := activeB s
  let all := (act.map (·.2)).sum
  let admitted := ((s.work.polders.filter fun q => q.2.cls ≠ .B).map fun q => admittedBytes s inst q.1).sum
  let w := ((act.find? (·.1 = p)).map (·.2)).getD 0
  (channelCapacity s inst - admitted) * w / max all 1 / 2 ^ ((tget s.work.paced (16 * inst + 4 + p % 8)).getD 0)

/-- Requests of 64 bytes that a requester may issue at an instance in a tide, none where nothing paces it: Class Q up to its
admitted bytes, Class B up to its share. -/
def issueLimit (s : State) (inst : Nat) : Requester → Option Nat
  | .polder p =>
    if inst < 1024 then none
    else match clsOf s p with
      | some .Q => some ((admittedBytes s inst p + 63) / 64)
      | some .B => some (shareB s inst p / 64)
      | _ => none
  | _ => none

/-- Key of a requester in the count of what it has issued. -/
def issueKey : Requester → Nat
  | .polder p => p
  | _ => 64

/-- The requests of one cycle that pacing lets through, and the arbiter with those that it holds back. -/
def paceRequests (limit : Requester → Option Nat) (x : Arbiter) : List Requester → Arbiter × List Requester
  | [] => (x, [])
  | r :: rest =>
    let n := (tget x.issued (issueKey r)).getD 0
    if (limit r).all (n < ·) then
      let (y, rs) := paceRequests limit { x with issued := tset x.issued (issueKey r) (n + 1) } rest
      (y, r :: rs)
    else paceRequests limit { x with paced := x.paced ++ [r] } rest

/-! ## One cycle of an arbiter (R14, R190 to R195) -/

/-- Whether a request goes before another: the higher input, then the higher place on it, then the older. -/
def arbBefore (a b : ArbReq) : Bool :=
  if a.input ≠ b.input then b.input < a.input else if a.rank ≠ b.rank then b.rank < a.rank else b.waited < a.waited

/-- The request that is granted. -/
def arbWinner : List ArbReq → Option ArbReq
  | [] => none
  | a :: r => match arbWinner r with
    | some b => if arbBefore b a then some b else some a
    | none => some a

/-- Inputs with a request in a list. -/
def arbInputs (q : List ArbReq) : List Nat := (List.range 16).filter fun i => q.any (·.input = i)

/-- Turn hint of an input that waits: the requests queued on higher inputs, and what the pacing calendar adds, at most 4,095
cycles (R192). -/
def turnHint (calendar : Nat) (q : List ArbReq) (i : Nat) : Nat := min 4095 ((q.filter fun r => i < r.input).length + calendar)

/-- A grant counts; the grant counter wraps at 48 bits (R194). -/
def countGrant (i : Nat) (x : Arbiter) : Arbiter :=
  let c := getCounters x i
  { x with counters := tset x.counters i { c with grants := (c.grants + 1) % 281474976710656 } }

/-- A cycle of waiting counts, and the longest wait of a request, which saturates at 32 bits (R194). -/
def countWait (i longest : Nat) (x : Arbiter) : Arbiter :=
  let c := getCounters x i
  { x with counters := tset x.counters i { c with wait := (c.wait + 1) % 281474976710656, maxWait := max c.maxWait (sat32 longest) } }

/-- Longest wait among the requests of an input. -/
def longestWait (q : List ArbReq) (i : Nat) : Nat := (q.filter (·.input = i)).foldl (fun m r => max m r.waited) 0

/-- One cycle: masked inputs lose their requests, the winner is granted, and every other input that asks waits and receives its
hint. -/
def arbCycle (masked : Nat → Bool) (calendar : Nat) (new : List ArbReq) (x : Arbiter) : Arbiter :=
  let q := (x.queue ++ new).filter fun r => !masked r.input
  match arbWinner q with
  | none => { x with queue := [], hints := [] }
  | some w =>
    let rest := (q.erase w).map fun r => { r with waited := r.waited + 1 }
    let waiting := (arbInputs rest).filter (· ≠ w.input)
    waiting.foldl (fun y i => countWait i (longestWait rest i) y)
      (countGrant w.input { x with queue := rest, hints := waiting.map fun i => (i, turnHint calendar q i) })

/-- Inputs whose request has waited longer than the threshold. -/
def starvedInputs (x : Arbiter) : List Nat := (arbInputs x.queue).filter fun i => x.threshold < longestWait x.queue i

/-! ## The traffic of a tide -/

/-- One cycle of an instance with its new requests, paced; inputs that it finds starving raise their flags. -/
def cycleAt (inst : Nat) (rs : List Requester) (s : State) : State :=
  let (x, rs) := paceRequests (issueLimit s inst) (getArbiter s inst) rs
  let x := arbCycle (inputMasked s inst) (Config.paceCalendar inst s.fresh) (rs.map fun r => ⟨inputOf s r, rankOf r, 0⟩) x
  (starvedInputs x).foldl (fun st i => if i ∈ (getArbiter st inst).flags then st else starve inst i st)
    (setArbiter { s with fresh := s.fresh + 1 } inst x)

/-- A new tide: what pacing held back may issue again. -/
def newShares (x : Arbiter) : Arbiter := { x with issued := [] }

/-- The requests of a closed tide at one instance: those that pacing held back first. -/
def trafficAt (inst : Nat) (cycles : List (List Requester)) (s : State) : State :=
  if 1057 < inst then s
  else
    let x := newShares (getArbiter s inst)
    (x.paced :: cycles).foldl (fun st rs => cycleAt inst rs st) (setArbiter s inst { x with paced := [] })

def runTraffic (ts : List (Nat × List (List Requester))) (s : State) : State :=
  ts.foldl (fun st t => trafficAt t.1 t.2 st) s

/-! ## Accesses to on-stack SRAM (R165, R166) -/

/-- Bank of an 8-byte word of a slice, and bank group of a line. -/
def bankOf (word : Nat) : Nat := word % 64
def bankGroup (line : Nat) : Nat := line % 8

/-- Arbiter instance of a line of a tile. -/
def lineArbiter (tile line : Nat) : Nat := 8 * tile + bankGroup line

/-- An access that stays within one line uses one grant of its bank group's arbiter, on the input of the work that makes it. -/
def grantLine (tile line : Nat) (r : Requester) (s : State) : State := cycleAt (lineArbiter tile line) [r] s

end Sys2Proof.Machine
end

