-- ==== Sys2Proof/Machine/Faults.lean ====
section
/-! DEFINITION. Machine/Faults.lean: arithmetic check failures, memory errors, the registry
scratchpads and the ends of scrubs (R157 to R159, R175 to R179, R187, R196 to R201, R342). -/

namespace Sys2Proof.Machine

def getTile (s : State) (stack tile : Nat) : TileTest := (tget s.safety.tiles (32 * stack + tile)).getD {}
def setTile (s : State) (stack tile : Nat) (t : TileTest) : State :=
  { s with safety.tiles := tset s.safety.tiles (32 * stack + tile) t }

/-- Count an event of a tile within 10,000 consecutive tides (R342). -/
def recentTides (s : State) (xs : List Nat) : List Nat := s.tide.ix :: xs.filter fun i => s.tide.ix < i + 10000

/-! ## ARITH_CHECK (R158, R342) -/

/-- Fail what the polder computed in this tide, in Class Q and Class B: its effects are withheld (R158). -/
def withholdTide (p : Nat) (s : State) : State :=
  modPolder s p fun x =>
    mapInvs (fun _ _ => true)
      (fun i => if i.finished.isNone || i.finished = some s.tide.ix then failInv .breach .none false i else i)
      { x with withheld := true }

/-- A fault of Class S data or arithmetic on a channel: markers in place of the results that a pick chooses, or, where the
faulty quantum belongs to no run, of the golden runs (R310, R352). -/
def faultS (p run : Nat) (pick : Nat → Nat → Bool) (c : Nat) (s : State) : State :=
  if (getRun s p run).isSome then markChannel pick c s else markGoldens p c s

/-- An arithmetic check failure: the breach, the outcome by class, the retest of the failing unit's items (unit 0 the array, 1
the vector unit: assumption log 74), and the removal of the stack at the third failure within 10,000 tides. -/
def arithFailure (polder run inv stack tile unit : Nat) (s : State) : State :=
  let s := recordBreach 0x01 0 polder stack tile unit inv s
  let s := match clsOf s polder with
    | some .S => match channelOf s stack with
      | some c => faultS polder run (fun p _ => p = polder) c s
      | none => s
    | _ => withholdTide polder s
  let t := getTile s stack tile
  let n := recentTides s t.arith
  let s := setTile s stack tile { t with arith := n, due := if unit = 0 then [1, 2, 5] else [3, 4, 6, 7] }
  if 3 ≤ n.length then removeStack stack 2 s else s

/-- ARITH_CHECK: a residue mismatch, or a mismatch of the duplicated copies (R157). -/
def execArithCheck (polder run inv stack tile unit : Nat) (s : State) : Host.Outcome State Fault Refusal :=
  .next (if mainUp s then arithFailure polder run inv stack tile unit s else s)

/-! ## Memory errors (R177 to R179) -/

def tierCode : Tier → Nat
  | .sram => 0
  | .hbm => 1
  | .spill => 2

/-- Fail the invocations of the chosen runs that run in this tide with ST_DATA_ERROR. -/
def dataError (p : Nat) (pick : Nat → Run → Bool) (s : State) : State :=
  modPolder s p (mapInvs pick fun i =>
    if i.finished.isNone || i.finished = some s.tide.ix then failInv .dataError .none false i else i)

/-- The request that a sluice and a SEQ name. -/
def namesRequest (sluice : Nat) (seq : Word) (r : Request) : Bool :=
  (hdrOf r.cmd).any fun h => h.sluice = sluice && h.seq = seq

/-- Mark the picture of a codec session that is being coded: its input slot, or a reference slot, is damaged. -/
def pictureError (ref : Bool) (session : Nat) (s : State) : State :=
  let hit (q : Picture) : Picture :=
    if q.session = session && q.started then (if ref then { q with refError := true } else { q with inputError := true }) else q
  { s with codec.queue := s.codec.queue.map hit }

/-- A DRAM row, or a row of a spillway device, as the flash records it: 2^32 x device + row (R179). -/
def rowKey (device row : Nat) : Nat := 4294967296 * device + row

/-- Record a row for repair at the next cold start. -/
def recordRow (key : Nat) (s : State) : State :=
  { s with flash.repairRows := if key ∈ s.flash.repairRows then s.flash.repairRows else key :: s.flash.repairRows }

/-- The warm-restart image or the page-tag table is read from its second copy, on another compute stack's DRAM, and the first
is rewritten from it (R177). -/
def rewriteCopy (s : State) : State :=
  match moduleKept with
  | [a, b] =>
    let kept := s.mem.cells.filter fun c => c.1 < frameAddr 1 a.1 || frameAddr 1 a.2 ≤ c.1
    let copy := s.mem.cells.filter fun c => frameAddr 1 b.1 ≤ c.1 && c.1 < frameAddr 1 b.2
    { s with mem.cells := copy.foldl (fun m c => writeByte m (c.1 - frameAddr 1 b.1 + frameAddr 1 a.1) c.2) kept }
  | _ => s

/-- The outcome of an uncorrectable error by the role of the data. -/
def errorOutcome (p : Nat) (role : ErrRole) (s : State) : State :=
  match role with
  | .invData run => dataError p (fun r _ => r = run) s
  | .weight h copyAlso =>
    let s := dataError p (fun _ y => y.handle = h) s
    match getGraph s p h with
    | some g => setGraph s p h (if copyAlso then { g with copyBad := true } else { g with reloadWeights := true })
    | none => s
  | .state run =>
    let s := dataError p (fun r _ => r = run) s
    match getRun s p run with
    | some y => setRun s p run { y with restartState := true }
    | none => s
  | .kv sluice seq =>
    let hit (r : Request) : Request := if namesRequest sluice seq r then { r with dataError := true } else r
    modPolder s p fun x => { x with requests := x.requests.map hit }
  | .classS run c => faultS p run (fun q r => q = p && r = run) c s
  | .warmImage => rewriteCopy s
  | .firmware => enterHold 3 s
  | .codecInput session => pictureError false session s
  | .codecRef session => pictureError true session s

/-- UNCORRECTABLE: the breach, the row for repair, the tile's count, and the outcome by role: in the tide of the quantum that
reads the data, or, for an error that a transfer finds, at the next edge. `stack` is the compute stack, for HBM the DRAM stack
and for the spillway the channel. -/
def execUncorrectable (polder : Nat) (tier : Tier) (tensor stack tile row : Nat) (error : HardError) (s : State) :
    Host.Outcome State Fault Refusal :=
  .next (
    if !mainUp s then s
    else
      let s := recordBreach 0x02 0 polder stack tile (tierCode tier) tensor s
      let s := match tier with
        | .sram =>
          let t := getTile s stack tile
          let n := recentTides s t.sramErrs
          let s := setTile s stack tile { t with sramErrs := n }
          if 2 ≤ n.length then removeStack stack 3 s else s
        | .hbm => recordRow (rowKey stack row) s
        | .spill => recordRow (rowKey (8 + stack) row) s
      if error.transfer then { s with work.transferErrors := s.work.transferErrors ++ [(polder, error.role)] }
      else errorOutcome polder error.role s)

/-- At an edge, the outcomes of the errors that transfers found in the tide (R177, R244). -/
def settleTransfers (s : State) : State :=
  s.work.transferErrors.foldl (fun st x => errorOutcome x.1 x.2 st) { s with work.transferErrors := [] }

/-- Bytes of one code word of a tier: 8 in SRAM and HBM, a line of 64 in the spillway (R176). -/
def codeBytes : Tier → Nat
  | .spill => 64
  | _ => 8

/-- First address of the location in the model's one address range; SRAM addresses name the tile as 2^26 x (32s+n). -/
def tierAddr (tier : Tier) (addr : Nat) : Nat :=
  match tier with
  | .sram => addr
  | .hbm => hbmBase + addr
  | .spill => spillBase + addr

/-- Device of an address: the DRAM stack, or 8 and the spillway channel. -/
def deviceOf (tier : Tier) (addr : Nat) : Nat :=
  match tier with
  | .spill => 8 + spillChannel (addr / 4096)
  | _ => dramOf (addr / 4096)

/-- The location of a corrected error: a read-modify-write has written it back; any other read leaves the error there until it
is next written (R176). -/
def noteFlaw (tier : Tier) (addr : Nat) (rmw : Bool) (s : State) : State :=
  let a := tierAddr tier addr / codeBytes tier * codeBytes tier
  { s with mem.flaws := if rmw then s.mem.flaws.filter (· ≠ a) else if a ∈ s.mem.flaws then s.mem.flaws else a :: s.mem.flaws }

/-- CORRECTABLE_ERROR: the polder's counter, the location, and the row's count since cold start (R176, R179, R470). -/
def execCorrectableError (polder : Nat) (tier : Tier) (error : SoftError) (s : State) : Host.Outcome State Fault Refusal :=
  .next (
    let s := modPolder s polder fun x => match tier with
      | .sram => { x with ceSram := sat32 (x.ceSram + 1) }
      | .hbm => { x with ceHbm := sat32 (x.ceHbm + 1) }
      | .spill => { x with ceSpill := sat32 (x.ceSpill + 1) }
    let s := noteFlaw tier error.addr error.rmw s
    if tier = .sram then s
    else
      let key := rowKey (deviceOf tier error.addr) error.row
      let n := (tget s.flash.rowErrors key).getD 0 + 1
      let s := { s with flash.rowErrors := tset s.flash.rowErrors key n }
      if 16 ≤ n then recordRow key s else s)

/-! ## Registry scratchpads (R196 to R200) -/

/-- The port and mode may reach the secure part (R196). -/
def secureAccess (a : ScrAccess) : Bool := a.port = 5 || (a.port = 4 && a.machineMode)

/-- First byte of the secure part within a scratchpad. -/
def secureOffset : Nat := 7864320

/-- The access touches the secure part, and it crosses its boundary or the end of the scratchpad. -/
def inSecure (a : ScrAccess) : Bool := secureOffset < a.addr + a.size
def crosses (a : ScrAccess) : Bool := (a.addr < secureOffset && inSecure a) || 8388608 < a.addr + a.size

/-- Words that an access touches: two where a rotating port crosses an 8-byte boundary. -/
def wordsOf (a : ScrAccess) : List Nat :=
  if a.addr % 8 + a.size ≤ 8 then [a.addr / 8] else [a.addr / 8, a.addr / 8 + 1]

/-- Without its ROTATE bit a port's access must not cross an 8-byte boundary (R200). -/
def shapeOk (x : Scratch) (a : ScrAccess) : Bool := x.rotate.getLsbD a.port || a.addr % 8 + a.size ≤ 8

/-- An access that ends with an error response: no secure access, or a boundary crossed. -/
def scrError (x : Scratch) (a : ScrAccess) : Bool :=
  !shapeOk x a || crosses a || (inSecure a && !secureAccess a)

/-- Two accesses collide: both write one word (R199). -/
def collides (a b : ScrAccess) : Bool := a.write && b.write && (wordsOf a).any (· ∈ wordsOf b)

/-- Two accesses conflict: they reach one bank, and are not two reads of the same word (R198). -/
def conflicts (a b : ScrAccess) : Bool :=
  (wordsOf a).any fun w => (wordsOf b).any fun v => w % 32 = v % 32 && !(w = v && !a.write && !b.write)

/-- How an access ends in its cycle. -/
inductive ScrOutcome where
  | error
  | collision
  | wait
  | served
deriving DecidableEq, Repr

/-- The outcome of an access, given the accesses of higher ports that are served: a write of a word that a higher port writes
collides, and an access waits for a bank that a served one has. -/
def outcomeAfter (x : Scratch) (all served : List ScrAccess) (a : ScrAccess) : ScrOutcome :=
  if scrError x a then .error
  else if all.any fun b => decide (a.port < b.port) && !scrError x b && collides a b then .collision
  else if served.any (conflicts a) then .wait
  else .served

/-- The accesses of the ports from the highest on that are served in the cycle. -/
def servedFrom (x : Scratch) (all : List ScrAccess) : List ScrAccess :=
  ([5, 4, 3, 2, 1, 0].flatMap fun p => all.filter (·.port = p)).foldl
    (fun served a => if outcomeAfter x all served a = .served then served ++ [a] else served) []

/-- The outcome of an access in its cycle (R197 to R200). -/
def scrOutcome (x : Scratch) (all : List ScrAccess) (a : ScrAccess) : ScrOutcome :=
  outcomeAfter x all ((servedFrom x all).filter fun b => a.port < b.port) a

/-- During a wipe the secure part reads zero and ignores writes (R201). -/
def wiped (x : Scratch) (a : ScrAccess) : Bool := x.wiping && inSecure a

/-- Serve one access: a response of kind 0 done, 1 error, 2 collision. -/
def serveAccess (io : Nat) (all : List ScrAccess) (s : State) (a : ScrAccess) : State :=
  let x := getScr s io
  match scrOutcome x all a with
  | .error =>
    setScr s io { x with deny := if inSecure a && !secureAccess a then sat32 (x.deny + 1) else x.deny,
                         responses := x.responses ++ [(a.port, 1, List.replicate (if a.write then 0 else a.size) 0)] }
  | .collision =>
    setScr s io { x with collisions := tset x.collisions a.port (sat32 ((tget x.collisions a.port).getD 0 + 1)),
                         responses := x.responses ++ [(a.port, 2, [])] }
  | .wait =>
    setScr s io { x with conflicts := tset x.conflicts a.port (sat32 ((tget x.conflicts a.port).getD 0 + 1)),
                         retry := x.retry ++ [a] }
  | .served =>
    if a.write then
      let s := if wiped x a then s
        else { s with mem.cells := writeBytes s.mem.cells (scrBase io + a.addr) (padTo a.size a.data) }
      setScr s io { x with responses := x.responses ++ [(a.port, 0, [])] }
    else
      let bs := if wiped x a then List.replicate a.size 0 else readBytes s.mem.cells (scrBase io + a.addr) a.size
      setScr s io { x with responses := x.responses ++ [(a.port, 0, bs)] }

/-- Insert an access in the order in which a cycle's accesses act: writes of higher ports after reads, so that every read
returns the value from before the cycle's writes. -/
def readsFirst (as : List ScrAccess) : List ScrAccess := as.filter (fun a => !a.write) ++ as.filter (·.write)

/-- SCRATCHPAD_ACCESS: one REG cycle, the accesses that waited with the new ones; a port with one that waited brings no
other. -/
def execScratchpadAccess (io : Nat) (accesses : List ScrAccess) (s : State) : Host.Outcome State Fault Refusal :=
  .next (
    if !mainUp s || 2 ≤ io then s
    else
      let x := getScr s io
      let new := accesses.filter fun a => !x.retry.any (·.port = a.port)
      let all := x.retry ++ new
      (readsFirst all).foldl (serveAccess io all) (setScr s io { x with retry := [], responses := [] }))

/-! ## SCRUB_DONE (R99, R100, R187, R427, R435, R437) -/

/-- The end of one scrub job: what waited for it. -/
def endScrub (j : ScrubJob) (s : State) : State :=
  let s := scrubbed j s
  let answered (s : State) : State := match j.cmd with
    | some c => finishCmd c .ok .none [] s
    | none => s
  match j.kind with
  | .frames => answered s
  | .reset =>
    let s := answered (endReset j.polder s)
    if j.tdisp then emit (.tdisp j.polder true []) (setTdi s j.polder 0) else s
  | .destroy => answered (removePolder j.polder s)
  | .debug => unlocked s
  | .decommission => decommissioned s

/-- A job ends once its frames can have been written; one over every holder only after the polders' own. -/
def scrubReady (s : State) (j : ScrubJob) : Bool :=
  scrubWritten s j && match j.kind with
  | .debug | .decommission => !s.work.scrubs.any fun k => k.kind = .reset || k.kind = .destroy || k.kind = .frames
  | _ => true

def execScrubDone (job : Nat) (s : State) : Host.Outcome State Fault Refusal :=
  .next (match s.work.scrubs.find? (·.id = job) with
    | some j =>
      if scrubReady s j then endScrub j { s with work.scrubs := s.work.scrubs.filter (·.id ≠ job) } else s
    | none => s)

end Sys2Proof.Machine
end

