-- ==== Sys2Proof/Machine/Wardens.lean ====
section
/-! DEFINITION. Machine/Wardens.lean: the vote, the verdicts, the wardens' states, emission and the fallback trajectory,
the deadlines of Class S results, and the commit of Class S runs (R40, R49, R307 to R321, R325 to R329, R345, R346). -/

namespace Sys2Proof.Machine

/-! ## States (R320) -/

/-- The warden receives frames and votes: in VOTING, in MUTED, or in HOLD entered from one of them. -/
def canVote (s : State) (w : Warden) : Bool := wardenVotes (getWarden s w)

/-- The warden may emit: it votes and is not muted. -/
def canEmit (s : State) (w : Warden) : Bool := canVote s w && !(getWarden s w).muted

/-- The warden leaves for BOOT (R321); a second reboot during an activation returns it to its old bank (R457). -/
def toBoot (w : Warden) (s : State) : State :=
  let x := getWarden s w
  if x.state = .off then s
  else setWarden s w { x with state := .boot, injectionOk := false, goodMarks := 0, votes := [], peer := none, queue := [],
                              switched := x.switched && x.trial, trial := false }

/-- State of a voting warden by its mute flag. -/
def votingState (x : WardenSt) : WState := if x.muted then .muted else .voting

/-- A warden leaves HOLD (R320). -/
def leaveHold (x : WardenSt) : WardenSt :=
  if x.state = .hold then { x with state := if x.before = .armed then .armed else votingState x } else x

/-- SAFE_HOLD ends: both wardens leave HOLD, and the replay stops (R329). -/
def endHold (s : State) : State :=
  { s with safety.hold := none, wardens.a := leaveHold s.wardens.a, wardens.b := leaveHold s.wardens.b }

/-- A trajectory is kept. -/
def keptTrajectory (s : State) : Option Trajectory :=
  match s.wardens.a.trajectory with
  | some t => some t
  | none => s.wardens.b.trajectory

/-! ## RESULT_READY (R308, R310) -/

/-- Digest of a result: over its tag and payload (R310). -/
def resultDigest (t : Tag) (payload : List Byte) : BitVec 128 := Config.sha256Head (tagBytes t ++ payload)

/-- The invocation of a run that yields the result of this tide: the oldest in progress. -/
def resultInv (y : Run) : Option Invocation := y.invs.find? (·.fail.isNone)

/-- The result that a channel sends: what its quanta wrote to the output tensors; where none of them is modelled, the payload of
the event (assumption log 74). -/
def channelResult (s : State) (p : Nat) (y : Run) (i : Invocation) (channel : Nat) (payload : List Byte) : List Byte :=
  match runImage s p y with
  | some img =>
    if img.outPorts.any fun o => (tget i.tensors (partKey o.tensor channel)).isSome then resultOf img i.tensors channel else payload
  | none => payload

/-- RESULT_READY: the channel's result is complete, and it sends one frame to each warden; a polder under an arithmetic
check failure has sent a fault marker already. -/
def execResultReady (polder run channel : Nat) (payload : List Byte) (s : State) : Host.Outcome State Fault Refusal :=
  .next (match getRun s polder run with
    | some y =>
      if !isClassS s polder || channel ∉ liveChannels s || sentResult s polder run channel || 4096 < payload.length ||
          payload = [] || s.tide.discard then s
      else
        match resultInv y with
        | none => s
        | some i =>
          let t := resultTag s polder run
          let payload := channelResult s polder y i channel payload
          let d := resultDigest t payload
          let carries := (getGraph s polder y.handle).any fun g => g.img.safety.any (·.carriesTrajectory)
          let s := sendVote polder run channel
            { tag := t, channel := channel, stack := stackOfChannel s channel, marker := false, trajectory := carries,
              payload := payload, digest := d, crcOk := true, testFrame := false } (some d) s
          setRun s polder run { y with invs := y.invs.map fun j =>
            if j.no = i.no && j.finished.isNone then { j with finished := some s.tide.ix, running := false, result := some payload }
            else j }
    | none => s)

/-! ## Segments and trajectories (R316, R317, R327, R328) -/

/-- Ports of a run's results, or of the fallback points of its trajectory (R316, R327). -/
def portsFor (s : State) (fallback : Bool) (p r : Nat) : List Nat :=
  ((s.wardens.portMap.find? fun m => m.polder = p && m.run = r).map fun m => if fallback then m.points else m.results).getD [0]

/-- Pieces of at most `n` bytes. -/
def pieces (n : Nat) : Nat → List Byte → List (List Byte)
  | 0, _ => []
  | f + 1, bs => if bs.length ≤ n then [bs] else bs.take n :: pieces n f (bs.drop n)

/-- The bytes of a segment: its 48-byte header, and its piece of the payload (R316). -/
def segmentBytes (g : Segment) : List Byte :=
  tagBytes g.tag ++ le 2 g.bootEpoch ++ le 1 (wardenNo g.warden) ++ le 1 (bit g.fallback) ++ le 2 g.seg ++ le 2 g.segs ++
    le 4 g.len ++ le 2 g.point ++ le 1 (bit g.dual + 2 * bit g.carries + 4 * bit g.repeat_) ++ le 1 0 ++
    le 16 g.digest.toNat ++ g.bytes

/-- Segments of a voted result on one port. -/
def resultSegments (s : State) (w : Warden) (v : Vote) (d : BitVec 128) (port : Nat) : List Segment :=
  let ps := pieces 1024 8 v.payload
  ps.mapIdx fun k bs =>
    { port := port, tag := v.tag, bootEpoch := s.tide.bootEpoch, warden := w, fallback := false, seg := k, segs := ps.length,
      len := v.payload.length, point := 0, dual := s.work.dual, carries := v.trajectory, repeat_ := false, digest := d,
      bytes := bs }

/-- The trajectory block at the start of a payload; none where it breaks a condition of R328. -/
def parseTrajectory (v : Vote) (d : BitVec 128) (closeQ : Nat) : Option Trajectory :=
  let n := unle (v.payload.take 2)
  let stepMs := unle ((v.payload.drop 2).take 2)
  let len := unle ((v.payload.drop 4).take 2)
  if 2 ≤ n && n ≤ 255 && 1 ≤ stepMs && stepMs ≤ 100 && 8 ≤ len && len ≤ 64 && len % 8 = 0 && 1000 ≤ (n - 1) * stepMs &&
      8 + n * len ≤ v.payload.length then
    some { tag := v.tag, digest := d, polder := v.polder, run := v.run, closeQ := closeQ, stepMs := stepMs,
           points := (List.range n).map fun k => (v.payload.drop (8 + k * len)).take len }
  else none

/-- A warden keeps the trajectory of a result that it emits; its peer keeps it too. -/
def keepTrajectory (w : Warden) (v : Vote) (d : BitVec 128) (s : State) : State :=
  if !v.trajectory then s
  else
    match parseTrajectory v d (s.tide.nowQ + s.tide.periodQ) with
    | some t => { s with wardens.a.trajectory := some t, wardens.b.trajectory := some t }
    | none => wardenBreach w 0x10 0 v.polder 255 v.run 0 s

/-- The first voted result after the relaunch edge of the run whose trajectory is replayed ends SAFE_HOLD (R329). -/
def releaseHold (kept : Option Trajectory) (v : Vote) (s : State) : State :=
  match s.safety.hold, kept with
  | some h, some t => if h.relaunched && t.polder = v.polder && t.run = v.run then endHold s else s
  | _, _ => s

/-! ## The vote (R311, R312, R345) -/

/-- The digest on which a vote's frames agree: two in TRIPLE mode, both in DUAL mode. -/
def agreed (s : State) (frames : List (Nat × Option (BitVec 128))) : Option (BitVec 128) :=
  let live := frames.filter fun f => f.1 ∈ liveChannels s
  majority (live.map (·.2))

def setVote (w : Warden) (v : Vote) (s : State) : State :=
  let x := getWarden s w
  setWarden s w { x with votes := x.votes.map fun u => if u.polder = v.polder && u.run = v.run then v else u }

/-- Queue a voted payload for emission: the digest is computed again first (R345). -/
def emitVoted (w : Warden) (v : Vote) (d : BitVec 128) (s : State) : State :=
  if !canEmit s w then s
  else if resultDigest v.tag v.payload ≠ d then wardenBreach w 0x16 0 v.polder 255 v.run v.tag.seq.toNat s
  else
    let kept := keptTrajectory s
    let segs := (portsFor s false v.polder v.run).flatMap (resultSegments s w v d)
    let x := getWarden s w
    let s := setWarden s w { x with queue := x.queue ++ segs }
    releaseHold kept v (keepTrajectory w v d (setVote w { v with emitted := some d } s))

/-- Lane number of a warden and a stack. -/
def laneOf (w : Warden) (stack : Nat) : Nat := 4 * wardenNo w + stack

/-- Note a lane's discard or fault (R311, R319). -/
def badLane (w : Warden) (lane : Nat) (s : State) : State :=
  let x := getWarden s w
  setWarden s w { x with badLanes := (lane, s.tide.ix) :: x.badLanes.filter fun b => s.tide.ix < b.2 + 1000 && b.1 ≠ lane }

/-- Count a discarded frame against its lane; one whose CRC fails counts in the health score too (R311, R319). -/
def discardFrame (crc : Bool) (w : Warden) (stack : Nat) (s : State) : State :=
  let k := laneOf w stack
  let x := getWarden s w
  let s := setWarden s w { x with discards := tset x.discards k ((tget x.discards k).getD 0 + 1) }
  if crc then badLane w k s else s

/-- The frame's tag names an expected result: a run in progress of a Class S polder, with this tide's tag. -/
def expectedTag (s : State) (t : Tag) : Bool :=
  let p := t.srcLocal / 64
  let r := t.srcLocal % 64
  isClassS s p && (getRun s p r).any (fun y => y.invs ≠ []) && t = resultTag s p r

/-- VOTE_FRAME at a warden: it listens to the lanes of the live stacks only, and a frame after the cut-off does not count
(R311, R312, R315). -/
def execVoteFrame (w : Warden) (f : VoteFrame) (s : State) : Host.Outcome State Fault Refusal :=
  .next (
    if f.testFrame || !canVote s w || f.stack ∉ channelStacks s then s
    else if !f.crcOk || !expectedTag s f.tag then discardFrame (!f.crcOk) w f.stack s
    else
      let p := f.tag.srcLocal / 64
      let r := f.tag.srcLocal % 64
      let x := getWarden s w
      let v := (x.votes.find? fun u => u.polder = p && u.run = r).getD { polder := p, run := r, tag := f.tag, frames := [] }
      if x.cut || v.frames.any (·.1 = f.channel) then s
      else
        let v := { v with frames := v.frames ++ [(f.channel, if f.marker then none else some f.digest)] }
        let others := x.votes.filter fun u => !(u.polder = p && u.run = r)
        let d := agreed s v.frames
        let v := if d = some f.digest && !f.marker && v.payload = [] then
            { v with payload := f.payload, trajectory := f.trajectory } else v
        let s := setWarden s w { x with votes := others ++ [v] }
        match d with
        | some d => if v.emitted.isSome || f.marker || d ≠ f.digest then s else emitVoted w v d s
        | none => s)

/-! ## Verdicts (R313, R315) -/

/-- A verdict line of a vote. -/
def lineOf (s : State) (v : Vote) : VerdictLine :=
  { polder := v.polder, run := v.run, emitted := v.emitted,
    seen := (liveChannels s).map fun c => (c, (v.frames.find? (·.1 = c)).map (·.2)) }

/-- VOTE_CUTOFF: nothing is voted after it, and the verdicts go over the cross-link. -/
def execVoteCutoff (w : Warden) (s : State) : Host.Outcome State Fault Refusal :=
  .next (
    if !canVote s w then s
    else
      let x := getWarden s w
      let s' := setWarden s w { x with cut := true }
      if s.wardens.crossLink then emit (.verdict w (x.votes.map (lineOf s))) s' else s')

/-- VERDICT: the peer's verdict arrives at a warden. -/
def execVerdict (w : Warden) (lines : List VerdictLine) (s : State) : Host.Outcome State Fault Refusal :=
  .next (
    let x := getWarden s w
    if s.wardens.crossLink && canVote s w then setWarden s w { x with peer := some lines, peerSilent := 0 } else s)

/-- What a channel's frame was at a warden: none missing, some none a fault marker. -/
def seenAt (l : VerdictLine) (c : Nat) : Option (Option (BitVec 128)) := ((l.seen.find? (·.1 = c)).map (·.2)).join

def lineDigest (l : VerdictLine) : Option (BitVec 128) := majority (l.seen.map fun x => x.2.join)

/-- The decision on one result: the channels breached with the digest seen, the lanes faulted, and whether SAFE_HOLD begins. -/
structure Decided where
  breach : List (Nat × Nat) := []
  lanes : List (Warden × Nat) := []
  hold : Bool := false
deriving DecidableEq, Repr

/-- A channel's frame is a fault marker, or does not carry the digest. -/
def markerAt (l : VerdictLine) (c : Nat) : Bool := seenAt l c = some none
def badAt (l : VerdictLine) (d : BitVec 128) (c : Nat) : Bool := seenAt l c ≠ some (some d)

/-- The digest of a breached channel that the wardens saw beside the agreed one, 0 where none was seen (R354). -/
def seenBad (ls : List VerdictLine) (d : BitVec 128) (c : Nat) : Nat :=
  ((ls.filterMap fun l => (seenAt l c).join).find? (· ≠ d)).elim 0 (·.toNat)

/-- R313 from the two verdicts together. -/
def decideBoth (dual : Bool) (live : List Nat) (a b : VerdictLine) : Decided :=
  match lineDigest a, lineDigest b with
  | none, none => { hold := true }
  | x, y =>
    let d := (x.or y).getD 0
    if dual then { hold := live.any fun c => markerAt a c || markerAt b c }
    else
      { breach := (live.filter fun c => markerAt a c || markerAt b c || (badAt a d c && badAt b d c)).map fun c =>
          (c, seenBad [a, b] d c)
        lanes := live.flatMap fun c =>
          if markerAt a c || markerAt b c || badAt a d c == badAt b d c then []
          else [(if badAt a d c then Warden.A else Warden.B, c)] }

/-- R315: a warden decides from its own frames alone. -/
def decideAlone (dual : Bool) (live : List Nat) (a : VerdictLine) : Decided :=
  match lineDigest a with
  | none => { hold := true }
  | some d => if dual then {} else { breach := (live.filter fun c => badAt a d c).map fun c => (c, seenBad [a] d c) }

/-- Results for which some frame arrived at a warden that votes. -/
def decidedKeys (s : State) : List (Nat × Nat) :=
  let of (w : Warden) : List (Nat × Nat) := if canVote s w then (getWarden s w).votes.map fun v => (v.polder, v.run) else []
  of .A ++ (of .B).filter (· ∉ of .A)

/-- A warden's line for a result, with no frame where it has none. -/
def ownLine (s : State) (w : Warden) (p r : Nat) : VerdictLine :=
  match (getWarden s w).votes.find? fun v => v.polder = p && v.run = r with
  | some v => lineOf s v
  | none => { polder := p, run := r, emitted := none, seen := (liveChannels s).map fun c => (c, none) }

/-- Both wardens hold both verdicts of the tide. -/
def verdictsExchanged (s : State) : Bool :=
  s.wardens.crossLink && canVote s .A && canVote s .B && s.wardens.a.peer.isSome && s.wardens.b.peer.isSome

/-- The decision on one result, with or without the exchange. -/
def decideResult (s : State) (k : Nat × Nat) : Decided :=
  let live := liveChannels s
  if verdictsExchanged s then decideBoth s.work.dual live (ownLine s .A k.1 k.2) (ownLine s .B k.1 k.2)
  else
    let of (w : Warden) : Decided := if canVote s w then decideAlone s.work.dual live (ownLine s w k.1 k.2) else {}
    { breach := (of .A).breach ++ (of .B).breach, hold := (of .A).hold || (of .B).hold }

/-- Apply a decision at the closing edge. -/
def applyDecided (d : Decided) (s : State) : State :=
  let s := d.lanes.foldl (fun st l =>
    let k := laneOf l.1 (stackOfChannel st l.2)
    badLane l.1 k (recordBreach 0x04 0 255 (stackOfChannel st l.2) 255 k 0 st)) s
  d.breach.foldl (fun st c => markBreached c.1 c.2 st) s

/-- The tide is a conflict tide: both emitted different digests for one result (R319). -/
def conflictTide (s : State) : Bool :=
  verdictsExchanged s && (decidedKeys s).any fun k =>
    match (ownLine s .A k.1 k.2).emitted, (ownLine s .B k.1 k.2).emitted with
    | some a, some b => a ≠ b
    | _, _ => false

/-- Health score (R319). -/
def healthScore (s : State) (w : Warden) : Nat :=
  let x := getWarden s w
  let lanes := (x.badLanes.filter fun b => s.tide.ix < b.2 + 1000).length
  let marks := (x.badMarks.filter fun b => s.tide.ix < b + 1000).length
  let aux := match w with
    | .A => s.aon.auxA
    | .B => s.aon.auxB
  1000 - (100 * lanes + min 200 (50 * marks) + (if x.oscBad && !x.stopped then 200 else 0) + 100 * x.portsDown +
    (if aux < 950 then 300 else 0) + (if x.hot then 150 else 0))

/-- A warden mutes itself (R319). -/
def mute (w : Warden) (s : State) : State :=
  let x := getWarden s w
  let s := wardenBreach w 0x11 0 255 255 (healthScore s w / 4) 0 s
  setWarden s w { getWarden s w with muted := true, state := if x.state = .voting then .muted else x.state }

/-- Count conflict tides, and mute at the second in a row: the lower score, Warden A when equal. -/
def judgeConflict (s : State) : State :=
  if conflictTide s then
    let n := s.wardens.a.conflicts + 1
    let s := { s with wardens.a.conflicts := n, wardens.b.conflicts := n }
    if 2 ≤ n && !s.wardens.a.muted && !s.wardens.b.muted then
      mute (if healthScore s .A ≤ healthScore s .B then .A else .B) s
    else s
  else { s with wardens.a.conflicts := 0, wardens.b.conflicts := 0 }

/-- At the edge that closes a tide, the decisions on its results (R313, R314, R319). -/
def decideVotes (s : State) : State :=
  let ds := (decidedKeys s).map (decideResult s)
  let s := judgeConflict (ds.foldl (fun st d => applyDecided d st) s)
  if ds.any (·.hold) then enterHold 1 s else s

/-- A new tide at both wardens: its votes begin. -/
def newVotes (s : State) : State :=
  { s with
    work.results := []
    wardens.a := { s.wardens.a with votes := [], peer := none, cut := false }
    wardens.b := { s.wardens.b with votes := [], peer := none, cut := false } }

/-! ## Commit of Class S results (R308, R325) -/

/-- The payload of a result of the tide that either warden emitted. -/
def emittedPayload (s : State) (p r : Nat) : Option (List Byte) :=
  ((s.wardens.a.votes ++ s.wardens.b.votes).find? fun v => v.polder = p && v.run = r && v.emitted.isSome).map (·.payload)

/-- Either warden emitted a result of the tide. -/
def emittedResult (s : State) (p r : Nat) : Bool := (emittedPayload s p r).isSome

/-- A missed result: the breach and ST_DEADLINE_MISSED; two in a row of one run begin SAFE_HOLD. -/
def missResult (p r : Nat) (y : Run) (i : Invocation) (s : State) : State :=
  let s := bumpSeq (resultKey s p r)
    (recordBreach 0x05 0 p 255 255 r (nextSeq s (resultKey s p r)).toNat s)
  let n := y.missStreak + 1
  let s := completeInv p r i .deadlineMissed .none 0 (setRun s p r { y with missStreak := n })
  if 2 ≤ n then enterHold 2 s else s

/-- Settle one Class S invocation at the edge that closes the tide with index `ix`. -/
def commitS (ix p r : Nat) (i : Invocation) (s : State) : State :=
  match getRun s p r with
  | none => s
  | some y =>
    match i.fail with
    | some (st, reason) => completeInv p r i st reason 0 s
    | none =>
      if i.finished = some ix && emittedResult s p r then
        commitResult p r { i with result := emittedPayload s p r } (setRun s p r { y with missStreak := 0 })
      else if i.commitIx ≤ ix + 1 then missResult p r y i s
      else s

/-- Commit every Class S run at the closing edge of the tide with index `ix`. -/
def commitClassS (ix : Nat) (s : State) : State :=
  forRuns (fun p r st =>
    if !isClassS st p then st
    else
      match getRun st p r with
      | some y => y.invs.foldl (fun u i => commitS ix p r i u) st
      | none => st) s

/-! ## SEGMENT_SENT and the fallback points -/

/-- SEGMENT_SENT: the segment that a port holds has left, and the next is offered (R317). -/
def execSegmentSent (w : Warden) (port : Nat) (s : State) : Host.Outcome State Fault Refusal :=
  .next (
    let x := getWarden s w
    match x.queue.find? (·.port = port) with
    | some g => emit (.segment g (segmentBytes g)) (setWarden s w { x with queue := x.queue.erase g })
    | none => s)

/-- Segments of one fallback point. -/
def pointSegments (s : State) (w : Warden) (t : Trajectory) (k : Nat) (again : Bool) : List Segment :=
  let bs := t.points.getD k []
  (portsFor s true t.polder t.run).map fun port =>
    { port := port, tag := t.tag, bootEpoch := s.tide.bootEpoch, warden := w, fallback := true, seg := 0, segs := 1,
      len := bs.length, point := k, dual := false, carries := true, repeat_ := again, digest := t.digest, bytes := bs }

/-- FALLBACK_POINT_RELEASE: in HOLD a warden that is not muted releases the next point; after the last it repeats it. -/
def execFallbackPointRelease (w : Warden) (s : State) : Host.Outcome State Fault Refusal :=
  .next (
    let x := getWarden s w
    match x.trajectory with
    | some t =>
      if x.state ≠ .hold || x.muted then s
      else
        let last := t.points.length - 1
        let k := min x.nextPoint last
        setWarden s w { x with nextPoint := x.nextPoint + 1, queue := x.queue ++ pointSegments s w t k (last < x.nextPoint) }
    | none => s)

/-! ## Tide marks (R40, R49, R319, R320) -/

/-- A warden in ARMED begins to vote after three consecutive good marks and a passed injection, unless warden debug is
open (R437); in SAFE_HOLD it goes to HOLD. -/
def armedNext (s : State) (x : WardenSt) : WardenSt :=
  if x.state ≠ .armed then x
  else if s.safety.hold.isSome then toHold s.tide.nowQ x
  else if 3 ≤ x.goodMarks && x.injectionOk && !s.ident.wardenDebug then { x with state := votingState x }
  else x

/-- The peer has been silent for two tides, which three marks without a verdict span, and the AON logic reports it in OFF or BOOT: unmute (R320). -/
def unmute (s : State) (w : Warden) (x : WardenSt) : WardenSt :=
  let peer := getWarden s (otherWarden w)
  if x.muted && 3 ≤ x.peerSilent && (peer.state = .off || peer.state = .boot) then
    { x with muted := false, state := if x.state = .muted then .voting else x.state }
  else x

/-- The marks, received or missing, since the peer's last verdict. -/
def countSilence (x : WardenSt) : WardenSt := { x with peerSilent := x.peerSilent + 1 }

/-- The end of a span without marks: one entry with the number of tides (R49). -/
def marksResumed (w : Warden) (s : State) : State :=
  let x := getWarden s w
  let s := if x.stopped then wardenBreach w 0x0E 0 255 255 3 x.missing s else s
  setWarden s w { getWarden s w with stopped := false, missing := 0 }

/-- SAFE_HOLD by row 4 ends its wait: the marks return, and the main package restarts (R326). -/
def marksReturn (s : State) : State :=
  match s.safety.hold with
  | some h => if h.waitMarks then startRestart { s with safety.hold := some { h with waitMarks := false } } else s
  | none => s

/-- WARDEN_TIDE_MARK. The first mark after its boot, or after a span without marks, gives the warden its count; a later one
that is late or wrong is a breach, and the warden keeps its own count. -/
def execWardenTideMark (w : Warden) (count : Nat) (relabel late : Bool) (s : State) : Host.Outcome State Fault Refusal :=
  .next (
    let x := getWarden s w
    if x.state = .off || x.state = .boot then s
    else
      let first := x.stopped || (x.goodMarks = 0 && x.state = .armed)
      let s := marksReturn (marksResumed w s)
      let x := getWarden s w
      let wrong := count ≠ x.count + 1 && !relabel
      if (late || wrong) && !first then
        let s := wardenBreach w 0x0E 0 255 255 (if late then 0 else 1) 0 s
        let x := getWarden s w
        setWarden s w (unmute s w (countSilence
          { x with count := x.count + 1, goodMarks := 0,
                   badMarks := s.tide.ix :: x.badMarks.filter fun i => s.tide.ix < i + 1000 }))
      else
        let x := countSilence { x with count := count, goodMarks := x.goodMarks + 1 }
        setWarden s w (unmute s w (armedNext s x)))

/-- A warden declares SAFE_HOLD by row 4 while the main package is down. -/
def wardenHold (w : Warden) (s : State) : State :=
  let s := wardenBreach w 6 0 255 255 4 0 s
  { s with
    safety.hold := some ⟨4, false, false⟩
    wardens.a := toHold s.tide.nowQ s.wardens.a
    wardens.b := toHold s.tide.nowQ s.wardens.b }

/-- The warden awaits marks: it is out of BOOT, and in ARMED it has had one since it booted. -/
def awaitsMarks (x : WardenSt) : Bool :=
  !(x.state = .off || x.state = .boot || (x.state = .armed && x.goodMarks = 0 && !x.stopped))

/-- TIDE_MARK_MISSING: a tide of the warden's own count without a mark; at the third in a row SAFE_HOLD begins, unless the
warden is still in ARMED. -/
def execTideMarkMissing (w : Warden) (s : State) : Host.Outcome State Fault Refusal :=
  .next (
    let x := getWarden s w
    if !awaitsMarks x then s
    else
      let n := x.missing + 1
      let s := if x.stopped then s else wardenBreach w 0x0E 0 255 255 2 0 s
      let x := getWarden s w
      let s := setWarden s w (unmute s w (countSilence { x with missing := n, stopped := true, goodMarks := 0, count := x.count + 1 }))
      if n = 3 && x.state ≠ .armed && s.safety.hold.isNone then (if mainUp s then enterHold 4 s else wardenHold w s) else s)

/-! ## Boots (R320, R321, R344, R346, R457) -/

/-- WARDEN_BOOT_DONE: the warden reaches ARMED, and goes on to HOLD while SAFE_HOLD lasts; a passed injection after its own
reboot unmutes it. -/
def execWardenBootDone (w : Warden) (injectionOk : Bool) (s : State) : Host.Outcome State Fault Refusal :=
  .next (
    let x := getWarden s w
    if x.state ≠ .boot then s
    else
      let s := if injectionOk then s else wardenBreach w 0x08 2 255 255 0x61 0 s
      let x := getWarden s w
      setWarden s w (armedNext s
        { x with state := .armed, injectionOk := injectionOk, goodMarks := 0, muted := x.muted && !injectionOk,
                 conflicts := 0, votes := [], peer := none }))

/-- WARDEN_LOCKSTEP_MISMATCH: the warden leaves for BOOT. -/
def execWardenLockstepMismatch (w : Warden) (s : State) : Host.Outcome State Fault Refusal := .next (toBoot w s)

end Sys2Proof.Machine
end

