-- ==== Sys2Proof/Machine/SelfTest.lean ====
section
/-! DEFINITION. Machine/SelfTest.lean: self-test slices of the tiles and of the units outside them (R94, R335 to R343). -/

namespace Sys2Proof.Machine

/-- The slices of a tile in the order of its rotation: 16 x item + number (R335). -/
def sliceKeys : List Nat := tileItems.flatMap fun i => (List.range i.2).map fun k => 16 * i.1 + k

/-- Ages in quarter-ms: due after 80 ms, starved after 100 ms (R338). -/
def dueAge : Nat := 320
def starvedAge : Nat := 400

/-- The slice is due: repeated after a failure, called for by an arithmetic check failure, or 80 ms after its last pass
began. -/
def sliceDue (nowQ : Nat) (t : TileTest) (key : Nat) : Bool :=
  key ∈ t.repeating || key / 16 ∈ t.due || match (tget t.results key).bind (·.passQ) with
    | some q => q + dueAge ≤ nowQ
    | none => true

/-- The debug transport has halted the tile's sequencer: it launches nothing (R466). -/
def tileHalted (s : State) (stack tile : Nat) : Bool := (tget s.startup.units (32 * stack + tile)).any (·.halted)

/-- A tile that no quantum holds starts its next due slice in the gap; one that failed goes first (R336, R338, R341). -/
def startSlice (stack tile : Nat) (s : State) : State :=
  let t := getTile s stack tile
  if t.slice.isSome || tileHalted s stack tile || 4 ≤ stack || 32 ≤ tile then s
  else match (t.repeating ++ sliceKeys).find? (sliceDue s.tide.nowQ t) with
    | some k => setTile s stack tile { t with slice := some k }
    | none => s

/-- The patrol's slice k of a tile has written correctable errors back corrected (R335, R336). -/
def patrolled (stack tile k : Nat) (s : State) : State :=
  let base := sramBase (32 * stack + tile)
  let tenth (i : Nat) : Nat := base + i * 50331648 / 10
  { s with mem.flaws := s.mem.flaws.filter fun a => a < tenth k || tenth (k + 1) ≤ a }

/-- A slice of the tile passed. -/
def slicePassed (stack tile key : Nat) (s : State) : State :=
  let t := getTile s stack tile
  let again := key ∈ t.repeating
  let s := if again then recordBreach 0x07 1 255 stack tile (key / 16) 0 s else s
  let s := if key / 16 = 10 then patrolled stack tile (key % 16) s else s
  setTile s stack tile
    { t with results := tset t.results key ⟨if again then 1 else 0, some s.tide.nowQ⟩,
             repeating := t.repeating.filter (· ≠ key), due := t.due.filter (· ≠ key / 16) }

/-- A slice of the tile failed: it is repeated, and a repeat that fails removes the stack (R341). -/
def sliceFailed (stack tile key : Nat) (s : State) : State :=
  let t := getTile s stack tile
  if key ∈ t.repeating then
    let old := (tget t.results key).getD {}
    removeStack stack 1 (setTile s stack tile
      { t with results := tset t.results key { old with result := 2 }, repeating := t.repeating.filter (· ≠ key) })
  else setTile s stack tile { t with repeating := t.repeating ++ [key] }

/-- Stack of an instance of an item outside the tiles; none for the I/O dies. -/
def outsideStack (item k : Nat) : Option Nat := if (item = 0x21 || item = 0x23) && k < 16 then some (k / 4) else none

/-- The end of a test of an item outside the tiles (R343). -/
def outsideEnd (item k : Nat) (passed : Bool) (s : State) : State :=
  let key := 32 * item + k
  let again := key ∈ s.safety.itemsRepeating
  let put (r : ItemResult) (s : State) : State := { s with safety.items := tset s.safety.items key r }
  let rest (s : State) : State := { s with safety.itemsRepeating := s.safety.itemsRepeating.filter (· ≠ key) }
  let st := (outsideStack item k).getD 255
  if passed then
    let s := if again then recordBreach 0x07 1 255 st 255 item 0 s else s
    rest (put ⟨if again then 1 else 0, some s.tide.nowQ⟩ s)
  else if again then
    let s := rest (put { (tget s.safety.items key).getD {} with result := 2 } s)
    match outsideStack item k with
    | some j => removeStack j 4 s
    | none => recordBreach 0x07 2 255 255 255 item 0 s
  else { s with safety.itemsRepeating := s.safety.itemsRepeating ++ [key] }

/-- Instances of an item outside the tiles that slices test. -/
def outsideInstances (item : Nat) : Nat :=
  if 0x21 ≤ item && item ≤ 0x24 then ((outsideItems.find? (·.1 = item)).map (·.2)).getD 0 else 0

/-- SELFTEST_SLICE_END: a slice of a tile, or the test of an item outside the tiles, whose instance is `number`. -/
def execSelftestSliceEnd (stack tile item number : Nat) (passed : Bool) (s : State) : Host.Outcome State Fault Refusal :=
  .next (
    if !mainUp s then s
    else if 16 ≤ item then if number < outsideInstances item then outsideEnd item number passed s else s
    else
      let key := 16 * item + number
      if 4 ≤ stack || 32 ≤ tile || key ∉ sliceKeys || 16 ≤ number then s
      else
        let t := getTile s stack tile
        let s := setTile s stack tile { t with slice := t.slice.filter (· ≠ key) }
        if passed then slicePassed stack tile key s else sliceFailed stack tile key s)

/-- SLICE_PREEMPT: a quantum becomes ready; the slice in the gap is abandoned, and its item runs again from the start. One in
the edge band is never preempted (R337). -/
def execSlicePreempt (stack tile : Nat) (s : State) : Host.Outcome State Fault Refusal :=
  .next (if s.tide.inBand || 4 ≤ stack || 32 ≤ tile then s
    else setTile s stack tile { getTile s stack tile with slice := none })

/-- The slice of a tile whose last pass began more than 100 ms before an edge. -/
def starvedSlice (nowQ : Nat) (t : TileTest) : Option Nat :=
  (t.results.find? fun r => r.2.passQ.any (· + starvedAge < nowQ)).map (·.1)

/-- TEST_STARVED of one tile at an edge, and, at the start of a swell, the count of swells without it that lifts the reserve: a
swell in which a checker was late does not count (R94, R338). -/
def judgeTile (swell : Bool) (key : Nat) (t : TileTest) (s : State) : State :=
  let stack := key / 32
  let tile := key % 32
  match starvedSlice s.tide.nowQ t with
  | some k =>
    if t.starved then setTile s stack tile { t with cleanSwells := 0, late := true }
    else decideMoves .starved key (raisePf0 17 (recordBreach 0x09 0 255 stack tile (k / 16) 0
      (setTile s stack tile { t with starved := true, cleanSwells := 0, late := true })))
  | none =>
    if !t.starved || !swell then s
    else if t.late then setTile s stack tile { t with late := false }
    else setTile s stack tile { t with cleanSwells := t.cleanSwells + 1, starved := decide (t.cleanSwells + 1 < 10) }

/-- At an edge, every tile that has been tested. -/
def judgeTiles (s : State) : State := s.safety.tiles.foldl (fun st q => judgeTile (swellStart st) q.1 q.2 st) s

end Sys2Proof.Machine
end

