-- ==== Sys2Proof/Machine/Power.lean ====
section
/-! DEFINITION. Machine/Power.lean: operating points, phases, the cap with its lease and ladder, heat and coolant
(R357 to R382, R384). -/

namespace Sys2Proof.Machine

/-! ## Forced drops (R360, R361, R365) -/

/-- A cause that forces OP0: the brake, SAG_WARN, or a coolant stop. -/
def forcedCause (s : State) : Bool := s.power.brake || s.aon.sagWarn || s.power.stop

/-- A forced drop: OP0 at once on the fixed PLL; a rise in preparation is abandoned. -/
def forceDrop (s : State) : State :=
  { s with
    power.forcedIx := if s.power.op = 0 then s.power.forcedIx else some s.tide.ix
    power.forced := true
    power.op := 0
    power.coreMv := Config.coreMv 0
    power.staging := none
    power.raising := false
    power.sinceRise := 0 }

/-! ## Phases and want (R362, R363) -/

/-- Phase of a graph's quanta: 0 PERCEPTION, 4 TRAINING, 2 DECODE for an image with an EXPERTS section. -/
def graphPhase (g : Graph) : Nat := if g.img.training then 4 else if g.img.experts.isSome then 2 else 0

/-- The run launches an invocation in one of the 29 tides from the edge on. -/
def launchesSoon (s : State) (y : Run) : Bool := (List.range 29).any fun k => launchDue y (s.tide.ix + k)

/-- Phases of the work scheduled in t .. t+28. -/
def scheduledPhases (s : State) : List Nat :=
  (s.work.polders.flatMap fun q =>
    (q.2.runs.filterMap fun r => if launchesSoon s r.2 then (tget q.2.graphs r.2.handle).map graphPhase else none) ++
    (q.2.requests.map fun r => if r.state = .decode then 2 else 1) ++
    (q.2.graphs.filterMap fun g => g.2.golden.bind fun y =>
      let pos := (swellPos s).1
      let w := goldenWidth s.tide.swellLen
      if (pos ≤ y.offset + w && y.offset ≤ pos + 28) || y.offset + s.tide.swellLen ≤ pos + 28 then some 0 else none)) ++
  (if s.codec.sessions = [] then [] else [3])

/-- Class Q work is scheduled in the span. -/
def qScheduled (s : State) : Bool :=
  s.work.polders.any fun q => q.2.cls = .Q && (q.2.runs.any (fun r => launchesSoon s r.2) || q.2.requests ≠ [])

/-- want of choose_op. -/
def wantOp (s : State) : Nat :=
  let ps := scheduledPhases s
  let pref (k : Nat) : Nat := s.power.prefs.getD k 0
  let w := if ps = [] then pref 5 else (ps.map pref).foldl max 0
  if qScheduled s then max w s.work.qAdmitOp else w

/-! ## The cap (R366 to R368, R373) -/

/-- Energy in mJ of the recorded tides within a span of quarter-ms before the edge. -/
def energyWithin (s : State) (q : Nat) : Nat :=
  ((s.power.history.filter fun e => s.tide.nowQ ≤ e.1 + q).map (·.2)).sum

/-- Forecast mean power at an operating point and rung, at most its full load, scaled by the mismatch (R358, R368, R373). -/
def meanPower (s : State) (k rung : Nat) : Nat :=
  let p := min (Config.fullLoadW k) (Config.forecastPower k rung s.fresh)
  if s.power.mismatch then p * max 1024 s.power.ratio / 1024 else p

/-- avg(k) of R368 in W, with a rung in force, rounded up so that it never meets a cap it exceeds. -/
def avgPower (s : State) (k rung : Nat) : Nat :=
  let w := s.power.windowS * 4000
  let past := energyWithin s (w - 50 * s.tide.periodQ)
  (4 * past + 50 * s.tide.periodQ * meanPower s k rung + w - 1) / max w 1

/-- cap_limit: the highest point that meets the cap; none where none does. -/
def capLimit (s : State) : Option Nat := ((List.range 8).filter fun k => avgPower s k s.power.rung ≤ s.power.capW).getLast?

/-- avg(0) exceeds the cap. -/
def overCap (s : State) : Bool := s.power.capW < avgPower s 0 s.power.rung

/-- The deficit avg(0) − CAP_W. -/
def capDeficit (s : State) : Nat := avgPower s 0 s.power.rung - s.power.capW

/-- The sum of what the regulators report; none where a reading failed. -/
def regulatorSum : List (Option Nat) → Option Nat
  | [] => some 0
  | x :: r => x.bind fun a => (regulatorSum r).map (a + ·)

/-- Record the energy of the tide that has closed (R366, R373, R374). -/
def recordEnergy (e : EdgeIn) (s : State) : State :=
  let read := regulatorSum e.energyMj
  let measured := read.getD (e.estimateMj * 133 / 100)
  let counted := if s.power.mismatch then max measured e.estimateMj else measured
  let ratio := if e.estimateMj = 0 then 1024 else min 65535 (measured * 1024 / e.estimateMj)
  let out := ratio < 768 || 1362 < ratio
  { s with
    power.powerW := measured * 4 / max s.tide.periodQ 1
    power.energyMj := s.power.energyMj + measured
    power.history := ((s.tide.nowQ, counted) :: s.power.history).filter fun h => s.tide.nowQ < h.1 + 120000
    power.ratio := ratio
    power.ratioOut := if out then s.power.ratioOut + 1 else 0
    power.ratioIn := if out then 0 else s.power.ratioIn + 1
    power.opReady := e.opReady
    power.readingMissing := read.isNone
    power.missingTides := if read.isNone then s.power.missingTides + 1 else 0 }

/-! ## Heat (R375 to R379) -/

def setHotspot (s : State) (i : Nat) (h : Hotspot) : State := { s with power.hotspots := tset s.power.hotspots i h }

/-- Pace limit and trip limit of a hotspot. -/
def paceLimit (i : Nat) : Int := if i < 130 then 100 else if i < 142 then 95 else 115
def tripLimit (i : Nat) : Int := if i < 130 then 110 else if i < 142 then 108 else 125

/-- A reading that is not dropped. -/
def keepReading (r : Option Int) : Option Int := r.filter fun t => decide (-50 ≤ t) && decide (t ≤ 150)

/-- The reading in use: the higher of the kept ones, 105 °C with none. -/
def readingOf (a b : Option Int) : Int :=
  match a, b with
  | some x, some y => max x y
  | some x, none => x
  | none, some y => y
  | none, none => 105

/-- Take the diode readings of a tide. -/
def takeReading (s : State) (x : Nat × Option Int × Option Int) : State :=
  if 146 ≤ x.1 then s
  else
    let a := keepReading x.2.1
    let b := keepReading x.2.2
    setHotspot s x.1 { getHotspot s x.1 with a := a, b := b, reading := readingOf a b }

/-- The two readings of a hotspot differ by more than 6 °C. -/
def pairDiffers (h : Hotspot) : Bool :=
  match h.a, h.b with
  | some x, some y => decide (6 < (x - y).natAbs)
  | _, _ => false

/-- Count a hotspot's tides of disagreement and of agreement. -/
def countPair (h : Hotspot) : Hotspot :=
  if h.a.isNone || h.b.isNone then { h with differ := 0, agree := 0 }
  else if pairDiffers h then { h with differ := h.differ + 1, agree := 0 }
  else { h with differ := 0, agree := h.agree + 1 }

/-- The least n of 16 that a Class S tile's work allows (R378). -/
def leastPace (s : State) (tile : Nat) : Nat :=
  let occ := sOccAt (placedOf s) (tile % 32)
  if occ = 0 || channelOf s (tile / 32) = none then 4
  else min 16 (max 4 ((occ * 600 * 16 + windowNs s * Config.clockMhz s.power.op - 1) / max (windowNs s * Config.clockMhz s.power.op) 1))

/-- Pace of a tile from its forecast: 16 while the forecast stays within the limit (R377). -/
def paceOf (s : State) (i : Nat) : Nat :=
  if forecastOf s i ≤ 100 then 16 else max (leastPace s i) (min 16 (max 4 (Config.tilePace i s.fresh)))

/-- Pace every tile at the edge; work leaves a tile that becomes paced (R93, R377). -/
def paceTiles (s : State) : State :=
  (List.range 128).foldl (fun st i =>
    let n := paceOf st i
    let h := getHotspot st i
    if h.pace = n then st
    else
      let st := setHotspot st i { h with pace := n }
      if n < 16 && h.pace = 16 then wakeEvent (decideMoves .paced i st) else st) s

/-- A hotspot reads at or above its trip limit. -/
def tripped (s : State) : Bool := (List.range 146).any fun i => decide (tripLimit i ≤ (getHotspot s i).reading)

/-- The coolant registers and the PMBus readings take the latest samples at an edge (R380, R386, R473). -/
def latchCoolant (s : State) : State :=
  { s with aon.edgeVin := s.aon.vin48, aon.edgeIin := s.fresh, power.edgeFlow := s.power.flow, power.edgeInlet := s.power.inlet, power.edgeOutlet := s.power.outlet }

/-- The readings of an edge and what they call for: a trip powers the main package down (R379). -/
def senseHeat (e : EdgeIn) (s : State) : State :=
  let s := e.hotspots.foldl takeReading (latchCoolant s)
  let s := { s with
    power.hotspots := s.power.hotspots.map fun p => (p.1, countPair p.2)
    power.fcAt := some s.fresh
    aon.heldHottest := (hottest s).1 }
  paceTiles s

/-! ## choose_op (R361, R363, R384) -/

/-- Heat needs a tile paced further than its Class S work, or than 4 of 16, allows (R377, R378). -/
def paceShort (s : State) : Bool :=
  (List.range 128).any fun i => decide (100 < forecastOf s i) && decide (Config.tilePace i s.fresh < leastPace s i)

/-- heat_limit: it falls one step below the point in force while pacing does not suffice (R376 to R378). -/
def heatLimit (s : State) : Nat :=
  let k := min 7 (Config.heatLimit s.fresh)
  if paceShort s then min k (s.power.op - 1) else k

/-- LIMITS: the causes that hold OP below WANT (R385). -/
def limitBits (s : State) (want cap heat link : Nat) : Nat :=
  bitAt 0 (cap < want) + bitAt 1 (heat < want) + bitAt 2 (link < want) + bitAt 3 s.power.brake + bitAt 4 s.aon.sagWarn +
    bitAt 5 s.power.stop

/-- The module's own target, link_limit left out (R364). -/
def ownTarget (s : State) : Nat :=
  if forcedCause s then 0
  else min (wantOp s) (min ((capLimit s).getD 0) (heatLimit s))

/-- A step to an operating point is prepared: the staging PLL locks at its clock, and a rise raises the core voltage first
(R360). -/
def prepareOp (k : Nat) (s : State) : State :=
  { s with power.staging := some k, power.coreMv := max s.power.coreMv (Config.coreMv k) }

/-- The staging PLL becomes the running one: the point in force, at its voltage (R360). -/
def switchOp (k : Nat) (s : State) : State :=
  { s with power.op := k, power.coreMv := Config.coreMv k, power.staging := none, power.raising := false, power.forced := false }

/-- A rise that was prepared takes effect where voltage and staging PLL were ready; else it moves to the next edge (R360). -/
def finishRise (s : State) : State :=
  if s.power.raising && s.power.opReady then
    let s := switchOp (min 7 (s.power.op + 1)) s
    { s with power.sinceRise := 0 }
  else s

/-- The operating point at an edge: a prepared raise takes effect, then the point moves one step towards the target; in DORMANT
the gated stack domains keep theirs. -/
def chooseOp (s : State) : State :=
  let s := finishRise s
  let want := wantOp s
  let cap := (capLimit s).getD 0
  let heat := heatLimit s
  let link := linkLimit s
  let s := { s with
    power.want := want
    power.limits := limitBits s want cap heat link
    power.avgW := energyWithin s (s.power.windowS * 4000) / max (1000 * s.power.windowS) 1
    power.deficitW := if overCap s && capLimit s = none then capDeficit s else 0 }
  if forcedCause s then
    { s with power.op := 0, power.coreMv := Config.coreMv 0, power.staging := none, power.raising := false, power.sinceRise := 0 }
  else if s.startup.dormant then { s with power.raising := false, power.staging := none }
  else
    let target := min want (min cap (min heat link))
    let s := { s with power.sinceRise := s.power.sinceRise + 1 }
    if target < s.power.op then switchOp (s.power.op - 1) s
    else if s.power.op < target && 4 ≤ s.power.sinceRise then
      let s := prepareOp (s.power.op + 1) s
      { s with power.raising := true }
    else { s with power.raising := false, power.staging := none }

/-! ## The shedding ladder (R370 to R372) -/

/-- Post an interim ST_CAP_UNATTAINABLE with the deficit for the open SET_POWER_CAP (R122, R371). -/
def reportDeficit (s : State) : State :=
  match s.power.lease with
  | some l => answer l.cmd .capUnattainable false .none false false (le 2 (capDeficit s)) s
  | none => s

/-- Count the tides of the climbing and lifting conditions at an edge. Rung 3 is fully in force after 4 tides; 4 tides later,
with avg(0) still above the cap, the second report is written. -/
def countLadder (s : State) : State :=
  let climb := capLimit s = none && overCap s
  let lift := 0 < s.power.rung && 100 * avgPower s 0 (s.power.rung - 1) ≤ 95 * s.power.capW
  let s := { s with
    power.climbTides := if climb then s.power.climbTides + 1 else 0
    power.liftTides := if lift then s.power.liftTides + 1 else 0
    power.rung3Tides := if s.power.rung = 3 then s.power.rung3Tides + 1 else 0 }
  if climb && 8 ≤ s.power.rung3Tides && !s.power.reported3 then
    reportDeficit { s with power.reported3 := true }
  else s

/-- RUNG_CLIMB: the next rung, once the condition has held for 4 tides. -/
def execRungClimb (s : State) : Host.Outcome State Fault Refusal :=
  .next (
    if s.power.climbTides < 4 || 3 ≤ s.power.rung then s
    else
      let s := if s.power.rung = 0 then reportDeficit s else s
      let s := { s with power.rung := s.power.rung + 1, power.climbTides := 0, power.liftTides := 0,
                        power.rung3Tides := 0, power.reported3 := false }
      if s.power.rung = 2 then shedClassB s else s)

/-- RUNG_LIFT: the highest rung is lifted after 16 tides. -/
def execRungLift (s : State) : Host.Outcome State Fault Refusal :=
  .next (
    if s.power.liftTides < 16 || s.power.rung = 0 then s
    else { s with power.rung := s.power.rung - 1, power.climbTides := 0, power.liftTides := 0, power.rung3Tides := 0,
                  power.reported3 := false })

/-- POWER_MODEL_MISMATCH: set after 64 tides out of range or without readings; a refit of 10 s follows; cleared once it has
ended and the ratio has stayed in range for 64 tides, else the refit is repeated (R373, R374). -/
def execPowerModelMismatch (s : State) : Host.Outcome State Fault Refusal :=
  .next (
    if !s.power.mismatch then
      if 64 ≤ s.power.ratioOut || 64 ≤ s.power.missingTides then
        raisePf0 17 { s with power.mismatch := true, power.refitEndQ := some (s.tide.nowQ + 40000) }
      else s
    else
      match s.power.refitEndQ with
      | some q =>
        if s.tide.nowQ < q then s
        else if 64 ≤ s.power.ratioIn then { s with power.mismatch := false, power.refitEndQ := none }
        else { s with power.refitEndQ := some (s.tide.nowQ + 40000) }
      | none => s)

/-- SENSOR_SUSPECT of a hotspot: set after 50 tides that differ, cleared after 1,000 in agreement (R375). -/
def execSensorSuspect (hotspot : Nat) (s : State) : Host.Outcome State Fault Refusal :=
  .next (
    let h := getHotspot s hotspot
    if 50 ≤ h.differ && !h.suspect then raisePf0 17 (setHotspot s hotspot { h with suspect := true })
    else if 1000 ≤ h.agree && h.suspect then setHotspot s hotspot { h with suspect := false }
    else s)

/-- LEASE_EXPIRY: the cap becomes the orphan cap, and the command ends with 1 in byte 18 (R367). -/
def expireLease (s : State) : State :=
  match s.power.lease with
  | some l =>
    if s.tide.nowQ < l.expiresQ then s
    else finishCmd l.cmd .ok .none (le 2 0 ++ le 1 1) { s with power.capW := s.power.orphanW, power.lease := none }
  | none => s

def execLeaseExpiry (s : State) : Host.Outcome State Fault Refusal := .next (expireLease s)

/-! ## Coolant (R380 to R382) -/

/-- The flow is below, or at least, a percentage of the rated flow. -/
def flowBelow (s : State) (flow pct : Nat) : Bool := 100 * flow < pct * Config.ratedFlow s.ident.cabinet

def countIf (b : Bool) (n : Nat) : Nat := if b then n + 1 else 0

/-- COOLANT_SAMPLE: one sample a millisecond; the counts of consecutive samples. -/
def execCoolantSample (flow : Nat) (inlet outlet : Int) (hotRise : Bool) (s : State) : Host.Outcome State Fault Refusal :=
  .next
    { s with
      power.flow := flow
      power.inlet := inlet
      power.outlet := outlet
      power.hotRise := hotRise
      power.below := (countIf (flowBelow s flow 70) s.power.below.1, countIf (flowBelow s flow 40) s.power.below.2.1,
        countIf (flowBelow s flow 15) s.power.below.2.2)
      power.above := (countIf (!flowBelow s flow 75) s.power.above.1, countIf (!flowBelow s flow 45) s.power.above.2.1,
        countIf (!flowBelow s flow 40) s.power.above.2.2.1, countIf (!flowBelow s flow 70) s.power.above.2.2.2) }

def execFlowWarning (s : State) : Host.Outcome State Fault Refusal :=
  .next (if 10 ≤ s.power.below.1 && !s.power.flowWarn then
    wakeEvent (raisePf0 17 { s with power.flowWarn := true })
  else s)

def execFlowWarningEnd (s : State) : Host.Outcome State Fault Refusal :=
  .next (if 1000 ≤ s.power.above.1 then { s with power.flowWarn := false } else s)

def execFlowBShed (s : State) : Host.Outcome State Fault Refusal :=
  .next (if 10 ≤ s.power.below.2.1 && !s.power.flowShed then wakeEvent (shedClassB { s with power.flowShed := true }) else s)

def execFlowBShedEnd (s : State) : Host.Outcome State Fault Refusal :=
  .next (if 1000 ≤ s.power.above.2.1 then { s with power.flowShed := false } else s)

/-- COOLANT_STOP: detected; it takes effect at the next edge. -/
def execCoolantStop (s : State) : Host.Outcome State Fault Refusal :=
  .next (if (2 ≤ s.power.below.2.2 || s.power.hotRise) && !s.power.stop then
    wakeEvent { s with power.stopPending := true }
  else s)

/-- The coolant stop at its edge: OP0, Class Q and Class B suspended (R381). -/
def stopCoolant (s : State) : State :=
  if s.power.stopPending then suspendQB (forceDrop { s with power.stopPending := false, power.stop := true }) else s

/-- COOLANT_STOP_END: at least 40% for 1 s, and no forecast exceeds its pace limit (R382). -/
def execCoolantStopEnd (s : State) : Host.Outcome State Fault Refusal :=
  .next (
    if s.power.stop && 1000 ≤ s.power.above.2.2.1 && (List.range 146).all (fun i => decide (forecastOf s i ≤ paceLimit i)) then
      { s with power.stop := false, power.sinceRise := 0 }
    else s)

/-- THERMAL_COMPARATOR_TRIP: both diodes of a tile or I/O-die hotspot between 118 °C and 150 °C open the switch (R379). -/
def execThermalComparatorTrip (hotspot : Nat) (a b : Int) (s : State) : Host.Outcome State Fault Refusal :=
  .next (
    let hot (t : Int) : Bool := decide (118 ≤ t) && decide (t ≤ 150)
    if mainUp s && hotspot < 130 && hot a && hot b then enterHold 8 s else s)

/-! ## The brake (R369) -/

def execBrakeAssert (s : State) : Host.Outcome State Fault Refusal :=
  .next (
    let s := pinLevel 0 { s with aon.brakeLow := true, power.brakeHighIx := none }
    if mainUp s then forceDrop { s with power.brake := true } else { s with power.brake := true })

def execBrakeRelease (s : State) : Host.Outcome State Fault Refusal :=
  .next (if s.aon.brakeLow then pinLevel 0 { s with aon.brakeLow := false, power.brakeHighIx := some s.tide.ix } else s)

/-- At the first edge after the pin has been high for a whole tide, the brake releases. -/
def releaseBrake (s : State) : State :=
  match s.power.brakeHighIx with
  | some i => if s.power.brake && !s.aon.brakeLow && i + 2 ≤ s.tide.ix then { s with power.brake := false, power.brakeHighIx := none } else s
  | none => s

/-! ## SET_PHASE_OP and SET_POWER_CAP -/

/-- SET_PHASE_OP at its edge (R362). -/
def applySetPhaseOp (h : Hdr) (ops : List Nat) (s : State) : State := finish h .ok .none [] { s with power.prefs := ops }

/-- SET_POWER_CAP at its edge: it replaces the lease, whose command ends with 0 in byte 18, and stays open (R122, R367). -/
def applySetPowerCap (c : Instr) (capW windowS leaseS orphanW : Nat) (s : State) : State :=
  let s := match s.power.lease with
    | some l => finishCmd l.cmd .ok .none [] s
    | none => s
  { s with
    power.capW := capW
    power.windowS := windowS
    power.orphanW := if orphanW = 0 then s.power.orphanW else orphanW
    power.lease := some ⟨c, s.tide.nowQ + 4000 * leaseS⟩ }

def execSetPhaseOp (h : Hdr) (ops : List Nat) (s : State) : Host.Outcome State Fault Refusal :=
  fetched (.setPhaseOp h ops) h id s

def execSetPowerCap (h : Hdr) (capW windowS leaseS orphanW : Nat) (s : State) : Host.Outcome State Fault Refusal :=
  fetched (.setPowerCap h capW windowS leaseS orphanW) h id s

end Sys2Proof.Machine
end

