-- ==== Sys2Proof/Machine/Sampler.lean ====
section
/-! DEFINITION. Machine/Sampler.lean: the sampler that turns a step's logits into one token (R271, R272). -/

namespace Sys2Proof.Machine

/-! ## Philox4x32-10 (R272) -/

/-- High and low words of a 32-bit product. -/
def mulHiLo (a b : Nat) : Nat × Nat := (a * b / 4294967296, a * b % 4294967296)

def xor32 (a b : Nat) : Nat := (BitVec.ofNat 32 a ^^^ BitVec.ofNat 32 b).toNat

/-- One round on a counter with a key. -/
def philoxRound (c : Nat × Nat × Nat × Nat) (k : Nat × Nat) : Nat × Nat × Nat × Nat :=
  let p := mulHiLo 0xD2511F53 c.1
  let q := mulHiLo 0xCD9E8D57 c.2.2.1
  (xor32 (xor32 q.1 c.2.1) k.1, q.2, xor32 (xor32 p.1 c.2.2.2) k.2, p.2)

/-- Rounds, the key bumped by the Weyl constants before each round but the first. -/
def philox : Nat → Nat × Nat × Nat × Nat → Nat × Nat → Nat × Nat × Nat × Nat
  | 0, c, _ => c
  | n + 1, c, k => philox n (philoxRound c k) ((k.1 + 0x9E3779B9) % 4294967296, (k.2 + 0xBB67AE85) % 4294967296)

/-- The draw u of a position, as an FP32 value: (x0 >> 8) x 2^-24. -/
def drawAt (seed : Word64) (position : Nat) : Word :=
  let k := (seed.toNat % 4294967296, seed.toNat / 4294967296)
  let x := (philox 10 (position % 4294967296, 0, 0, 0) k).1
  word32 (.fin false (x / 256) (-24))

/-! ## The order of step 8 -/

/-- Insert by descending value, ties by descending token ID. -/
def insertToken (x : Nat × Word) : List (Nat × Word) → List (Nat × Word)
  | [] => [x]
  | y :: r => if vlt y.2 x.2 || (!vlt x.2 y.2 && y.1 < x.1) then x :: y :: r else y :: insertToken x r

def sortTokens (xs : List (Nat × Word)) : List (Nat × Word) := xs.foldl (fun acc x => insertToken x acc) []

/-- Sum in the order of a list. -/
def sumWords (ws : List Word) : Word := ws.foldl vadd 0

/-- The shortest leading run whose sum reaches a bound. -/
def leadingRun (bound : Word) : Word → List (Nat × Word) → List (Nat × Word)
  | _, [] => []
  | acc, x :: r => let a := vadd acc x.2; if vle bound a then [x] else x :: leadingRun bound a r

/-- The first token at which the running sum exceeds a bound. -/
def firstBeyond (bound : Word) : Word → List (Nat × Word) → Option Nat
  | _, [] => none
  | acc, x :: r => let a := vadd acc x.2; if vlt bound a then some x.1 else firstBeyond bound a r

/-! ## Steps 2 to 10 -/

def minusInf : Word := 0xFF800000

/-- Step 3 on one token's logit. -/
def penalise (penalty x : Word) : Word := if vlt 0 x then vdiv x penalty else vmul x penalty

/-- Steps 2 and 3: the logits that the choice starts from. `allowed` holds the tokens of the grammar's state. -/
def preparedLogits (allowed : Option (List Nat)) (recent : List Nat) (penalty : Word) (logits : List Word) : List (Nat × Word) :=
  logits.mapIdx fun t x =>
    let x := match allowed with
      | some ts => if t ∈ ts then x else minusInf
      | none => x
    (t, if t ∈ recent then penalise penalty x else x)

/-- Step 4: the largest logit, the highest token ID on a tie. -/
def greedy (xs : List (Nat × Word)) : Option Nat :=
  (xs.foldl (fun best x => match best with
    | none => some x
    | some b => if vle b.2 x.2 then some x else best) (none : Option (Nat × Word))).map (·.1)

/-- Steps 5 to 10. -/
def drawToken (d : ReqDesc) (position : Nat) (xs : List (Nat × Word)) : Option Nat :=
  let xs := sortTokens (xs.map fun x => (x.1, vdiv x.2 d.temperature))
  let kept := if d.topK = 0 then xs else xs.take d.topK
  let row := kept.map (·.2)
  let ps := sortTokens ((kept.map (·.1)).zip (softmaxRow row (Config.softmaxAt row)))
  let largest := (ps.head?.map (·.2)).getD 0
  let ps := ps.filter fun x => !vlt x.2 (vmul d.minP largest)
  let run := leadingRun (vmul d.topP (sumWords (ps.map (·.2)))) 0 ps
  firstBeyond (vmul (drawAt d.seed position) (sumWords (run.map (·.2)))) 0 run

/-- The token of a step. Where the spec states no result (a logit that is no number, or no token beyond the draw) the token
is a free value below VOCAB (assumption log 9). -/
def sampleToken (d : ReqDesc) (allowed : Option (List Nat)) (history : List Nat) (logits : List Word) (free : Nat) : Nat :=
  let recent := (history.reverse.take d.repWindow)
  let xs := preparedLogits allowed recent d.repPenalty logits
  let none' := free % max logits.length 1
  if xs.any fun x => isNan x.2 then none'
  else if d.temperature.toNat % 2147483648 = 0 then (greedy xs).getD none'
  else (drawToken d history.length xs).getD none'

end Sys2Proof.Machine
end

