-- ==== Sys2Proof/Machine/Serving.lean ====
section
/-! DEFINITION. Machine/Serving.lean: serving requests: submission, reservation, the prefix store, residence in HBM, the
schedule of each tide, committed tokens and the endings (R229 to R246, R250 to R278). -/

namespace Sys2Proof.Machine

/-! ## Access -/

/-- A request's own number among its polder's: its sluice and SEQ. -/
def reqKey (r : Request) : Nat :=
  match hdrOf r.cmd with
  | some h => 4294967296 * h.sluice + h.seq.toNat
  | none => 0

def getReq (s : State) (p k : Nat) : Option Request := (getPolder s p).bind fun x => x.requests.find? fun r => reqKey r = k
def setReq (p : Nat) (r : Request) (s : State) : State :=
  modPolder s p fun x => { x with requests := x.requests.map fun q => if reqKey q = reqKey r then r else q }
def reqKeys (s : State) (p : Nat) : List Nat := ((getPolder s p).map fun x => x.requests.map reqKey).getD []

def servingOf (g : Graph) : Option Serving := g.img.experts.bind (·.serving)

/-- The request holds a reservation. -/
def reserves (r : Request) : Bool := r.state ≠ .waitingSlot

/-- The request is in the stepping set. -/
def stepping (r : Request) : Bool := r.state = .prefill || r.state = .decode

/-- Requests of a graph that hold reservations. -/
def activeCount (x : Polder) (handle : Nat) : Nat := (x.requests.filter fun r => r.handle = handle && reserves r).length

/-! ## Page blocks (R229, R230) -/

/-- Frames of one page block of a graph: the pages of every layer and KV head, padded to whole 4 KiB frames. -/
def blockFramesOf (img : Image) : Nat :=
  let one (o : Operator) : Nat := match o.kind with
    | .attention a =>
      let bytes := match (o.ins[1]?).bind (tensorOf img) with
        | some t => if formatBits (formatCode t.format) ≤ 8 then 1 else 2
        | none => 2
      a.layers * a.hkv * 32 * a.dh * bytes
    | _ => 0
  max 1 (((img.operators.map one).sum + 4095) / 4096)

/-- Logical pages of so many positions. -/
def pagesFor (n : Nat) : Nat := (n + 15) / 16

/-- Positions whose keys and values are committed. -/
def computedOf (r : Request) : Nat := r.promptDone + (r.tokens.length - 1)

/-! ## Descriptor checks (R253, R255) -/

def ascendingPairs : List (Nat × Nat) → Bool
  | a :: b :: r => decide (a.1 < b.1) && ascendingPairs (b :: r)
  | _ => true

/-- A grammar table is valid. -/
def grammarOk (vocab : Nat) (g : Grammar) : Bool :=
  1 ≤ g.states.length && g.states.length ≤ 65536 && (g.states.map (·.length)).sum ≤ 8388608 && g.start < g.states.length &&
    g.states.all fun ps => ps ≠ [] && ascendingPairs ps &&
      ps.all fun x => x.1 < vocab && (x.2 < g.states.length || x.2 = 4294967295)

/-- The first check of the descriptor, the prompt and the grammar table that fails. -/
def requestFault (g : Graph) (v : Serving) (variant deadline reqLen : Nat) (d : ReqDesc) : Option Reason :=
  let inside (lo hi x : Word) : Bool := vle lo x && vle x hi
  if reqLen < 128 then some .bufferShort
  else if d.fault then some .bufferFault
  else firstFault
    [need (1 ≤ d.promptLen && d.promptLen + 1 ≤ v.context && d.promptLen = d.prompt.length) .fieldRange,
     need (1 ≤ d.maxNew && d.maxNew + d.promptLen ≤ v.context) .fieldRange,
     need (inside 0 0x42C80000 d.temperature) .fieldRange,
     need (vlt 0 d.topP && vle d.topP 0x3F800000) .fieldRange,
     need (vle 0 d.minP && vlt d.minP 0x3F800000) .fieldRange,
     need (inside 0x3F800000 0x41200000 d.repPenalty) .fieldRange,
     need (d.topK ≤ 1024 && d.repWindow ≤ 4096 && d.stop.length ≤ 8 && d.stop.all (· < v.vocab)) .fieldRange,
     need (16 + 4 * d.maxNew ≤ d.outLen) .bufferShort,
     need (d.grammarLen ≤ 67108864) .fieldRange,
     need (variant = 0 || (tget g.variants variant).isSome) .fieldRange,
     need (deadline ≤ 2147483647) .fieldRange,
     need (d.prompt.all (· < v.vocab)) .fieldRange,
     need (d.grammar.all (grammarOk v.vocab)) .fieldRange]

/-! ## The prefix store (R264 to R268) -/

/-- Whose prefix key serves a polder: its group's, or its own. -/
def pfxKeyOf (p : Nat) (x : Polder) : Nat × Nat := if x.group = 0 then (0, p) else (1, x.group)

/-- Prefix hash of a page: parent, MODEL, VARIANT and the 16 tokens under Kp (R264). -/
def pfxHash (kp : BitVec 256) (parent : BitVec 128) (model : BitVec 384) (variant : Nat) (ts : List Nat) : BitVec 128 :=
  Config.hmacHead kp (le 16 parent.toNat ++ le 48 model.toNat ++ le 2 variant ++ ts.flatMap (le 4))

/-- Hashes of the pages from j on, each with its parent and its tokens. -/
def hashChain (key : BitVec 256) (model : BitVec 384) (variant : Nat) :
    Nat → BitVec 128 → List Nat → List (BitVec 128 × BitVec 128 × List Nat)
  | 0, _, _ => []
  | n + 1, parent, ts =>
    if ts.length < 16 then []
    else
      let h := pfxHash key parent model variant (ts.take 16)
      (h, parent, ts.take 16) :: hashChain key model variant n h (ts.drop 16)

/-- A page matches an entry: hash, parent and tokens are equal. -/
def matches_ (key : Nat × Nat) (model : BitVec 384) (q : BitVec 128 × BitVec 128 × List Nat) (e : PfxEntry) : Bool :=
  e.key = key && e.model = model && e.hash = q.1 && e.parent = q.2.1 && e.tokens = q.2.2

/-- The entries of the leading pages of a prompt, up to the first page without a match. -/
def leadingMatches (key : Nat × Nat) (model : BitVec 384) (store : List PfxEntry) :
    List (BitVec 128 × BitVec 128 × List Nat) → List PfxEntry
  | [] => []
  | q :: r => match store.find? (matches_ key model q) with
    | some e => e :: leadingMatches key model store r
    | none => []

/-- What the store offers a request: the pages up to floor((PROMPT_LEN − 1) / 16) − 1. -/
def reusable (s : State) (p : Nat) (x : Polder) (g : Graph) (r : Request) : List PfxEntry :=
  let key := pfxKeyOf p x
  leadingMatches key g.img.model s.work.pfx
    (hashChain (prefixKey s p x) g.img.model r.variant ((r.desc.promptLen - 1) / 16) 0 r.desc.prompt)

/-- A request takes hold of entries. -/
def holdEntries (p k : Nat) (es : List PfxEntry) (s : State) : State :=
  { s with work.pfx := s.work.pfx.map fun e =>
      if es.any (·.no = e.no) then { e with holders := (p, k) :: e.holders, lastUse := s.tide.ix } else e }

/-- A request lets go of its entries; those of a polder that is gone and that none reads go at once. -/
def releaseEntries (p k : Nat) (s : State) : State :=
  dropOrphans { s with work.pfx := s.work.pfx.map fun e => { e with holders := e.holders.filter fun h => h ≠ (p, k) } }

/-- The least recently used entry of a list. -/
def oldestEntry : List PfxEntry → Option PfxEntry
  | [] => none
  | e :: r => match oldestEntry r with
    | some b => if b.lastUse < e.lastUse then some b else some e
    | none => some e

/-- Drop an entry: its frames return to their holder. -/
def dropEntry (e : PfxEntry) (s : State) : State :=
  loosen e.tier ⟨e.frame, e.frames⟩ { s with work.pfx := s.work.pfx.filter fun q => q.no ≠ e.no }

/-- Drop entries of a polder in HBM that no request reads, the least recently used first, until its HBM use with so many
frames more fits in its share (R267). -/
def makeRoom (share frames p : Nat) : Nat → State → State
  | 0, s => s
  | n + 1, s =>
    match getPolder s p with
    | none => s
    | some x =>
      if kvResident s p x + frames ≤ share then s
      else match oldestEntry ((unreferenced s p).filter (·.tier = 1)) with
        | some e => makeRoom share frames p n (dropEntry e s)
        | none => s

/-- The lowest number that no entry bears. -/
def freeEntryNo (es : List PfxEntry) : Nat :=
  ((List.range (es.length + 1)).find? fun n => !es.any (·.no = n)).getD 0

/-- Enter a full page block into the store (R265), with its number: a full store drops the key's least recently used entry
that no request reads. A page that the store already holds is not entered again. A block entered under a group's key is
encrypted under the group's memory key (R268). -/
def enterBlock (p : Nat) (key : Nat × Nat) (model : BitVec 384) (r : Request) (q : BitVec 128 × BitVec 128 × List Nat)
    (frame : Nat) (s : State) : State × Option Nat :=
  let own := s.work.pfx.filter (·.key = key)
  let oldest := oldestEntry (own.filter (·.holders = []))
  if s.work.pfx.any (matches_ key model q) || (Config.pfxLimit ≤ own.length && oldest.isNone) then (s, none)
  else
    let s := match oldest with
      | some b => if own.length < Config.pfxLimit then s else dropEntry b s
      | none => s
    let e : PfxEntry :=
      { no := freeEntryNo s.work.pfx, hash := q.1, parent := q.2.1, tokens := q.2.2, key := key, model := model, creator := p,
        holders := [(p, reqKey r)], lastUse := s.tide.ix, frame := frame, frames := r.blockFrames }
    let s := { s with work.pfx := s.work.pfx ++ [e] }
    (if key.1 = 1 then regroup p 1 key.2 ⟨frame, r.blockFrames⟩ s else s, some e.no)

/-! ## HBM shares -/

/-- Frames of HBM that a polder's quota leaves for page blocks, and of the spillway. -/
def hbmShare (s : State) (p : Nat) (x : Polder) : Nat := 65536 * x.hbmQuota - hbmUse s p x - kvTables x
def spillShare (x : Polder) : Nat := 262144 * x.spillQuota - spillUse x

/-- A page entry's 16 bytes (R231). -/
def pageBytes (e : PageEntry) : List Byte :=
  le 4 e.frame ++ le 1 e.tier ++ le 1 e.state ++ le 1 e.valid ++ le 1 (bit e.shared + 2 * bit e.last) ++ le 4 e.pfxRef ++
    le 4 e.shadow

/-- A grammar table's bytes: its header, its states and its pairs (R254). -/
def grammarBytes (g : Grammar) : List Byte :=
  let states := (g.states.foldl (fun (acc : Nat × List Byte) ps =>
    (acc.1 + ps.length, acc.2 ++ le 4 acc.1 ++ le 4 ps.length)) (0, [])).2
  padTo 16 (le 4 g.states.length ++ le 4 g.start ++ le 4 (g.states.map (·.length)).sum) ++ states ++
    g.states.flatten.flatMap fun x => le 4 x.1 ++ le 4 x.2

/-- The page of a prompt that the store holds, in the state in which its readers have it. -/
def sharedPage (s : State) (e : PfxEntry) : PageEntry :=
  let readers := s.work.polders.flatMap fun q => q.2.requests.flatMap (·.pages)
  match readers.find? fun g => g.shared && g.pfxRef = e.no with
  | some g => { g with valid := 16, last := false }
  | none => { frame := e.frame, tier := e.tier, state := if e.tier = 2 then 1 else 0, valid := 16, shared := true, pfxRef := e.no }

/-- Frames of a request's page table, and those with its grammar table. -/
def ptFrames (d : ReqDesc) : Nat := (16 * pagesFor (d.promptLen + d.maxNew) + 4095) / 4096
def tableFrames (d : ReqDesc) : Nat := ptFrames d + (d.grammarLen + 4095) / 4096

/-- Reserve a request's page blocks for its whole length, less those that it reads from the store (R232, R266); none where
they do not fit. -/
def reserve (p : Nat) (r : Request) (s : State) : Option State :=
  match getPolder s p, getGraph s p r.handle with
  | some x, some g =>
    let es := reusable s p x g r
    let fresh := entryFrames (es.filter fun e => !e.holders.any (·.1 = p))
    let own := (pagesFor (r.desc.promptLen + r.desc.maxNew) - es.length) * r.blockFrames
    let tables := tableFrames r.desc
    let room := (65536 * x.hbmQuota - (hbmUse s p x + kvTables x + tables)) + spillShare x
    let at_ := gather tables (freeIvs s p 1 0 (tierFrames 1))
    if 65536 * x.hbmQuota < hbmUse s p x + kvTables x + tables || room < kvReserved s p x + fresh + own ||
        (at_.map (·.frames)).sum < tables then none
    else
      let pages := es.map (sharedPage s)
      let s := setReq p { r with state := .waiting, reserved := own, tables := tables, tableAt := at_, pages := pages,
                                 promptDone := 16 * es.length, gstate := (r.desc.grammar.map (·.start)).getD 0 }
        (holdEntries p (reqKey r) es s)
      let s := claimAll p 1 at_ s
      some (match r.desc.grammar with
        | some y => extentWrite 1 (dropFrames (ptFrames r.desc) at_) (grammarBytes y) s
        | none => s)
  | _, _ => none

/-! ## Endings (R234, R257, R276) -/

/-- The frames that a page block of a request gives back when the request ends: its own, and those of a copy under way. -/
def freePage (p k n : Nat) (e : PageEntry) (s : State) : State :=
  let readers := (s.work.pfx.filter (·.no = e.pfxRef)).flatMap (·.holders)
  if e.shared && readers.any (· ≠ (p, k)) then s
  else
    let s := if e.state = 2 || e.state = 3 then loosen (3 - e.tier) ⟨e.shadow, n⟩ s else s
    if e.shared then s else loosen e.tier ⟨e.frame, n⟩ s

/-- End a request: its pages go back, and its completion carries tokens output and tokens charged. -/
def endRequest (p : Nat) (r : Request) (st : Status) (s : State) : State :=
  let s := r.pages.foldl (fun u e => freePage p (reqKey r) r.blockFrames e u) (idleAll p 1 r.tableAt s)
  let s := modPolder s p fun x => { x with requests := x.requests.filter fun q => reqKey q ≠ reqKey r }
  finishCmd r.cmd st .none (requestPayload r) (releaseEntries p (reqKey r) s)

/-- Move a request to WAITING, or end it with ST_KV_FULL. -/
def admitRequest (p k : Nat) (s : State) : State :=
  match getReq s p k with
  | some r => match reserve p r s with
    | some s' => s'
    | none => endRequest p r .kvFull s
  | none => s

/-! ## REQUEST_SUBMIT and REQUEST_CANCEL at their edge -/

/-- Insert a request in tag order. -/
def insertRequest (r : Request) : List Request → List Request
  | [] => [r]
  | q :: t => if tagBefore r.tag q.tag then r :: q :: t else q :: insertRequest r t

/-- REQUEST_SUBMIT (R253, R256, R275, R476); `tag` and `intakeIx` are those of the command. -/
def applyRequestSubmit (c : Instr) (h : Hdr) (tag : Tag) (intakeIx handle variant deadline reqLen : Nat) (d : ReqDesc)
    (s : State) : State :=
  let p := polderOf h
  match getGraph s p handle with
  | none => finish h .badParam .noGraph [] s
  | some g =>
    match servingOf g with
    | none => finish h .badParam .fieldRange [] s
    | some v =>
      if isClassS s p then finish h .badParam .fieldRange [] s  -- assumption log 74
      else if s.tide.change.isSome then finish h .notPermitted .busyAdmitted [] s
      else
        match requestFault g v variant deadline reqLen d with
        | some r => finish h .badParam r [] s
        | none =>
          let r : Request :=
            { cmd := c, tag := tag, intakeIx := intakeIx, handle := handle, variant := variant, desc := d,
              deadlineIx := if deadline = 0 then none else some (intakeIx + deadline), blockFrames := blockFramesOf g.img }
          let s := modPolder s p fun x => { x with requests := insertRequest r x.requests }
          match getPolder s p with
          | some x =>
            let older := x.requests.any fun q => q.handle = handle && !reserves q && reqKey q ≠ reqKey r
            if activeCount x handle < v.active && !older then admitRequest p (reqKey r) s else s
          | none => s

/-- A due REQUEST_CANCEL drops the step that its request would commit at this edge, and comes before its deadline (R116,
R274, R276). -/
def cancelCommitting (p sluice : Nat) (seq : Word) (s : State) : State :=
  let drop (r : Request) : Request :=
    if namesRequest sluice seq r then { r with work := none, stepDone := false, sampled := none, deadlineIx := none } else r
  modPolder s p fun x => { x with requests := x.requests.map drop }

/-- REQUEST_CANCEL (R273). -/
def applyRequestCancel (h : Hdr) (seq : Word) (sluice : Nat) (s : State) : State :=
  let p := polderOf h
  match getPolder s p with
  | none => finish h .notPermitted .wrongPolder [] s
  | some x =>
    if x.sluices ≤ sluice then finish h .notPermitted .wrongPolder [] s
    else match x.requests.find? (namesRequest sluice seq) with
      | some r => finish h .ok .none [] (endRequest p r .cancelled s)
      | none => finish h .alreadyDone .none [] s

/-! ## Committing a step (R233, R254, R257, R265) -/

/-- VALID of the pages after so many positions. -/
def setValid (n : Nat) (es : List PageEntry) : List PageEntry :=
  es.mapIdx fun j e => if e.shared then e else { e with valid := min 16 (n - 16 * j) }

/-- Enter every page block that has become full. -/
def enterFull (p : Nat) (r : Request) (s : State) : State × Request :=
  match getPolder s p, getGraph s p r.handle with
  | some x, some g =>
    let key := pfxKeyOf p x
    let chain := hashChain (prefixKey s p x) g.img.model r.variant r.pages.length 0 (r.desc.prompt ++ r.tokens)
    (List.range r.pages.length).foldl (fun acc j =>
      match acc.2.pages[j]?, chain[j]? with
      | some e, some q =>
        if e.shared || e.valid < 16 || e.tier ≠ 1 then acc
        else
          let (s', entered) := enterBlock p key g.img.model acc.2 q e.frame acc.1
          match entered with
          | some n => (s', { acc.2 with reserved := acc.2.reserved - acc.2.blockFrames,
                                        pages := acc.2.pages.set j { e with shared := true, pfxRef := n } })
          | none => acc
      | _, _ => acc) (s, r)
  | _, _ => (s, r)

/-- The request with the effects of its step: positions, the token, and whether that ends it. -/
def steppedRequest (context : Nat) (r : Request) (w : StepWork) : Request × Option Nat × Bool :=
  let r' := match w with
    | .chunk n _ => { r with promptDone := r.promptDone + n }
    | .decode => r
  let yields := match w with
    | .chunk _ last => last
    | .decode => true
  match yields, r.sampled with
  | true, some (t, next) =>
    let r' := { r' with tokens := r'.tokens ++ [t], state := .decode, gstate := next.getD r'.gstate }
    let final := r'.desc.maxNew ≤ r'.tokens.length || r'.desc.stop.contains t || next = some 4294967295 ||
      context ≤ r'.desc.promptLen + r'.tokens.length
    ({ r' with pages := setValid (computedOf r') r'.pages }, some t, final)
  | _, _ => ({ r' with pages := setValid (computedOf r') r'.pages }, none, false)

/-- The step is complete: its last quantum has ended, with a token where it yields one. -/
def stepComplete (r : Request) : Bool :=
  r.stepDone && match r.work with
    | some .decode => r.sampled.isSome
    | some (.chunk _ last) => !last || r.sampled.isSome
    | none => false

/-- Write a committed token into its slot, and then COUNT (R254). -/
def writeToken (p : Nat) (r : Request) (t : Nat) (s : State) : State :=
  let fn := (hdrOf r.cmd).map (·.fn) |>.getD (.vf p)
  let slot := r.desc.outAddr + BitVec.ofNat 64 (16 + 4 * (r.tokens.length - 1))
  hostWrite fn r.desc.outAddr (le 4 r.tokens.length) (hostWrite fn slot (le 4 t) s)

def clearStep (r : Request) : Request := { r with work := none, stepDone := false, sampled := none }

/-- What one request's step and endings come to at the edge (R275, R276). -/
def commitRequest (withheld : Bool) (p k : Nat) (s : State) : State :=
  match getReq s p k with
  | none => s
  | some r =>
    let context := (((getGraph s p r.handle).bind servingOf).map (·.context)).getD 0
    let late := r.deadlineIx.any (· ≤ s.tide.ix)
    if r.dataError then endRequest p (clearStep r) .dataError s
    else
      match r.work with
      | some w =>
        if stepComplete r && !withheld then
          let (r', t, final) := steppedRequest context r w
          if late && !final then endRequest p (clearStep r) .deadlineMissed s
          else
            let s := match t with
              | some t => writeToken p r' t s
              | none => s
            let (s, r') := enterFull p (clearStep r') s
            if final then endRequest p r' .ok s else setReq p r' s
        else if late then endRequest p (clearStep r) .deadlineMissed s
        else setReq p (clearStep r) s
      | none => if late then endRequest p r .deadlineMissed s else s

/-- Commit the serving steps of the tide that has closed, and end what ends; a polder whose tide is withheld loses its
steps (R158). -/
def commitServing (s : State) : State :=
  (polderNumbers s).foldl (fun st p =>
    let withheld := ((getPolder st p).map (·.withheld)).getD false
    (reqKeys st p).foldl (fun u k => commitRequest withheld p k u) st) s

/-- A tide that a warm restart discards discards its charges with its steps (R261). -/
def dropSteps (s : State) : State :=
  let cost (r : Request) : Nat := match r.work with
    | some .decode => 1
    | some (.chunk n last) => n + bit last
    | none => 0
  { s with work.polders := s.work.polders.map fun q =>
      (q.1, { q.2 with
        budget := q.2.budget.map fun b => { b with level := b.level + 4000 * (q.2.requests.map cost).sum }
        requests := q.2.requests.map fun r => clearStep { r with charged := r.charged - cost r } }) }

/-! ## Transfers between the tiers (R241 to R244) -/

/-- The switch of one page entry at the first edge after its copy has ended. -/
def switchPage (e : PageEntry) : PageEntry :=
  if e.copied && e.state = 3 then { e with tier := 2, state := 1, frame := e.shadow, shadow := 0, copied := false }
  else if e.copied && e.state = 2 then { e with tier := 1, state := 0, frame := e.shadow, shadow := 0, copied := false }
  else e

/-- Apply a change to every page entry of a polder's requests. -/
def mapPages (f : Request → PageEntry → PageEntry) (x : Polder) : Polder :=
  { x with requests := x.requests.map fun r => { r with pages := r.pages.map (f r) } }

/-- Blocks whose copy has ended, each with its frames. -/
def switching (s : State) : List (Nat × PageEntry) :=
  s.work.polders.flatMap fun q => (polderPages q.2).filter fun x => x.2.copied && (x.2.state = 2 || x.2.state = 3)

/-- Every block whose copy has ended switches its tier; the frames that it leaves return to their polder. -/
def switchPages (s : State) : State :=
  let moved := switching s
  let entry (e : PfxEntry) : PfxEntry := match moved.find? fun x => x.2.shared && x.2.pfxRef = e.no with
    | some x => { e with tier := (switchPage x.2).tier, frame := x.2.shadow }
    | none => e
  let s := moved.foldl (fun st x => loosen x.2.tier ⟨x.2.frame, x.1⟩ st) s
  { s with work.pfx := s.work.pfx.map entry
           work.polders := s.work.polders.map fun q => (q.1, mapPages (fun _ e => switchPage e) q.2) }

/-- A change of one page of a request; a shared block changes for every request that reads it. -/
def setPage (p k j : Nat) (f : PageEntry → PageEntry) (s : State) : State :=
  match (getReq s p k).bind fun r => r.pages[j]? with
  | some e =>
    if e.shared then
      { s with work.polders := s.work.polders.map fun q =>
          (q.1, mapPages (fun _ g => if g.shared && g.pfxRef = e.pfxRef then f g else g) q.2) }
    else match getReq s p k with
      | some r => setReq p { r with pages := r.pages.set j (f e) } s
      | none => s
  | none => s

/-- KV_COPY_DONE: the copy of one page block has ended, with its pages moved through decryption and encryption under their
tags; its tier switches at the next edge. -/
def execKvCopyDone (p sluice : Nat) (seq : Word) (page : Nat) (s : State) : Host.Outcome State Fault Refusal :=
  let k := 4294967296 * sluice + seq.toNat
  .next (match getReq s p k with
    | some r => match r.pages[page]? with
      | some e =>
        if (e.state = 2 || e.state = 3) && !e.copied && mainUp s then
          setPage p k page (fun g => { g with copied := true }) (extCopy e.tier e.frame (3 - e.tier) e.shadow r.blockFrames s)
        else s
      | none => s
    | none => s)

/-- The first requests of a list that a pick chooses. -/
def firstKeys (n : Nat) (pick : Request → Bool) (rs : List Request) : List Nat := ((rs.filter pick).take n).map reqKey

/-- Requests due to step or to prefill within the next 8 tides: of each graph, the first BATCH that decode and the first
that prefills (assumption log 42). -/
def dueKeys (x : Polder) : List Nat :=
  x.graphs.flatMap fun g => match servingOf g.2 with
    | some v =>
      firstKeys v.batch (fun r => r.handle = g.1 && r.state = .decode) x.requests ++
        firstKeys 1 (fun r => r.handle = g.1 && r.state = .prefill) x.requests
    | none => []

/-- Largest chunk of a graph in one tide: its window's, at least PREFILL_MIN. -/
def chunkLimit (g : Graph) (v : Serving) : Nat := min 2048 (max v.prefillMin (g.plan.windowNs / max g.plan.prefillNsPerToken 1))

/-- Page blocks that a request will allocate within the next 8 tides. -/
def alloc8 (x : Polder) (r : Request) : Nat :=
  let whole := pagesFor (r.desc.promptLen + r.desc.maxNew)
  let chunk := match tget x.graphs r.handle with
    | some g => match servingOf g with
      | some v => chunkLimit g v
      | none => 0
    | none => 0
  let ahead := if r.promptDone < r.desc.promptLen then pagesFor (r.promptDone + 8 * chunk) else pagesFor (computedOf r + 8)
  (min whole ahead - r.pages.length) * r.blockFrames

/-- Frames of some requests' blocks, each shared block once. -/
def framesOf (x : Polder) (pick : Request → Bool) : Nat :=
  ((polderPages { x with requests := x.requests.filter pick }).map (·.1)).sum

/-- The stepping set with one request more fits in HBM, with the allocations of the next 8 tides (R240). -/
def joinFits (s : State) (p : Nat) (x : Polder) (r : Request) : Bool :=
  let inSet (q : Request) : Bool := stepping q || reqKey q = reqKey r
  framesOf x inSet + ((x.requests.filter inSet).map (alloc8 x)).sum ≤ hbmShare s p x

/-- Every block of the request is in HBM; a spill still under way is abandoned if the request steps (R240, R244). -/
def residentReq (r : Request) : Bool := r.pages.all fun e => e.tier = 1 && (e.state = 0 || e.state = 3)

/-- Spilled blocks of a request, in ascending order. -/
def spilledPages (r : Request) : List Nat := (List.range r.pages.length).filter fun j => (r.pages[j]?).any (·.state = 1)

/-- Requests whose blocks are to be fetched back: they wait, and would fit. -/
def prefetchKeys (s : State) (p : Nat) (x : Polder) : List Nat :=
  (x.requests.filter fun r => r.state = .waiting && spilledPages r ≠ [] && joinFits s p x r).map reqKey

/-- Victims in order: the last step's tide ascending, those that never stepped first, equal ones by descending tag. -/
def insertVictim (r : Request) : List Request → List Request
  | [] => [r]
  | q :: t =>
    let age (a : Request) : Nat := (a.lastStepIx.map (· + 1)).getD 0
    if age r < age q || (age r = age q && tagBefore q.tag r.tag) then r :: q :: t else q :: insertVictim r t

def victims (x : Polder) (keep : List Nat) : List Request :=
  (x.requests.filter fun r => reserves r && reqKey r ∉ keep).foldl (fun acc r => insertVictim r acc) []

/-- The block may be spilled: in HBM and at rest, without LAST, and, when shared, read by victims alone. -/
def mayspill (s : State) (p : Nat) (vs : List Nat) (e : PageEntry) : Bool :=
  e.tier = 1 && e.state = 0 && !e.last &&
    (!e.shared || (s.work.pfx.filter (·.no = e.pfxRef)).all fun q => q.holders.all fun h => h.1 = p && h.2 ∈ vs)

/-- Take frames in a tier for the copy of a block; those of a block of a group bear its key. -/
def takeCopy (p t n : Nat) (e : PageEntry) (s : State) : Option (Nat × State) :=
  (takeRun p t n s).map fun q => match s.work.pfx.find? fun x => e.shared && x.no = e.pfxRef with
    | some x => (q.1, if x.key.1 = 1 then regroup p t x.key.2 ⟨q.1, n⟩ q.2 else q.2)
    | none => q

/-- Begin the copy of one block to the other tier, where a run of frames is free for it. -/
def beginCopy (p k j st t : Nat) (s : State) : State :=
  match getReq s p k with
  | some r => match (r.pages[j]?).bind fun e => takeCopy p t r.blockFrames e s with
    | some (f, s) => setPage p k j (fun e => { e with state := st, shadow := f, copied := false }) s
    | none => s
  | none => s

/-- Begin the spill of one block, and send its requests back to WAITING. -/
def beginSpill (p k j : Nat) (s : State) : State :=
  let s := beginCopy p k j 3 2 s
  match getReq s p k with
  | some r => if stepping r then setReq p { r with state := .waiting } s else s
  | none => s

/-- Spill blocks of victims in order until a shortfall is covered and while the spillway has room. -/
def spillBlocks (p : Nat) (vs : List Nat) : List (Nat × Nat) → Nat → State → State
  | [], _, s => s
  | (k, j) :: rest, short, s =>
    match short, getPolder s p, getReq s p k with
    | 0, _, _ => s
    | _, some x, some r =>
      match r.pages[j]? with
      | some e =>
        if mayspill s p vs e && kvSpilled s p x + r.blockFrames ≤ spillShare x && (findRun s p 2 r.blockFrames).isSome then
          spillBlocks p vs rest (short - r.blockFrames) (beginSpill p k j s)
        else spillBlocks p vs rest short s
      | none => spillBlocks p vs rest short s
    | _, _, _ => s

/-- Frames that spills under way will free. -/
def leavingFrames (x : Polder) : Nat := ((polderPages x).map fun q => if q.2.state = 3 then q.1 else 0).sum

/-- Begin the prefetch of a request's spilled blocks, once every frame for them is free. -/
def beginPrefetch (p k : Nat) (s : State) : State :=
  match getPolder s p, getReq s p k with
  | some x, some r =>
    let js := spilledPages r
    if hbmShare s p x < kvResident s p x + js.length * r.blockFrames || runCount s p 1 r.blockFrames < js.length then s
    else js.foldl (fun st j => beginCopy p k j 2 1 st) s
  | _, _ => s

/-- The spills and prefetches of one polder at an edge. -/
def balancePolder (p : Nat) (s : State) : State :=
  match getPolder s p with
  | none => s
  | some x =>
    let due := dueKeys x
    let fetch := prefetchKeys s p x
    let want := ((x.requests.filter fun r => reqKey r ∈ due).map (alloc8 x)).sum +
      ((x.requests.filter fun r => reqKey r ∈ fetch).map fun r => (spilledPages r).length * r.blockFrames).sum
    let share := hbmShare s p x
    let s := makeRoom share want p s.work.pfx.length s
    match getPolder s p with
    | none => s
    | some x =>
      let short := kvResident s p x + want - (share + leavingFrames x)
      let vs := victims x (due ++ fetch)
      let blocks := vs.flatMap fun r => (List.range r.pages.length).map fun j => (reqKey r, j)
      let s := spillBlocks p (vs.map reqKey) blocks short s
      fetch.foldl (fun st k => beginPrefetch p k st) s

/-! ## The schedule of a tide (R240, R260, R262, R263) -/

/-- Allocate so many page blocks more; LAST moves to the newest (R233). -/
def addBlocks (p k : Nat) : Nat → State → State
  | 0, s => s
  | n + 1, s =>
    match getReq s p k with
    | some r => match takeRun p 1 r.blockFrames s with
      | some (f, s) =>
        addBlocks p k n (setReq p { r with pages := r.pages.map (fun e => { e with last := false }) ++ [{ frame := f, last := true }] } s)
      | none => s
    | none => s

/-- Allocate page blocks up to a number of pages. -/
def allocate (p k pages : Nat) (s : State) : State :=
  addBlocks p k (pages - ((getReq s p k).map (·.pages.length)).getD 0) s

/-- Units of a budget that are left; none without a budget. -/
def levelOf (s : State) (p : Nat) : Option Nat := (getPolder s p).bind fun x => x.budget.map (·.level)

/-- The level covers a charge of so many tokens. -/
def covers (s : State) (p n : Nat) : Bool := (levelOf s p).all (4000 * n ≤ ·)

/-- Charge a launch: the level falls, and the request's charge grows. -/
def charge (p k n : Nat) (s : State) : State :=
  let s := modPolder s p fun x => { x with budget := x.budget.map fun b => { b with level := b.level - 4000 * n } }
  match getReq s p k with
  | some r => setReq p { r with charged := r.charged + n } s
  | none => s

/-- Page blocks of a request that can be allocated now. -/
def freeBlocks (s : State) (p : Nat) (r : Request) : Nat :=
  match getPolder s p with
  | some x => min ((hbmShare s p x - kvResident s p x) / max r.blockFrames 1) (runCount s p 1 r.blockFrames)
  | none => 0

/-- The request may step at this edge. -/
def maySchedule (s : State) (p : Nat) (r : Request) : Bool :=
  residentReq r && match getPolder s p with
    | some x => stepping r || joinFits s p x r
    | none => false

/-- The spill of one block is abandoned: the block is at rest, and its spillway frames return (R244). -/
def abandonSpill (p k n : Nat) (s : State) (j : Nat) : State :=
  match (getReq s p k).bind fun r => r.pages[j]? with
  | some e =>
    if e.state = 3 then
      setPage p k j (fun g => { g with state := 0, shadow := 0, copied := false }) (loosen 2 ⟨e.shadow, n⟩ s)
    else s
  | none => s

/-- Launch work of a request: its spills are abandoned, its pages allocated and its charge made. -/
def launchStep (p k : Nat) (w : StepWork) (positions tokens : Nat) (s : State) : State :=
  match getReq s p k with
  | some r =>
    let s := (List.range r.pages.length).foldl (abandonSpill p k r.blockFrames) s
    let s := charge p k tokens (allocate p k (pagesFor positions) s)
    match getReq s p k with
    | some r => setReq p { r with work := some w, stepDone := false, sampled := none, lastStepIx := some s.tide.ix,
                                  state := if w = .decode then .decode else .prefill } s
    | none => s
  | none => s

/-- Launch a decode step of a request if the batch, the level and HBM allow it. -/
def tryDecode (p batch : Nat) (acc : State × Nat) (k : Nat) : State × Nat :=
  match getReq acc.1 p k with
  | some r =>
    let pos := computedOf r + 1
    if acc.2 < batch && maySchedule acc.1 p r && covers acc.1 p 1 &&
        pagesFor pos ≤ r.pages.length + freeBlocks acc.1 p r then
      (launchStep p k .decode pos 1 acc.1, acc.2 + 1)
    else acc
  | none => acc

/-- The largest chunk of R263 that fits: its tokens, and whether it ends the prompt. -/
def chooseChunk (s : State) (p left : Nat) (r : Request) : Nat × Bool :=
  let rem := r.desc.promptLen - r.promptDone
  let room := 16 * (r.pages.length + freeBlocks s p r) - r.promptDone
  let cap := min (min 2048 left) room
  if rem ≤ cap && covers s p (rem + 1) then (rem, true)
  else
    let byLevel := (levelOf s p).map (· / 4000)
    let n := min cap (rem - 1)
    (16 * ((match byLevel with
      | some b => min n b
      | none => n) / 16), false)

/-- Launch a prefill chunk of a request; `left` counts the tokens that the tide's time still allows. -/
def tryPrefill (p : Nat) (acc : State × Nat) (k : Nat) : State × Nat :=
  match getReq acc.1 p k with
  | some r =>
    if !maySchedule acc.1 p r then acc
    else
      let (n, last) := chooseChunk acc.1 p acc.2 r
      if n = 0 then acc
      else (launchStep p k (.chunk n last) (r.promptDone + n) (n + bit last) acc.1, acc.2 - n)
  | none => acc

/-! ## Attention work of a tide (R235) -/

/-- The distribution of the attention work of the requests that launched in this tide, decode steps or chunks: pages(r)
counts the pages with VALID above 0 and those that the step writes. -/
def spreadOf (s : State) (p h : Nat) (g : Graph) (decoding : Bool) : List (AttnWork × Nat) :=
  let rs := ((getPolder s p).map fun x => x.requests.filter fun r =>
    r.handle = h && r.lastStepIx = some s.tide.ix && r.work.any fun w => decoding == decide (w = .decode)).getD []
  (distribute (rs.mapIdx fun i r => (i, r.pages.length)) (kvHeads g.img) g.plan.attnTiles).1

/-- Record the distribution of a graph's attention work of the tide that opens. -/
def recordSpread (p h : Nat) (s : State) : State :=
  match getGraph s p h with
  | some g => if isClassS s p then s else setGraph s p h { g with decodeWork := spreadOf s p h g true, prefillWork := spreadOf s p h g false }
  | none => s

/-! ## serve_edge -/

/-- serve_edge of one serving graph. -/
def serveGraph (p h : Nat) (s : State) : State :=
  match getGraph s p h, clsOf s p with
  | some g, some cls =>
    match servingOf g with
    | none => s
    | some v =>
      if cls = .S then s
      else
      let pending (s : State) : List Nat := ((getPolder s p).map fun x =>
        firstKeys x.requests.length (fun r => r.handle = h && !reserves r) x.requests).getD []
      let s := (pending s).foldl (fun st k =>
        if ((getPolder st p).map (activeCount · h)).getD 0 < v.active then admitRequest p k st else st) s
      if !mayLaunch s || !classLaunches s cls then s
      else
        let keys (s : State) (decoding : Bool) : List Nat := ((getPolder s p).map fun x =>
          firstKeys x.requests.length (fun r => r.handle = h && reserves r &&
            decoding == decide (r.desc.promptLen ≤ r.promptDone)) x.requests).getD []
        let (s, n) := (keys s true).foldl (tryDecode p v.batch) (s, 0)
        let left := max v.prefillMin
          ((g.plan.windowNs - (if n = 0 then 0 else g.plan.decodeNs)) / max g.plan.prefillNsPerToken 1)
        ((keys s false).foldl (tryPrefill p) (s, left)).1
  | _, _ => s

/-- The page table of a request in HBM says what its entries say (R231). -/
def syncTable (p : Nat) (s : State) (k : Nat) : State :=
  match getReq s p k with
  | some r =>
    let bs := r.pages.flatMap pageBytes
    if extentRead s 1 r.tableAt bs.length = bs then s else extentWrite 1 r.tableAt bs s
  | none => s

/-- The entries that the registry scratchpad caches: those of every request due to step within the next 8 tides (R231). -/
def dueTables (s : State) : List (Nat × Nat × List PageEntry) :=
  s.work.polders.flatMap fun q =>
    let due := dueKeys q.2
    (q.2.requests.filter fun r => reqKey r ∈ due).map fun r => (q.1, reqKey r, r.pages)

/-- The serving schedule of an edge: the tiers first, then every serving graph in descending order of handle; the page tables
last. -/
def serveEdge (s : State) : State :=
  let s := (polderNumbers s).foldl (fun st p =>
    let st := balancePolder p st
    let st := (((getPolder st p).map fun x => (x.graphs.map (·.1)).reverse).getD []).foldl
      (fun u h => recordSpread p h (serveGraph p h u)) st
    (reqKeys st p).foldl (syncTable p) st) s
  { s with work.tableCache := dueTables s }

/-! ## Meanings -/

def execRequestSubmit (h : Hdr) (handle variant deadline reqLen : Nat) (req : ReqDesc) (s : State) :
    Host.Outcome State Fault Refusal :=
  fetched (.requestSubmit h handle variant deadline reqLen req) h id s

def execRequestCancel (h : Hdr) (reqSeq : Word) (reqSluice : Nat) (s : State) : Host.Outcome State Fault Refusal :=
  fetched (.requestCancel h reqSeq reqSluice) h id s

end Sys2Proof.Machine
end

