-- ==== Sys2Proof/Machine/Quantum.lean ====
section
/-! DEFINITION. Machine/Quantum.lean: the end of a quantum with the work it did, what it writes and what its checks find, and the
edge band (R75, R81, R85, R132, R153 to R158, R167 to R170, R213, R229, R246, R254, R271, R348, R365). -/

namespace Sys2Proof.Machine

/-! ## Random bits (R154) -/

/-- The n-th 16-bit number of a generator: each block gives eight (which bits of which word: assumption log 4). -/
def draw16 (key : Word64) (n : Nat) : BitVec 16 :=
  let k := (key.toNat % 4294967296, key.toNat / 4294967296)
  let x := philox 10 (n / 8 % 4294967296, 0, 0, 0) k
  let w := [x.1, x.2.1, x.2.2.1, x.2.2.2].getD (n % 8 / 2) 0
  BitVec.ofNat 16 (w / 65536 ^ (n % 2))

/-- The random bits of the i-th output of a quantum, where it rounds stochastically. -/
def drawsFrom (stochastic : Bool) (key : Word64) (n i : Nat) : Option (BitVec 16) :=
  if stochastic then some (draw16 key (n + i)) else none

/-- The operator rounds stochastically. -/
def stochasticWork : QWork → Bool
  | .dot _ _ _ _ r _ => r
  | .conv _ _ _ _ _ _ _ _ _ _ r _ => r
  | .convert _ _ r => r
  | _ => false

/-! ## The array: windows, their residues, and the drain (R145 to R149, R153, R156) -/

/-- The windows that an operator leaves in the accumulator store, and the special values that stand for them. -/
def arrayWork : QWork → Option (List Window × List (Option Val))
  | .dot _ columns b shares _ _ =>
    some (dotWindows columns b shares, columns.map fun a => dotSpecial (matmulChunks a b).flatten)
  | .conv p _ y x input first columns _ _ shares _ _ =>
    some (convWindows p y x input first (columns.map (·.1)) shares,
      columns.mapIdx fun i c => dotSpecial (convChunks p y x (first + i) input c.1).flatten)
  | _ => none

/-- The entry of the accumulator store that an operator uses in each column. -/
def arrayEntry : QWork → Nat
  | .dot row _ _ _ _ _ => row % 1024
  | .conv _ _ y x _ _ _ _ _ _ _ _ => (8192 * y + x) % 1024
  | _ => 0

/-- Drain the values of an array operator and finish it. -/
def drainWork (draw : Nat → Option (BitVec 16)) (w : QWork) (vs : List Val) : OpOut :=
  match w with
  | .dot _ columns b _ _ format => drainRow draw (columns.all fun a => bothInts a.format b.format) format vs
  | .conv _ _ _ _ input _ columns activation ceiling _ _ format => convDrain input columns activation ceiling draw format vs
  | _ => noOut

/-- A fault of the arithmetic adds to one window. -/
def upsetWindows (u : Option (Nat × Int)) (ws : List Window) : List Window :=
  match u with
  | some (k, d) => ws.mapIdx fun i w => if i = k then { w with a := w.a + d } else w
  | none => ws

/-- Values of windows under the special values. -/
def windowVals (ws : List Window) (specials : List (Option Val)) : List Val :=
  (ws.zip specials).map fun q => q.2.getD (windowVal (some q.1))

/-! ## The vector unit -/

/-- The attention operators of an image, in order, each with the bits of an element of its keys and values. -/
def attnOps (img : Image) : List (AttnParams × Nat) :=
  img.operators.filterMap fun o => match o.kind with
    | .attention a => some (a, match (o.ins[1]?).bind (tensorOf img) with
      | some t => if formatBits (formatCode t.format) ≤ 8 then 8 else 16
      | none => 16)
    | _ => none

/-- An operator on the parameters of an image's attention operator. -/
def withAttn (img : Option Image) (op : Nat) (f : AttnParams → OpOut) : OpOut :=
  match (img.map attnOps).bind (·[op]?) with
  | some a => f a.1
  | none => noOut

/-- What an operator of the vector unit writes; `img` is the graph's image, `variant` the request's, and `input` what the quantum
read from SRAM. -/
def vectorOut (img : Option Image) (variant : Nat) (input : List Byte) (draw : Nat → Option (BitVec 16)) : QWork → OpOut
  | .crop count no oh ow mode ext h w n batch b i j channels map format =>
    cropOp (decide (no < count)) oh ow mode ext h w n batch b i j channels map format
  | .boxAnchor c boxes sy sx sh sw clamp clip declared =>
    anchorList (boxes.map fun q => (widenBox c q.1, widenBox c q.2)) sy sx sh sw clamp clip declared
  | .boxCentre c deltas gw priors gs clamp sigmoid clip declared =>
    centreList (deltas.map (widenBox c)) gw priors gs clamp sigmoid clip declared
  | .suppress count boxes c scores maxPer skip mode iouThr score sigma declared =>
    suppressOp (listRecords count boxes) (scores.map fun r => r.map (widenTo32 c)) maxPer skip mode iouThr score sigma declared
  | .attnBlock scores values => attnBlockOp scores values
  | .merge op layer head parts _ format =>
    withAttn img op fun a => mergeOp parts (a.vScale.getD (scaleIndex a layer head) 0) format
  | .score op layer head q k i j written => withAttn img op fun a => wordsOut [scoreOp a layer head q k i j written]
  | .weightTile _ _ _ _ scores maxima => weightTileOp scores maxima
  | .rowStats m lsum mBlk => rowStatsOp m lsum mBlk
  | .backward e mBlk m lsum => wordsOut [backwardOp e mBlk m lsum]
  | .experts shared routed selected => expertsOp variant shared routed selected
  | .compress format _ elems => bytesOut (compressBlock (formatCode format) elems) 0
  | .expand format _ _ => { bits := formatBits (formatCode format), codes := expandBlock (formatCode format) input }
  | .quantise format values => blocksOut format (values.map val32) 0
  | .convert format values _ => convertRow draw format values
  | .vector fn format a b c => let r := vectorLane fn format a b c; { bits := r.1, codes := [r.2] }
  | .row fn xs epsilon => wordsOut (rowOp fn xs epsilon)
  | .load _ _ _ => bytesOut input 0
  | .inner | .dot _ _ _ _ _ _ | .conv _ _ _ _ _ _ _ _ _ _ _ _ | .kvStore _ _ _ _ _ _ | .sample _ _ | .store _ _ _ _
  | .newState _ | .newExperts _ => noOut

/-- Results of the vector unit with the residues that they carry. -/
def lanesOf (o : OpOut) : List (Nat × Nat) := o.codes.map fun c => (c, residue c)

/-- A fault of the arithmetic adds to one result. -/
def upsetLanes (u : Option (Nat × Int)) (xs : List (Nat × Nat)) : List (Nat × Nat) :=
  match u with
  | some (k, d) => xs.mapIdx fun i x => if i = k then (((x.1 : Int) + d).toNat, x.2) else x
  | none => xs

/-- What an operator computes: its output, the windows and the lanes that it leaves, and whether every comparison of its residues
holds (R155, R156). -/
structure Computed where
  out : OpOut
  windows : List Window := []
  lanes : List (Nat × Nat) := []
  ok : Bool := true
deriving DecidableEq, Repr

/-- What an operator takes in from another tile carries its residues (R156, R239). -/
def arrivalsOk : QWork → Bool
  | .merge _ _ _ parts residues _ => partsOk parts residues
  | _ => true

/-- Compute an operator. -/
def computeWork (img : Option Image) (variant : Nat) (input : List Byte) (draw : Nat → Option (BitVec 16)) (u : Option (Nat × Int)) (w : QWork) :
    Computed :=
  match arrayWork w with
  | some (ws, specials) =>
    let ws := upsetWindows u ws
    { out := drainWork draw w (windowVals ws specials), windows := ws, ok := ws.all windowOk }
  | none =>
    let o := vectorOut img variant input draw w
    let xs := upsetLanes u (lanesOf o)
    { out := { o with codes := xs.map (·.1) }, lanes := xs, ok := arrivalsOk w && xs.all fun x => residue x.1 = x.2 }

/-! ## Whose work it is -/

/-- Polder of a quantum. -/
def ownerOf : WorkRef → Nat
  | .run p _ _ => p
  | .step p _ _ => p
  | .golden p _ _ => p

/-- Key of a request. -/
def stepKey (sluice : Nat) (seq : Word) : Nat := 4294967296 * sluice + seq.toNat

/-- Graph of a quantum. -/
def handleOf (s : State) : WorkRef → Option Nat
  | .run p r _ => (getRun s p r).map (·.handle)
  | .step p sl q => (getReq s p (stepKey sl q)).map (·.handle)
  | .golden _ h _ => some h

/-- Variant of a quantum's tokens (R270). -/
def variantOf (s : State) : WorkRef → Nat
  | .step p sl q => ((getReq s p (stepKey sl q)).map (·.variant)).getD 0
  | _ => 0

/-- The invocation of a quantum. -/
def invOf (s : State) : WorkRef → Option Invocation
  | .run p r no => (getRun s p r).bind fun y => y.invs.find? (·.no = no)
  | _ => none

/-- Channel of a quantum: that of its stack for Class S, 0 for Class Q and Class B. -/
def channelFor (s : State) (stack : Nat) : WorkRef → Nat
  | .run p _ _ => if isClassS s p then (channelOf s stack).getD 0 else 0
  | .step _ _ _ => 0
  | .golden _ _ c => c

/-! ## When a quantum runs (R39, R75, R81, R85, R350) -/

/-- Place of a quantum in the order of its tile's tide: Class S, Class Q by descending polder, the golden run, Class B by descending
polder. -/
def quantumRank (s : State) : WorkRef → Nat
  | .golden _ _ _ => 1500
  | w => match clsOf s (ownerOf w) with
    | some .S => 10000
    | some .Q => 2000 + ownerOf w
    | _ => ownerOf w

/-- The tile carries Class S work in front of the Q/B region. -/
def windowTile (s : State) (stack tile : Nat) : Bool := sIndex (placedOf s) tile && decide (stack ∈ channelStacks s)

/-- Cycles of every 16 in which a quantum issues: its tile's pace, and the ladder's rung for its class, the lower of the two (R370,
R377, R384). -/
def issueShare (s : State) (q : QuantumEnd) : Nat :=
  let rung := match clsOf s (ownerOf q.who) with
    | some .B => if 1 ≤ s.power.rung then 4 else 16
    | some .Q => if s.power.rung = 3 then (if s.power.rung3Tides < 4 then 8 else 4) else 16
    | _ => 16
  max 1 (min rung (getHotspot s (32 * q.stack + q.tile)).pace)

/-- When a quantum ends, in ns from the tide's edge: its cycles at the clock in force and its share of issue (R84, R358, R370). -/
def endNs (s : State) (q : QuantumEnd) : Nat :=
  match q.work with
  | .sample _ _ => q.startNs + q.cycles
  | _ => q.startNs + cyclesNs s.power.op ((16 * q.cycles + issueShare s q - 1) / issueShare s q)

/-- The quantum lies in the window of its class: Class S in W_S, the rest after it and before the edge band. -/
def inWindow (s : State) (q : QuantumEnd) : Bool :=
  let e := envNow s
  match q.who, clsOf s (ownerOf q.who) with
    | .run _ _ _, some .S => decide (endNs s q ≤ e.window)
    | _, _ => decide (endNs s q ≤ e.period - Config.edgeBandNs) && (!windowTile s q.stack q.tile || decide (e.window ≤ q.startNs))

/-- The quantum follows the last one of its tile in this tide, in time and in the order of the classes. -/
def inOrder (s : State) (q : QuantumEnd) : Bool :=
  match tget s.work.tileLast (32 * q.stack + q.tile) with
  | some (ix, ns, rank) => ix ≠ s.tide.ix || (decide (ns ≤ q.startNs) && decide (quantumRank s q.who ≤ rank))
  | none => true

/-- The owner has work in this tide: an invocation of Class Q in the first D of its tides, one of Class B, which may wait for a later
tide as Class Q may under rung 3 (R75, R350, R370), one of Class S on a channel
that has not sent its result, a serving step, or a golden run. -/
def quantumRuns (s : State) (stack : Nat) : WorkRef → Bool
  | .run p r no => (getRun s p r).any fun y => y.invs.any fun i => i.no = no && i.fail.isNone &&
      if isClassS s p then
        (channelOf s stack).any fun c => c ∈ liveChannels s && !sentResult s p r c &&
          (i.running || i.finished = some s.tide.ix)
      else i.running && (getGraph s p y.handle).any fun g => clsOf s p = some .B || s.power.rung = 3 || decide (s.tide.ix < i.launchIx + g.d)
  | .step p sl q => (getReq s p (stepKey sl q)).any (·.work.isSome)
  | .golden p h c => channelOf s stack = some c && decide (c ∈ liveChannels s) &&
      ((getGraph s p h).bind (·.golden)).any fun y => y.runningIx = some s.tide.ix && !y.digests.any (·.1 = c)

/-! ## On-stack SRAM and the other tiers (R165 to R170, R180) -/

/-- Lines of a tile that polders may hold: all but the module's 1 MiB (R72). -/
def tileLines : Nat := 1024 * Config.tileSramKiB / 64

/-- Address of a line of a tile. -/
def lineAddr (stack tile line : Nat) : Nat := sramBase (32 * stack + tile) + 64 * line

/-- Keep 64 bytes as they stand before the tide's first store to them (R158). -/
def saveLine (p a : Nat) (s : State) : State :=
  modPolder s p fun x =>
    if x.saved.any (·.line = a / 64) then x
    else { x with saved := x.saved ++ [⟨a / 64, tget s.mem.written (a / 64), readBytes s.mem.cells (64 * (a / 64)) 64⟩] }

/-- A store of a quantum into a line of its graph's working set: one that no other graph holds, with one grant of its bank
group's arbiter (R166 to R168). -/
def storeLine (p holder stack tile line offset : Nat) (bytes : List Byte) (s : State) : State :=
  let a := lineAddr stack tile line + offset
  if tileLines ≤ line || 64 ≤ offset || 4 ≤ stack || 32 ≤ tile then s
  else
    let put (s : State) : State := sramWrite holder a bytes (saveLine p a (grantLine (32 * stack + tile) line (.polder p) s))
    match tget s.mem.written (a / 64) with
    | some h => if h = holder || h = debugHolder then put s else s
    | none => put s

/-- A store of Class S goes to the same line of every channel's stack (R170). -/
def storeSram (p holder stack tile line offset : Nat) (bytes : List Byte) (s : State) : State :=
  let ks := if isClassS s p then channelStacks s else [stack]
  ks.foldl (fun st k => storeLine p holder k tile line offset bytes st) s

/-- The n-th frame of a list of extents. -/
def nthFrame : List Extent → Nat → Option Nat
  | [], _ => none
  | e :: r, n => if n < e.frames then some (e.base + n) else nthFrame r (n - e.frames)

/-- A store to a line of a graph's frames in HBM (1) or the spillway (2), encrypted under the page's tag (R180). -/
def storeFrame (p t : Nat) (es : List Extent) (line offset : Nat) (bytes : List Byte) (s : State) : State :=
  match nthFrame es (line / 64) with
  | some f =>
    let off := line % 64 * 64 + offset
    extWrite t f off (bytes.take (64 - offset)) (saveLine p (frameAddr t f + off) s)
  | none => s

/-- Tier in which a graph's plan keeps a tensor. -/
def tierOfTensor (g : Graph) (tensor : Nat) : Nat := ((g.plan.tiers.find? (·.1 = tensor)).map (·.2)).getD 0

/-- Something has been written to a tensor since the load (R92). -/
def touchTensor (p h tensor : Nat) (s : State) : State :=
  match getGraph s p h with
  | some g => if tensor ∈ g.touched then s else setGraph s p h { g with touched := g.touched ++ [tensor] }
  | none => s

/-- A store of a quantum to a tensor, in the tier where the plan puts it. A golden run has no effect outside itself (R348). -/
def storeWork (who : WorkRef) (stack tile tensor line offset : Nat) (bytes : List Byte) (s : State) : State :=
  match who, handleOf s who with
  | .golden _ _ _, _ => s
  | _, none => s
  | _, some h =>
    let p := ownerOf who
    match getGraph s p h with
    | none => s
    | some g =>
      let t := tierOfTensor g tensor
      let s := touchTensor p h tensor s
      if t = 0 then storeSram p (lineHolder p h) stack tile line offset bytes s
      else storeFrame p t (if t = 1 then g.plan.hbm else g.plan.spill) line offset bytes s

/-- Bytes that a quantum reads from its tile's lines on: those of its own graph; a line that it has not written reads zero (R167). -/
def readLines (s : State) (holder stack tile line offset n : Nat) : List Byte :=
  (List.range n).map fun i =>
    let a := lineAddr stack tile line + offset + i
    if (tget s.mem.written (a / 64)).any fun h => h = holder || h = debugHolder then sramRead s a else 0

/-- What an operator reads from on-stack SRAM. -/
def workInput (s : State) (q : QuantumEnd) : List Byte :=
  let holder := ((handleOf s q.who).map (lineHolder (ownerOf q.who))).getD 0
  match q.work with
  | .load line offset count => readLines s holder q.stack q.tile line offset count
  | .expand format line offset => readLines s holder q.stack q.tile line offset (slotBytes (formatCode format))
  | _ => []

/-- The grant that a read of a line takes (R166). -/
def grantRead (q : QuantumEnd) (s : State) : State :=
  match q.work with
  | .load line _ _ => grantLine (32 * q.stack + q.tile) line (.polder (ownerOf q.who)) s
  | .expand _ line _ => grantLine (32 * q.stack + q.tile) line (.polder (ownerOf q.who)) s
  | _ => s

/-- Put kept lines back as they stood. -/
def restoreLine (l : SavedLine) (s : State) : State :=
  let a := 64 * l.line
  if a < hbmBase then
    { s with mem.cells := writeBytes s.mem.cells a l.bytes
             mem.written := match l.holder with
               | some h => tset s.mem.written l.line h
               | none => tdel s.mem.written l.line }
  else
    let t := if a < spillBase then 1 else 2
    let b := a - (if t = 1 then hbmBase else spillBase)
    extWrite t (b / 4096) (b % 4096) l.bytes s

/-- The stores of a polder's tide do not stand (R158, R332). -/
def undoStores (p : Nat) (s : State) : State :=
  match getPolder s p with
  | some x => modPolder (x.saved.foldl (fun st l => restoreLine l st) s) p fun y => { y with saved := [] }
  | none => s

def undoAll (s : State) : State := (polderNumbers s).foldl (fun st p => undoStores p st) s

/-! ## Keys and values (R229, R230, R246) -/

/-- Bytes of the pages of one logical page of an attention operator. -/
def pagesBytes (a : AttnParams × Nat) : Nat := a.1.layers * a.1.hkv * 32 * a.1.dh * (a.2 / 8)

/-- Offset in its page block of the keys or values of a position, and the bits of an element; none outside the operator. -/
def kvOffset (img : Image) (op position layer head : Nat) (values : Bool) : Option (Nat × Nat) :=
  match (attnOps img)[op]? with
  | some a =>
    if layer < a.1.layers && head < a.1.hkv then
      let plane := 16 * a.1.dh * (a.2 / 8)
      some ((((attnOps img).take op).map pagesBytes).sum + (layer * a.1.hkv + head) * (2 * plane) +
        (if values then plane else 0) + position % 16 * a.1.dh * (a.2 / 8), a.2)
    else none
  | none => none

/-- Write bytes into a page block, which may run over the end of a frame. -/
def blockWrite (t frame off : Nat) (bs : List Byte) (s : State) : State :=
  let f := frame + off / 4096
  let n := 4096 - off % 4096
  let s := extWrite t f (off % 4096) (bs.take n) s
  if bs.length ≤ n then s else extWrite t (f + 1) 0 (bs.drop n) s

/-- The page of a Class S ring takes the keys or values of a position (R246). -/
def kvRingWrite (p h position off : Nat) (bs : List Byte) (s : State) : State :=
  match getGraph s p h with
  | some g =>
    let slot := position / 16 % max g.ring.size 1
    let old := (tget g.ring.blocks slot).getD []
    let new := old.take off ++ List.replicate (off - old.length) 0 ++ bs ++ old.drop (off + bs.length)
    if g.ring.size = 0 then s
    else setGraph s p h { g with ring := { g.ring with blocks := tset g.ring.blocks slot new,
                                                       new := max g.ring.new (position + 1 - g.ring.count) } }
  | none => s

/-- Keys or values of one position, into their page: of a request's own block in HBM, or of a Class S ring. -/
def kvWork (who : WorkRef) (op position layer head : Nat) (values : Bool) (elems : List Nat) (s : State) : State :=
  let p := ownerOf who
  match who, (handleOf s who).bind fun h => (getGraph s p h).map fun g => (h, g) with
  | .step _ sl q, some (_, g) => match getReq s p (stepKey sl q), kvOffset g.img op position layer head values with
    | some r, some (off, bits) => match r.pages[position / 16]? with
      | some e => if e.shared || e.tier ≠ 1 || r.work.isNone then s else blockWrite 1 e.frame off (packElems bits elems) s
      | none => s
    | _, _ => s
  | .run _ _ _, some (h, g) => match isClassS s p, kvOffset g.img op position layer head values with
    | true, some (off, bits) => kvRingWrite p h position off (packElems bits elems) s
    | _, _ => s
  | _, _ => s

/-! ## What a quantum writes into tensors (R138, R205, R213, R248) -/

/-- Element of its tensor from which an operator's output goes; none for a tile that is not stored. -/
def elementOf (q : QuantumEnd) : Option Nat :=
  match q.work with
  | .conv p n y x _ first _ _ _ _ _ _ => if convInside p n y x then some (convIndex p n y x first) else none
  | .crop _ no oh ow _ _ _ _ _ _ _ i j channels _ _ => some (((no * oh + i) * ow + j) * channels)
  | .compress format block _ => some (block * slotBytes (formatCode format))
  | .weightTile qi kj mask groups _ _ => if tileStored mask qi kj then some (tileOffset mask groups qi kj / 2) else none
  | _ => some q.element

/-- Element codes written over a tensor from an element on. -/
def putCodes (old : Option TensorData) (bits at_ : Nat) (codes : List Nat) : TensorData :=
  let es := match old with
    | some d => if d.bits = bits then d.codes else []
    | none => []
  { bits := bits, codes := es.take at_ ++ List.replicate (at_ - es.length) 0 ++ codes ++ es.drop (at_ + codes.length) }

/-- A tensor of an image that quanta write and that has room for so many elements from one on. -/
def tensorFor (img : Image) (tensor bits last : Nat) : Option Tensor :=
  (tensorOf img tensor).filter fun t => t.role ≠ .weight && t.role ≠ .input && t.role ≠ .kv && decide (last * bits ≤ 8 * t.bytes)

/-- The output of an operator goes into its tensor, and its block scales into the scale plane. -/
def putOutput (img : Image) (channel tensor at_ : Nat) (o : OpOut) (parts : Table TensorData) : Table TensorData :=
  match tensorFor img tensor o.bits (at_ + o.codes.length) with
  | none => parts
  | some t =>
    let parts := if o.codes = [] then parts
      else tset parts (partKey tensor channel) (putCodes (tget parts (partKey tensor channel)) o.bits at_ o.codes)
    match t.scale with
    | some k => if o.scales = [] then parts
      else tset parts (partKey k channel) (putCodes (tget parts (partKey k channel)) 8 (at_ / max (blockSize t.format) 1) o.scales)
    | none => parts

/-- The state and the experts that a training or recurrent invocation computes. -/
def keepNew (w : QWork) (i : Invocation) : Invocation :=
  match w with
  | .newState bs => { i with newState := some bs }
  | .newExperts bs => { i with newExperts := some bs }
  | _ => i

/-- A quantum of an invocation: its output goes into its tensor; the last one ends an invocation of Class Q or Class B, and the
last one of the tide ends its running in the tide. -/
def runQuantum (p r no : Nat) (isS : Bool) (last tideLast : Bool) (f : Table TensorData → Table TensorData) (w : QWork)
    (s : State) : State :=
  match getRun s p r with
  | some y =>
    let step (i : Invocation) : Invocation :=
      if i.no = no then
        let i := keepNew w { i with tensors := f i.tensors }
        if isS then i
        else { i with finished := if last then some s.tide.ix else i.finished, running := !last && !tideLast }
      else i
    setRun s p r { y with invs := y.invs.map step }
  | none => s

/-- A quantum of a channel's golden run; the last one gives its digest (R348). -/
def goldenQuantum (p h c : Nat) (last : Bool) (f : Table TensorData → Table TensorData) (s : State) : State :=
  let s := match getGraph s p h with
    | some g => setGraph s p h { g with golden := g.golden.map fun y => { y with parts := f y.parts } }
    | none => s
  if last then endGolden p h c s else s

/-- The tokens that a request's grammar state allows, and the state that a token leads to. -/
def grammarTokens (r : Request) : Option (List Nat) :=
  r.desc.grammar.map fun g => (g.states.getD r.gstate []).map (·.1)
def grammarNext (r : Request) (t : Nat) : Option Nat :=
  r.desc.grammar.bind fun g => ((g.states.getD r.gstate []).find? (·.1 = t)).map (·.2)

/-- A quantum of a serving step: the sampler chooses the token; the last quantum ends the step. -/
def stepQuantum (p key : Nat) (last : Bool) (work : QWork) (s : State) : State :=
  match getReq s p key with
  | some r =>
    if r.work.isNone then s
    else
      let r' := match work with
        | .sample format logits =>
          let vocab := (((getGraph s p r.handle).bind servingOf).map Serving.vocab).getD 0
          let t := sampleToken r.desc (grammarTokens r) (r.desc.prompt ++ r.tokens)
            ((logits.take vocab).map (widenTo32 (formatCode format))) (Config.freeWord s.fresh).toNat
          { r with sampled := some (t, grammarNext r t) }
        | _ => r
      setReq p { r' with stepDone := r.stepDone || last } { s with fresh := s.fresh + 1 }
  | none => s

/-- Count in the polder's ARITH_EXC. -/
def countExc (p n : Nat) (s : State) : State := modPolder s p fun x => { x with arithExc := sat32 (x.arithExc + n) }

/-! ## QUANTUM_END -/

/-- What the operator leaves in the units of its tile (R132): windows by entry and column, results in the lanes, and the random
numbers drawn. -/
def leaveUnits (q : QuantumEnd) (r : Computed) (s : State) : State :=
  let k := 32 * q.stack + q.tile
  let u := (tget s.mem.units k).getD {}
  let acc := (r.windows.mapIdx fun i w => (i, w)).foldl (fun t x => tset t (128 * arrayEntry q.work + x.1 % 128) x.2) u.acc
  let drawn := if stochasticWork q.work then u.drawn + r.out.codes.length else u.drawn
  { s with mem.units := tset s.mem.units k { acc := acc, lanes := r.lanes.take 512, drawn := drawn } }

/-- Key of an invocation's generator on every tile; other work never draws. -/
def keyOf (s : State) (who : WorkRef) : Word64 := Config.invocationKey (((invOf s who).map (·.key)).getD 0)

/-- Compute a quantum's operator on its tile. -/
def computeQuantum (s : State) (q : QuantumEnd) : Computed :=
  let n := ((tget s.mem.units (32 * q.stack + q.tile)).map (·.drawn)).getD 0
  computeWork (((handleOf s q.who).bind (getGraph s (ownerOf q.who))).map (·.img)) (variantOf s q.who) (workInput s q) (drawsFrom (stochasticWork q.work) (keyOf s q.who) n) q.upset q.work

/-- Run and invocation that a check failure names: a golden run and a serving step have none. -/
def checkNames : WorkRef → Nat × Nat
  | .run _ r no => (r, no)
  | .step _ _ _ => (64, 0)
  | .golden _ _ _ => (64, 0)

/-- A residue mismatch of the array (unit 0) or the vector unit (unit 1) is an arithmetic check failure (R158). -/
def checkQuantum (q : QuantumEnd) (r : Computed) (s : State) : State :=
  if r.ok then s
  else arithFailure (ownerOf q.who) (checkNames q.who).1 (checkNames q.who).2 q.stack q.tile (bit (arrayWork q.work).isNone) s

/-- What an operator does to memory. -/
def memoryWork (q : QuantumEnd) (s : State) : State :=
  match q.work with
  | .store tensor line offset bytes => storeWork q.who q.stack q.tile tensor line offset bytes s
  | .kvStore op position layer head values elems => kvWork q.who op position layer head values elems s
  | _ => s

/-- Where the output of a quantum goes. -/
def outputInto (s : State) (q : QuantumEnd) (o : OpOut) (parts : Table TensorData) : Table TensorData :=
  match (handleOf s q.who).bind (getGraph s (ownerOf q.who)), elementOf q with
  | some g, some at_ => putOutput g.img (channelFor s q.stack q.who) q.tensor at_ o parts
  | _, _ => parts

/-- The tensor that a quantum of a run writes has been written to (R92). -/
def touchOutput (q : QuantumEnd) (o : OpOut) (s : State) : State :=
  match q.who, handleOf s q.who with
  | .run p _ _, some h => if o.codes = [] then s else touchTensor p h q.tensor s
  | _, _ => s

/-- The effects of a quantum that ends. -/
def quantumEffect (q : QuantumEnd) (s : State) : State :=
  let r := computeQuantum s q
  let into := outputInto s q r.out
  let p := ownerOf q.who
  let s := countExc p r.out.exc (leaveUnits q r (grantRead q s))
  let s := touchOutput q r.out (memoryWork q s)
  let s := match q.who with
    | .run p n no => runQuantum p n no (isClassS s p) q.last q.tideLast into q.work s
    | .step p sl seq => stepQuantum p (stepKey sl seq) q.last q.work s
    | .golden p h c => goldenQuantum p h c q.last into s
  checkQuantum q r
    { s with work.tileLast := tset s.work.tileLast (32 * q.stack + q.tile) (s.tide.ix, endNs s q, quantumRank s q.who) }

/-- The sampling unit of a polder: that of IO0 for P0 to P31, of IO1 for P32 to P63 (R252). -/
def samplerIo (p : Nat) : Nat := p / 32

/-- The quantum ran where its work runs: sampling in its polder's sampling unit, the rest on a tile of a stack in service. -/
def placeOk (s : State) (q : QuantumEnd) : Bool :=
  match q.work with
  | .sample _ _ => q.stack = 4 && q.tile = samplerIo (ownerOf q.who)
  | _ => q.stack < 4 && q.tile < 32 && s.work.stackOk.getD q.stack false && !tileHalted s q.stack q.tile

/-- An operator of an image is of the kind that a test names. -/
def hasKind (img : Image) (f : OpKind → Bool) : Bool := img.operators.any fun o => f o.kind

/-- The image declares the operator with the parameters that the work uses (R203, R226, R247, R270); stochastic rounding, stored
weights and their row statistics belong to training images, whose rows split at every 1,024 keys (R154, R247). -/
def declares (img : Image) (w : QWork) : Bool :=
  (!stochasticWork w || img.training) &&
  match w with
  | .conv p _ _ _ _ _ _ _ _ _ _ _ => hasKind img (· = .conv p)
  | .crop _ _ oh ow mode ext _ _ _ _ _ _ _ _ _ _ => hasKind img fun
    | .crop _ a b m e => a = oh && b = ow && m = mode && e = ext
    | _ => false
  | .boxAnchor _ boxes sy sx sh sw clamp _ _ => hasKind img fun
    | .boxAnchor n a b c d e => boxes.length ≤ n && a = sy && b = sx && c = sh && d = sw && e = clamp
    | _ => false
  | .boxCentre _ _ gw priors gs clamp sigmoid _ _ => hasKind img fun
    | .boxCentre _ a n b c d => a = gw && n = priors.length && b = gs && c = clamp && d = sigmoid
    | _ => false
  | .suppress _ boxes _ scores maxPer skip mode iouThr score sigma _ => hasKind img fun
    | .suppress n k a b c d e f =>
      boxes.length ≤ n && scores.length = k && a = maxPer && b = skip && c = mode && d = iouThr && e = score && f = sigma
    | _ => false
  | .attnBlock scores _ => !img.training || scores.length ≤ 1024
  | .weightTile _ _ mask _ _ _ => img.training && hasKind img fun
    | .attention a => a.mask = mask
    | _ => false
  | .rowStats _ _ mBlk => img.training && mBlk.length ≤ 8
  | .backward _ _ _ _ => img.training
  | .newExperts _ => img.training
  | .experts _ _ _ => hasKind img (· = .experts)
  | _ => true

/-- The quantum can end here and now. -/
def quantumValid (s : State) (q : QuantumEnd) : Bool :=
  mainUp s && s.tide.running && !s.tide.inBand && !s.tide.discard && placeOk s q &&
    quantumRuns s q.stack q.who && inWindow s q && inOrder s q &&
    ((handleOf s q.who).bind (getGraph s (ownerOf q.who))).any fun g => declares g.img q.work

/-- QUANTUM_END: the quantum's effects; the sequencer launches the next quantum, or frees the tile for a slice where none is
due within 0.5 µs (`nextDueNs`; 0: none in this tide). No admitted quantum runs in the edge band, and one that does not lie in
the window and in the order of its class does not run. -/
def execQuantumEnd (q : QuantumEnd) (s : State) : Host.Outcome State Fault Refusal :=
  .next (
    if !quantumValid s q then s
    else
      let s := quantumEffect q s
      if q.nextDueNs = 0 || 500 < q.nextDueNs then startSlice q.stack q.tile s else s)

/-- After a forced drop, an invocation of Class Q or Class B whose quantum still runs at P − E misses its deadline (R365). -/
def stopQuanta (s : State) : State :=
  (polderNumbers s).foldl (fun st p =>
    if isClassS st p then st
    else modPolder st p (mapInvs (fun _ _ => true) fun i =>
      if i.running then { failInv .deadlineMissed .none true i with running := false } else i)) s

/-- EDGE_BAND: the band begins; after a forced drop in the tide, quanta still running are stopped, and a step that has not
ended is discarded at the edge. Every tile runs sandbag work and a slice through the band; which slice shows at its
end. -/
def execEdgeBand (s : State) : Host.Outcome State Fault Refusal :=
  .next (
    if !mainUp s || !s.tide.running || s.tide.inBand then s
    else
      let s := { s with tide.inBand := true }
      if s.power.forcedIx = some s.tide.ix then stopQuanta s else s)

end Sys2Proof.Machine
end

