-- ==== Sys2Proof/Machine/Conceal.lean ====
section
/-! DEFINITION. Machine/Conceal.lean: pictures as samples: 64 x 64 units, the conversion of camera frames, and the concealment
of damaged units (R281, R282, R300 to R302). -/

namespace Sys2Proof.Machine

/-! ## Units of a picture (R281, R302) -/

/-- Bytes of one sample. -/
def sampleBytes (c : Session) : Nat := c.profile + 1

/-- Byte ranges (offset, length) of the luma rows of a unit, and of its CbCr rows. -/
def lumaRows (c : Session) (i : Nat) : List (Nat × Nat) :=
  let y := 64 * (i / max (ctuW c) 1)
  let x := 64 * (i % max (ctuW c) 1)
  (List.range (min 64 (c.height - y))).map fun r =>
    ((y + r) * codecPitch c + x * sampleBytes c, min 64 (c.width - x) * sampleBytes c)

def chromaRows (c : Session) (i : Nat) : List (Nat × Nat) :=
  let y := 32 * (i / max (ctuW c) 1)
  let x := 64 * (i % max (ctuW c) 1)
  (List.range (min 32 (c.height / 2 - y))).map fun r =>
    ((c.height + y + r) * codecPitch c + x * sampleBytes c, min 64 (c.width - x) * sampleBytes c)

/-- Write bytes into a picture. -/
def splice (off : Nat) (bs l : List Byte) : List Byte := l.take off ++ bs ++ l.drop (off + bs.length)

/-- Samples of a byte range: 8-bit, or 10-bit in bits [15:6] of a word. -/
def samplesAt (c : Session) (l : List Byte) (r : Nat × Nat) : List Nat :=
  let bs := ((l.drop r.1).take r.2).map (·.toNat)
  if c.profile = 0 then bs
  else (List.range (r.2 / 2)).map fun k => (bs.getD (2 * k) 0 + 256 * bs.getD (2 * k + 1) 0) / 64

def sampleCode (c : Session) (v : Nat) : List Byte := if c.profile = 0 then le 1 v else le 2 (64 * v)

/-- Every second element of a list, from the first or the second on. -/
def everySecond {α : Type} (odd : Bool) (l : List α) : List α :=
  (l.zip (List.range l.length)).filterMap fun x => if x.2 % 2 = bit odd then some x.1 else none

/-! ## Concealment (R301) -/

/-- The mean of samples; which whole number a mean between two takes is free (assumption log 73). -/
def meanOf (grey : Nat) (xs : List Nat) : Nat :=
  if xs = [] then grey
  else
    let q := xs.sum / xs.length
    if xs.sum % xs.length = 0 then q else q + bit (Config.meanUp xs.sum xs.length)

def midGrey (c : Session) : Nat := if c.profile = 0 then 128 else 512

/-- A damaged unit takes the co-located unit of a reference. -/
def copyUnit (c : Session) (ref : List Byte) (i : Nat) (l : List Byte) : List Byte :=
  (lumaRows c i ++ chromaRows c i).foldl (fun l r => splice r.1 ((ref.drop r.1).take r.2) l) l

/-- A damaged unit takes DC values: in each plane the mean of the last correctly decoded unit before it, or mid-grey. -/
def dcUnit (c : Session) (good : Option Nat) (i : Nat) (l : List Byte) : List Byte :=
  let rows (f : Session → Nat → List (Nat × Nat)) : List Nat := match good with
    | some k => (f c k).flatMap (samplesAt c l)
    | none => []
  let y := meanOf (midGrey c) (rows lumaRows)
  let u := meanOf (midGrey c) (everySecond false (rows chromaRows))
  let v := meanOf (midGrey c) (everySecond true (rows chromaRows))
  let fill (bs : List Byte) (l : List Byte) (r : Nat × Nat) : List Byte :=
    splice r.1 ((List.replicate (r.2 / bs.length) bs).flatten.take r.2) l
  (chromaRows c i).foldl (fill (sampleCode c u ++ sampleCode c v)) ((lumaRows c i).foldl (fill (sampleCode c y)) l)

/-- Distance of a reference from a picture in output order. -/
def refDistance (order : Int) (r : RefPicture) : Nat := (r.order - order).natAbs

/-- The nearest reference; on a tie the later picture. -/
def nearestRef (order : Int) : List RefPicture → Option RefPicture
  | [] => none
  | r :: t => match nearestRef order t with
    | some b =>
      if refDistance order b < refDistance order r || (refDistance order b = refDistance order r && r.order < b.order) then some b
      else some r
    | none => some r

/-- The units that the decoder lost of a picture of n units (R300). -/
def lostUnits (n : Nat) : DecodeError → List Nat
  | .header a b | .syntaxElement a b | .sliceOrder a b => List.range' a (b - a)
  | .picture => List.range n
  | .memory us => us

/-- A region of a reference is concealed or tainted; a missing reference is a mid-grey picture, which is no better (R300, R302). -/
def taintedRead (refs : List RefPicture) (r : Nat × Nat) : Bool :=
  match refs.find? (·.no = r.1) with
  | some x => x.map.getD r.2 0 ≠ 0
  | none => true

/-- How a unit comes out. -/
def unitMark (refs : List RefPicture) (n : Nat) (d : DecodedIn) (i : Nat) : UnitMark :=
  if d.errors.any fun e => (lostUnits n e).contains i then .damaged
  else if (d.reads.getD i []).any (taintedRead refs) then .tainted
  else .decoded

/-- A picture while its units are gone through in raster order: its samples, its map, and the last unit decoded correctly. -/
structure Filling where
  planes : List Byte
  map : List Nat
  good : Option Nat
deriving DecidableEq, Repr

/-- One unit: decoded, concealed by copy (1) or by DC (2), or tainted (3). -/
def fillUnit (c : Session) (ref : Option RefPicture) (x : Filling) (m : UnitMark) (i : Nat) : Filling :=
  match m with
  | .decoded => { x with map := x.map ++ [0], good := some i }
  | .tainted => { x with map := x.map ++ [3] }
  | .damaged => match ref with
    | some r => { x with planes := copyUnit c r.planes i x.planes, map := x.map ++ [1] }
    | none => { x with planes := dcUnit c x.good i x.planes, map := x.map ++ [2] }

/-- A decoded picture with its damaged units concealed, and its map. -/
def conceal (c : Session) (d : DecodedIn) : Filling :=
  let refs := c.refs.filter fun r => r.no ∈ d.refs
  let ref := if d.inter then nearestRef d.order refs else none
  (List.range (ctuCount c)).foldl (fun x i => fillUnit c ref x (unitMark refs (ctuCount c) d i) i) ⟨padTo (rawBytes c) d.planes, [], none⟩

/-- The concealment map: 2 bits a unit, in raster order. -/
def mapBytes (map : List Nat) : List Byte := packElems 2 map

/-! ## Camera frames (R282) -/

/-- Two chroma rows averaged, rounding half up. -/
def averageRows (a b : List Nat) : List Nat := (a.zip b).map fun x => (x.1 + x.2 + 1) / 2

/-- The picture that the encoder takes from a camera frame: YUV422 (0x1E) comes with a chroma row for every luma row, and
adjacent ones are averaged (assumption log 73). -/
def cameraPicture (c : Session) (d : Datum) : List Byte :=
  if d.dataType ≠ 0x1E then d.payload
  else
    let row (r : Nat) : Nat × Nat := ((c.height + r) * codecPitch c, codecPitch c)
    d.payload.take (c.height * codecPitch c) ++ (List.range (c.height / 2)).flatMap fun r =>
      (averageRows (samplesAt c d.payload (row (2 * r))) (samplesAt c d.payload (row (2 * r + 1)))).flatMap (sampleCode c)

end Sys2Proof.Machine
end

