-- ==== Sys2Proof/Machine/Codec.lean ====
section
/-! DEFINITION. Machine/Codec.lean: codec sessions, the pictures that the engine codes one at a time, rate control, output
records and what meets a picture (R279 to R305). Codec times are in tenths of a nanosecond. -/

namespace Sys2Proof.Machine

def getSession (s : State) (n : Nat) : Option Session := tget s.codec.sessions n
def setSession (n : Nat) (c : Session) (s : State) : State := { s with codec.sessions := tset s.codec.sessions n c }

/-! ## Admission (R292) -/

/-- P − E, and C, 90% of it, for a period. -/
def codecSpan (e : Env) : Nat := 10 * (e.period - Config.edgeBandNs)
def codecWindow (e : Env) : Nat := 9 * codecSpan e / 10

/-! ## CODEC_SESSION_OPEN (R279, R283, R284, R286, R292) -/

/-- The configuration block and the parameters are inside R279 and their ranges. -/
def codecRange (kind profile width height interval : Nat) (k : CodecCfg) : Bool :=
  let r (lo hi v : Nat) : Bool := lo ≤ v && v ≤ hi
  let w := (width + 63) / 64
  let n := w * ((height + 63) / 64)
  kind ≤ 2 && profile ≤ 1 && k.lowLatency ≤ 1 && (kind ≠ 2 || profile = 0) && r 64 8192 width && width % 8 = 0 && r 64 4352 height &&
    height % 8 = 0 && 1 ≤ interval && interval ≤ 65535 && k.source ≤ 2 && k.sink ≤ 1 && (k.sink = 0 || kind ≠ 0) &&
    (k.source = 0 || k.sink = 1 || (r 4096 1073741824 k.ringLen && k.ringLen % 16 = 0 && k.ringAddr.toNat % 16 = 0)) &&
    if kind = 0 then
      k.layout ≤ 1 && (k.layout = 0 || 16 ≤ w) && (if k.layout = 0 then r 1 8 k.split else r 1 68 k.split) && r 1 4 k.refs &&
        k.structure_ ≤ 2 && k.rcMode ≤ 1 && k.qpMin ≤ k.qpMax && k.qpMax ≤ 51 && r k.qpMin k.qpMax k.qpI &&
        r k.qpMin k.qpMax k.qpP && k.intraPeriod ≤ 65535 && r 1000 240000 k.frameRate && r 100 800000 k.bitrate &&
        8 * max (width * height / 16) (69632 + 4 * n) ≤ k.vbv && r (max (width * height / 16) (69632 + 4 * n)) 67108864 k.maxPicBytes
    else (k.layout = 1 || k.layout = 2 || k.layout = 4 || k.layout = 8) && r 1048576 67108864 k.maxPicBytes

/-- A session as it opens: its output counter is zero, and its first picture an IDR. -/
def newSession (p kind profile width height interval : Nat) (k : CodecCfg) : Session :=
  { polder := p, kind := kind, profile := profile, width := width, height := height, interval := interval, cfg := k }

/-- The output port that a SOURCE 2 session reads: an INT8 or INT16 output tensor of exactly the picture's bytes (R284). -/
def graphSource (s : State) (c : Session) : Bool :=
  match getGraph s c.polder c.cfg.graphHandle with
  | some g => match (g.img.outPorts.find? (·.port = c.cfg.graphPort)).bind fun o => tensorOf g.img o.tensor with
    | some t => t.role = .output && t.format = (if c.profile = 0 then 1 else 2) && t.bytes = rawBytes c
    | none => false
  | none => false

/-- CODEC_SESSION_OPEN at its edge: the checks in order, then the decision. -/
def applyCodecOpen (c : Instr) (h : Hdr) (kind profile width height interval : Nat) (k : CodecCfg) (s : State) : State :=
  let p := polderOf h
  if isClassS s p then finish h .notPermitted .wrongFunction [] s
  else if s.tide.change.isSome then finish h .notPermitted .busyAdmitted [] s
  else if activationBlocks s then finish h .notPermitted .none [] s
  else if k.fault then finish h .badParam .bufferFault [] s
  else if !codecRange kind profile width height interval k ||
      (k.source = 2 && !graphSource s (newSession p kind profile width height interval k)) then
    finish h .badParam .fieldRange [] s
  else if 64 ≤ s.codec.sessions.length then finish h .quota .none [] s
  else awaitDecision c s

/-- Class Q sessions that are open, with one more. -/
def sessionsQ (s : State) (c : Session) : List Session :=
  (s.codec.sessions.map (·.2)).filter (fun x => clsOf s x.polder = some .Q) ++ [c]

/-- Sum of c / I over sessions, as a fraction. -/
def loadSum (cs : List Session) : Nat × Nat :=
  cs.foldl (fun a c => (a.1 * c.interval + pictureCost c * a.2, a.2 * c.interval)) (0, 1)

/-- The tests of R292 on a session with buffers; too few of them: the module finds no memory. -/
def codecFault (s : State) (x : Polder) (c : Session) : Option (Status × Reason) :=
  let e := envNow s
  let w := codecWindow e
  let qs := sessionsQ s c
  let top := qs.foldl (fun m q => max m (pictureCost q)) 0
  let sum := loadSum qs
  let with' : State := { s with codec.sessions := s.codec.sessions ++ [(64, c)] }
  if w < pictureCost c then some (.overrunRisk, .singleQuantum)
  else if 65536 * x.hbmQuota < hbmUse with' c.polder x + kvTables x +
      (kvReserved s c.polder x - (262144 * x.spillQuota - spillUse x)) then some (.quota, .hbmQuota)
  else if frameSum c.buffers < frames4K (sessionBytes c) then some (.noFit, .memorySpace)
  else if x.cls ≠ .Q then none
  else if w < top || (w - top) * sum.2 < sum.1 then some (.overrunRisk, .qbWindow)
  else (bandwidthCheck with' e (placedOf s)).map fun r => (.overrunRisk, r.1)

/-- The places that the module tries for a session's buffers: those that a plan proposes, each DRAM stack, and all of HBM
(assumption log 73). -/
def bufferPlaces (s : State) (p n : Nat) (plans : List Plan) : List (List Extent) :=
  (plans.map (·.hbm)).filter (fun es => es.all (extentFree s p 1) && apartAll es && frameSum es = n) ++
    (List.range 8).map (fun d => gather n (freeIvs s p 1 (6291456 * d) (6291456 * (d + 1)))) ++
    [gather n (freeIvs s p 1 0 (tierFrames 1))]

/-- The session with the first buffers that pass every test, else what the first ones that are large enough break. -/
def placeSession (s : State) (x : Polder) (y : Session) (plans : List Plan) : Session ⊕ (Status × Reason) :=
  let tries := (bufferPlaces s y.polder (frames4K (sessionBytes y)) plans).map fun es => { y with buffers := es }
  match tries.find? fun c => (codecFault s x c).isNone with
  | some c => .inl c
  | none =>
    let full := tries.find? fun c => frames4K (sessionBytes y) ≤ frameSum c.buffers
    .inr ((codecFault s x (full.getD y)).getD (.noFit, .memorySpace))

/-- Open a session under the lowest free number. -/
def openSession (c : Instr) (y : Session) (s : State) : State :=
  match tfree s.codec.sessions 64 0 with
  | some n => finishCmd c .ok .none (le 1 n) (claimAll y.polder 1 y.buffers (setSession n y s))
  | none => finishCmd c .quota .none [] s

/-- Decide a CODEC_SESSION_OPEN. None while the decision must wait for memory that is being scrubbed (R74). -/
def decideCodec (c : Instr) (h : Hdr) (kind profile width height interval : Nat) (k : CodecCfg) (plans : List Plan)
    (s : State) : Option State :=
  match getPolder s (polderOf h) with
  | none => some (finishCmd c .polderReset .none [] s)
  | some x =>
    let y := newSession (polderOf h) kind profile width height interval k
    if s.tide.change.isSome then some (finishCmd c .notPermitted .busyAdmitted [] s)
    else if 64 ≤ s.codec.sessions.length then some (finishCmd c .quota .none [] s)
    else match placeSession s x y plans, placeSession (afterScrubs s) x y plans with
      | .inl y, _ => some (openSession c y s)
      | .inr _, .inl _ => none
      | .inr r, .inr _ => some (finishCmd c r.1 r.2 [] s)

/-! ## Rate control (R293, R294) -/

/-- floor(log2(a / b)) of two positive numbers. -/
def floorLogRatio (a b : Nat) : Int :=
  if b ≤ a then Nat.log2 (a / b)
  else
    let k := Nat.log2 (b / max a 1)
    if b ≤ a * 2 ^ k then -(k : Int) else -((k : Int) + 1)

/-- round(6 x log2(a / b)): the n with 2^(2n−1) at most (a / b)^12 and below 2^(2n+1). -/
def sixLog2 (a b : Nat) : Int :=
  if a = 0 then -1000 else if b = 0 then 1000 else (floorLogRatio (a ^ 12) (b ^ 12) + 1) / 2

def clampQp (k : CodecCfg) (q : Int) : Nat := (max (k.qpMin : Int) (min (k.qpMax : Int) q)).toNat

/-- Bits per picture. -/
def bitsPerPicture (k : CodecCfg) : Nat := k.bitrate * 1000000 / max k.frameRate 1

/-- The picture will be an IDR, or intra. -/
def nextIdr (c : Session) : Bool := c.forceIdr || (c.cfg.intraPeriod ≠ 0 && c.cfg.intraPeriod ≤ c.sinceIdr)
def nextIntra (c : Session) : Bool := nextIdr c || c.cfg.structure_ = 2

def rateOf (c : Session) (intra : Bool) : RateType := if intra then c.intra else c.inter

/-- picture_start: the target, the hard limit and the starting QP. A constant QP is QP_I for an IRAP picture and QP_P for any
other (R293). -/
def rateStart (c : Session) (idr intra : Bool) : Nat × Nat × Nat :=
  let bpp := bitsPerPicture c.cfg
  let limit := min (8 * c.cfg.maxPicBytes) (c.cfg.vbv + bpp - c.vbvD)
  let target := min (bpp * (if intra then 4 else 1)) limit
  let start := if intra then c.cfg.qpI else c.cfg.qpP
  let x := rateOf c intra
  let qp := if c.cfg.rcMode = 1 then (if idr then c.cfg.qpI else c.cfg.qpP)
    else match x.qp0, x.last with
      | some q, some (bits, t) => clampQp c.cfg ((q : Int) + sixLog2 bits t)
      | _, _ => start
  (target, limit, qp)

/-- row_start's step from e = (bits − tgt) / T: the numerator of e over T. -/
def rowStep (num : Int) (t : Nat) : Int :=
  if 15 * (t : Int) < 100 * num then 3
  else if 8 * (t : Int) < 100 * num then 2
  else if 3 * (t : Int) < 100 * num then 1
  else if 100 * num < -(15 * (t : Int)) then -3
  else if 100 * num < -(8 * (t : Int)) then -2
  else if 100 * num < -(3 * (t : Int)) then -1
  else 0

/-- The bits that the target allows in rows 0 to k: in the proportion of the previous picture of the type, uniform for the
first. -/
def targetTo (cx : List Nat) (n t k : Nat) : Nat :=
  if cx.sum = 0 then t * (k + 1) / max n 1 else t * (cx.take (k + 1)).sum / cx.sum

/-- Widths of the tile columns, spaced uniformly (R288). -/
def columnWidth (c : Session) (i : Nat) : Nat :=
  let n := max (min 8 (ctuW c)) 1
  (i + 1) * ctuW c / n - i * ctuW c / n
def widestColumn (c : Session) : Nat := (List.range (min 8 (ctuW c))).foldl (fun m i => max m (columnWidth c i)) 0

/-- When a core begins a CTU row, in units of t_e from the end of T_SW: tile column `col`, or the wavefront's row (R288). -/
def rowStart (c : Session) (col r : Nat) : Nat :=
  if c.cfg.layout = 0 then r * columnWidth c col else r / 8 * ctuW c + r % 8 * 2

/-- When every core has finished a CTU row (R288, R294). -/
def rowEnd (c : Session) (r : Nat) : Nat := if c.cfg.layout = 0 then (r + 1) * widestColumn c else rowStart c 0 r + ctuW c

/-- CTU rows that are complete when a core begins a row; rows complete in ascending order (R294). -/
def rowsDone (c : Session) (col r : Nat) : Nat :=
  ((List.range (ctuH c)).takeWhile fun k => rowEnd c k ≤ rowStart c col r).length

/-- row_start: the QP of a row that a core begins, from the bits of the rows by then complete (R294). -/
def rowQp (c : Session) (q : Picture) (col r : Nat) : Nat :=
  let x := rateOf c q.intra
  let start := (rateStart c q.idr q.intra).2.2
  let done := rowsDone c col r
  if c.cfg.rcMode = 1 || done = 0 then start
  else
    let num : Int := (((q.rows.take done).sum : Nat) : Int) - (targetTo x.cx (ctuH c) q.target (done - 1) : Nat)
    clampQp c.cfg ((start : Int) + rowStep num q.target)

/-- Tile column of a slice, and the row that its core begins after it: tiles come band by band, wavefront slices every SLICE_ROWS
rows (R288). -/
def nextRow (c : Session) (index : Nat) : Nat × Nat :=
  let n := max (min 8 (ctuW c)) 1
  if c.cfg.layout = 0 then (index % n, (index / n + 1) * ctuH c / max c.cfg.split 1) else (0, (index + 1) * c.cfg.split)

/-- picture_end: the buffer, and what the next picture of the type starts from. -/
def rateEnd (c : Session) (q : Picture) : Session :=
  let bits := 8 * q.codedBytes
  let x : RateType := { qp0 := some (rateStart c q.idr q.intra).2.2, last := some (bits, q.target), cx := q.rows }
  let c := { c with vbvD := c.vbvD + bits - bitsPerPicture c.cfg }
  if q.intra then { c with intra := x } else { c with inter := x }

/-! ## Output records (R297, R298) -/

/-- The records of a session go to its ring. -/
def toRing (c : Session) : Bool := c.cfg.source ≠ 0 && c.cfg.sink = 0

/-- A record's tag: the tide in which the picture is coded, rank 6, the session, and the next SEQ. -/
def recordTag (count module_ n : Nat) (seq : Word) : Tag :=
  { epoch := epochOf count, tn := tnOf count, rank := 6, srcMod := module_, srcLocal := n, seq := seq }

/-- A record: its 32-byte header and its payload, padded to a multiple of 16 bytes. -/
def recordBytes (tag : List Byte) (type flags index picture arg : Nat) (payload : List Byte) : List Byte :=
  tag ++ le 1 type ++ le 1 flags ++ le 2 index ++ le 4 picture ++ le 4 payload.length ++ le 4 arg ++
    padTo ((payload.length + 15) / 16 * 16) payload

def polderFn (s : State) (c : Session) (cmd : Option Instr) : Fn :=
  match cmd.bind hdrOf with
  | some h => h.fn
  | none => if (getPolder s c.polder).isSome then .vf c.polder else .pf0

/-- Write bytes into the ring at WRITTEN, a PAD record first where they would cross its end, and then update WRITTEN. -/
def ringWrite (n : Nat) (c : Session) (bs : List Byte) (s : State) : State :=
  let size := c.cfg.ringLen - 64
  let off := c.written % max size 1
  let fn := polderFn s c none
  let at' (o : Nat) : Word64 := c.cfg.ringAddr + BitVec.ofNat 64 (64 + o)
  let room := size - off
  let s := if room < bs.length then
      hostWrite fn (at' off) (padTo room (recordBytes (List.replicate 16 0) 3 0 0 0 0 (List.replicate (room - 32) 0))) s
    else s
  let start := if room < bs.length then c.written + room else c.written
  let s := hostWrite fn (at' (start % max size 1)) bs s
  let w := start + bs.length
  setSession n { c with written := w } (hostWrite fn c.cfg.ringAddr (le 8 w) s)

/-- Write one record of a picture; `count` is the tide in which the picture is coded. -/
def emitRecord (n count type flags index arg : Nat) (payload : List Byte) (q : Picture) (s : State) : State × Picture :=
  match getSession s n with
  | none => (s, q)
  | some c =>
    let tag := tagBytes (recordTag count (s.flash.index.getD 0) n c.recordSeq)
    let bs := recordBytes tag type flags index c.pictureNo arg payload
    let c := { c with recordSeq := c.recordSeq + 1 }
    if toRing c then (ringWrite n c bs (setSession n c s), q)
    else
      let base : Word64 := match q.cmd with
        | some (.codecPicture _ _ _ _ out _) => out
        | _ => 0
      (hostWrite (polderFn s c q.cmd) (base + BitVec.ofNat 64 q.outOff) bs (setSession n c s),
        { q with outOff := q.outOff + bs.length })

/-- FLAGS of a SLICE record. -/
def sliceFlags (c : Session) (q : Picture) (index : Nat) : Nat :=
  bit (decide (index = 0)) + 2 * bit (decide (index + 1 = sliceCount c)) + 4 * bit q.idr

/-- Write the SLICE records that are complete, in bitstream order. -/
def emitSlices (n count : Nat) : Nat → State × Picture → State × Picture
  | 0, x => x
  | f + 1, (s, q) =>
    match getSession s n, q.slices.find? (·.1 = q.emitted) with
    | some c, some sl =>
      let (s, q) := emitRecord n count 0 (sliceFlags c q q.emitted) q.emitted 0 sl.2 q s
      emitSlices n count f (s, { q with emitted := q.emitted + 1 })
    | _, _ => (s, q)

/-- Write an ABANDON record, whose ARG names the picture's first SEQ (R304). -/
def withdraw (n count : Nat) (q : Picture) (s : State) : State :=
  (emitRecord n count 2 0 0 q.firstSeq.toNat [] q s).1

/-- Write an ABANDON record if any SLICE record of the picture has left (R304, R305). -/
def abandon (n count : Nat) (q : Picture) (s : State) : State := if q.emitted = 0 then s else withdraw n count q s

/-- COMMITTED takes the value of WRITTEN. -/
def commitRing (n : Nat) (s : State) : State :=
  match getSession s n with
  | some c =>
    if toRing c then
      setSession n { c with committed := c.written }
        (hostWrite (polderFn s c none) (c.cfg.ringAddr + 8) (le 8 c.written) s)
    else s
  | none => s

/-! ## The engine (R290, R291) -/

def deadlineOf (s : State) (q : Picture) : Nat := q.visibleIx + ((getSession s q.session).map (·.interval)).getD 0

def isQPicture (s : State) (q : Picture) : Bool := ((getSession s q.session).bind fun c => clsOf s c.polder) = some .Q

/-- The order of the engine: Class Q by deadline, then Class B; equal ones by their tags. -/
def pictureBefore (s : State) (a b : Picture) : Bool :=
  if isQPicture s a ≠ isQPicture s b then isQPicture s a
  else if isQPicture s a && deadlineOf s a ≠ deadlineOf s b then deadlineOf s a < deadlineOf s b
  else tagBefore a.tag b.tag

def insertPicture (s : State) (q : Picture) : List Picture → List Picture
  | [] => [q]
  | x :: r => if pictureBefore s q x then q :: x :: r else x :: insertPicture s q r

/-- Visible pictures that have not started, in order. -/
def readyPictures (s : State) : List Picture :=
  (s.codec.queue.filter fun q => !q.started && q.visibleIx ≤ s.tide.ix).foldl (fun acc q => insertPicture s q acc) []

/-- The picture may start now: its cost ends by P − E. -/
def pictureFits (s : State) (q : Picture) : Bool :=
  q.notBefore ≤ s.tide.ix && (getSession s q.session).any fun c =>
    decide (s.codec.used + pictureCost c ≤ codecSpan (envNow s))

/-- The picture that the engine starts next: the first Class Q one if it fits, else the first Class B one that fits and whose
session has no earlier picture waiting. -/
def nextPicture (s : State) : Option Picture :=
  let ready := readyPictures s
  match ready.find? (isQPicture s) with
  | some q => if pictureFits s q then some q else firstB ready
  | none => firstB ready
where
  firstB (ready : List Picture) : Option Picture :=
    let bs := ready.filter fun q => !isQPicture s q
    bs.find? fun q => pictureFits s q && (bs.find? (·.session = q.session)).any (·.tag = q.tag)

/-- A picture of the queue, by session and tag. -/
def samePicture (a b : Picture) : Bool := a.session = b.session && a.tag = b.tag
def putPicture (q : Picture) (s : State) : State :=
  { s with codec.queue := s.codec.queue.map fun x => if samePicture x q then q else x }
def dropPicture (q : Picture) (s : State) : State :=
  { s with codec.queue := s.codec.queue.filter fun x => !samePicture x q }

/-- The engine starts its next picture, unless it is coding one or codec work does not launch (R381). -/
def startNext (s : State) : State :=
  if s.codec.queue.any (fun q => q.started && !q.done) || !mayLaunch s || s.power.stop || s.tide.inBand then s
  else match nextPicture s with
    | none => s
    | some q => match getSession s q.session with
      | none => s
      | some c =>
        let (target, limit, qp) := rateStart c (nextIdr c) (nextIntra c)
        putPicture { q with started := true, idr := nextIdr c, intra := nextIntra c, firstSeq := c.recordSeq, slices := [],
                            rows := [], emitted := 0, outOff := 0, target := target, limit := limit, qp := qp }
          { s with codec.used := s.codec.used + pictureCost c }

/-- The picture that the engine is coding. -/
def codingPicture (s : State) : Option Picture := s.codec.queue.find? fun q => q.started && !q.done

/-- The engine may end a slice so: a new one of an encode picture, within the hard limit, with at most 8,192 bytes a CTU, and
with the bytes that an earlier coding of the picture gave it (R294, R295, R303). -/
def sliceOk (c : Session) (q : Picture) (index : Nat) (payload : List Byte) (rows : List Nat) : Bool :=
  c.kind = 0 && decide (index < sliceCount c) && !q.slices.any (·.1 = index) && decide (rows.sum ≤ q.limit) &&
    rows.all (· ≤ 65536 * ctuW c) && (q.again.find? (·.1 = index)).all (·.2 = payload)

/-- CODEC_SLICE_DONE: a slice or tile of the session's picture is complete; `rows` holds the bits of each CTU row so far. With
LOW_LATENCY its record leaves in bitstream order (R299). -/
def execCodecSliceDone (session index : Nat) (payload : List Byte) (rows : List Nat) (s : State) :
    Host.Outcome State Fault Refusal :=
  .next (match codingPicture s, getSession s session with
    | some q, some c =>
      if q.session ≠ session || !sliceOk c q index payload rows || s.tide.discard || s.tide.inBand then s
      else
        let q := { q with slices := q.slices ++ [(index, payload)], rows := rows }
        let q := { q with qp := rowQp c q (nextRow c index).1 (nextRow c index).2 }
        if c.cfg.lowLatency = 1 then
          let (s, q) := emitSlices session s.tide.count (sliceCount c) (s, q)
          putPicture q s
        else putPicture q s
    | _, _ => s)

/-- The engine may end a picture so: an encode picture has every slice, and its coded bytes lie within the hard limit (R294). -/
def pictureOk (c : Session) (q : Picture) (codedBytes : Nat) : Bool :=
  c.kind ≠ 0 || (((List.range (sliceCount c)).all fun i => q.slices.any (·.1 = i)) && decide (8 * codedBytes ≤ q.limit))

/-- CODEC_PICTURE_DONE: the engine has finished its picture, and starts the next one. -/
def execCodecPictureDone (codedBytes : Nat) (planes : List Byte) (found : DecodeFound) (refs : List Nat) (order : Int)
    (head : PictureHead) (s : State) : Host.Outcome State Fault Refusal :=
  .next (match codingPicture s with
    | some q =>
      if s.tide.discard || s.tide.inBand || !(getSession s q.session).any fun c => pictureOk c q codedBytes then s
      else
        startNext (putPicture { q with done := true, codedBytes := codedBytes,
                                       decoded := some ⟨found, head, planes, refs, order⟩ } s)
    | none => s)

/-- A picture goes back to be coded again: its session's counters are those of the last committed tide (R303). -/
def recode (notBefore : Nat) (q : Picture) (s : State) : State :=
  let s := match getSession s q.session with
    | some c => setSession q.session { c with recordSeq := q.firstSeq, written := c.committed } s
    | none => s
  putPicture { q with started := false, done := false, notBefore := notBefore, again := q.slices ++ q.again, slices := [],
                      rows := [], emitted := 0, outOff := 0 } s

/-- CODEC_CORE: an internal fault of a codec core: the breach, and the tide's pictures are coded again in the next tide in
which they fit (R303). -/
def execCodecCore (core : Nat) (s : State) : Host.Outcome State Fault Refusal :=
  .next (
    if !mainUp s then s
    else
      let s := recordBreach 0x15 0 255 255 255 core 0 s
      startNext ((s.codec.queue.filter (·.started)).foldl (fun st q => recode (st.tide.ix + 1) q st) s))

/-! ## Pictures arriving (R281, R282, R284, R290) -/

/-- Count a skipped picture. -/
def skipPicture (p : Nat) (s : State) : State := modPolder s p fun x => { x with codecSkip := sat32 (x.codecSkip + 1) }

/-- Queue a picture that becomes visible at an edge. -/
def queuePicture (n : Nat) (c : Session) (cmd : Option Instr) (tag : Tag) (ix : Nat) (input : List Byte) (s : State) : State :=
  setSession n { c with lastVisibleIx := some ix }
    { s with codec.queue := s.codec.queue ++
      [({ session := n, cmd := cmd, visibleIx := ix, notBefore := ix, tag := tag, input := input } : Picture)] }

/-- The first edge at which the session takes another picture. -/
def nextVisible (c : Session) : Nat := (c.lastVisibleIx.map (· + c.interval)).getD 0

/-- Class B sessions are shed now (R305, R370). -/
def sessionShed (s : State) (c : Session) : Bool := clsOf s c.polder = some .B && bShed s

/-- A picture of a SOURCE 1 or SOURCE 2 session: skipped when it comes too soon, while shedding lasts, or during a coolant
stop. -/
def streamPicture (n : Nat) (tag : Tag) (input : List Byte) (s : State) : State :=
  match getSession s n with
  | some c =>
    if s.tide.ix < nextVisible c || sessionShed s c || s.power.stop then skipPicture c.polder s
    else queuePicture n c none tag s.tide.ix input s
  | none => s

/-- A camera frame that an encode session takes: its data type, size and bit depth (R282). -/
def frameOk (c : Session) (d : Datum) : Bool :=
  (d.dataType = 0x18 || d.dataType = 0x19 || d.dataType = 0x1E) && d.width = c.width && d.height = c.height &&
    (decide (c.profile = 1) == decide (d.dataType = 0x19))

/-- A datum delivered to a codec session. -/
def deliverCodec (n : Nat) (tag : Tag) (d : Datum) (s : State) : State :=
  match getSession s n with
  | some c =>
    if c.cfg.source ≠ 1 then s
    else if c.kind = 0 && d.rank = 4 && !frameOk c d then skipPicture c.polder s
    else streamPicture n tag (if c.kind = 0 && d.rank = 4 then cameraPicture c d else d.payload) s
  | none => s

/-- CODEC_PICTURE at its edge: held until I tides after the session's previous picture (R290). -/
def applyCodecPicture (c : Instr) (h : Hdr) (tag : Tag) (session inLen outLen : Nat) (fault : Bool) (s : State) : State :=
  let p := polderOf h
  match sessionFor s p session with
  | some x =>
    if x.cfg.source ≠ 0 then finish h .badParam .fieldRange [] s
    else match pictureFault s h session inLen outLen with
      | some r => finish h .badParam r [] s
      | none =>
        if fault then finish h .badParam .bufferFault [] s
        else if sessionShed s x || s.power.stop then answer c .noFit true .none false true [] s
        else queuePicture session x (some c) tag (max s.tide.ix (nextVisible x)) [] s
  | none => finish h .badParam .fieldRange [] s

/-- Complete the queued commands of a session, and forget its pictures. -/
def endPictures (n : Nat) (st : Status) (shed : Bool) (pick : Picture → Bool) (s : State) : State :=
  (s.codec.queue.filter fun q => q.session = n && pick q).foldl (fun u q =>
    let u := dropPicture q u
    match q.cmd with
    | some c => answer c st true .none false shed [] u
    | none => u) s

/-- CODEC_SESSION_CLOSE at its edge (R305). -/
def applyCodecClose (h : Hdr) (session : Nat) (s : State) : State :=
  match sessionFor s (polderOf h) session with
  | some c =>
    let s := match s.codec.queue.find? fun q => q.session = session && q.started with
      | some q => abandon session s.tide.closedCount q s
      | none => s
    let s := commitRing session s
    let s := endPictures session .cancelled false (fun _ => true) s
    let s := idleAll c.polder 1 c.buffers s
    finish h .ok .none []
      { s with codec.sessions := tdel s.codec.sessions session,
               work.binds := s.work.binds.filter fun b => !(b.polder = c.polder && b.handle = 64 + session) &&
                 !(b.rank = 6 && b.srcLocal = session) }
  | none => finish h .badParam .fieldRange [] s

/-- The sheds of an edge: waiting pictures of shed Class B sessions, and of every session at a coolant stop (R305, R381). -/
def shedPictures (s : State) : State :=
  (s.codec.sessions.map (·.1)).foldl (fun st n => match getSession st n with
    | some c =>
      if sessionShed st c || st.power.stop then endPictures n .noFit true (fun q => !q.started) st else st
    | none => st) s

/-! ## Commit (R299 to R304) -/

/-- A coded size over MAX_PIC_BYTES, or a core with more than ceil(1.25 x N_ctu / DEC_PAR) units, breaks the picture's layout: it
is concealed whole (R289, R300). -/
def brokenLayout (c : Session) (q : Picture) (d : DecodedIn) : Bool :=
  let size := match q.cmd with
    | some (.codecPicture _ _ inLen _ _ _) => inLen
    | _ => q.input.length
  decide (c.cfg.maxPicBytes < size) || d.cores.any (decodeShare c < ·)

/-- What the decoder left of a picture; nothing, or a broken layout: every unit damaged. -/
def decodedOf (c : Session) (q : Picture) : DecodedIn :=
  let d := q.decoded.getD ⟨⟨[.picture], [], []⟩, ⟨false, true, false, false, decide (c.profile = 1)⟩, [], [], 0⟩
  if brokenLayout c q d then { d with errors := [.picture] } else d

/-- The session at the sample depth of a decoded picture: PROFILE gives an AV1 session none. -/
def atDepth (c : Session) (d : DecodedIn) : Session := if c.kind = 2 then { c with profile := bit d.deep } else c

/-- The header of a decoded picture (R302). -/
def decodedHeader (c : Session) (d : DecodedIn) (map : List Nat) : List Byte :=
  let pitch := codecPitch c
  let hidden := (map.filter fun m => m = 1 || m = 2).length
  let tainted := (map.filter (· = 3)).length
  let flags := bit d.shown + 2 * bit d.irap + 4 * bit (decide (0 < hidden)) + 8 * bit (decide (0 < tainted)) + 16 * bit d.filmGrain
  padTo 64 (le 4 c.pictureNo ++ le 4 (d.order % 4294967296).toNat ++ le 2 c.width ++ le 2 c.height ++
    le 1 (if c.profile = 0 then 8 else 10) ++ le 1 flags ++ le 2 0 ++ le 4 64 ++ le 4 pitch ++ le 4 (64 + pitch * c.height) ++
    le 4 (64 + rawBytes c) ++ le 4 hidden ++ le 4 tainted)

/-- The references after a decoded picture: those that it may reference, and itself, at most its slots less one (R285,
R301). -/
def keepRefs (c : Session) (d : DecodedIn) (x : Filling) : List RefPicture :=
  let kept := c.refs.filter (fun r => r.no ∈ d.refs) ++ [⟨c.pictureNo, d.order, x.planes, x.map⟩]
  kept.drop (kept.length - (if c.kind = 1 then 7 else 9))

/-- Deliver a datum to a graph's input port; one above the port's largest size is not delivered (R62, R78). -/
def deliverGraph (p h port : Nat) (tag : Tag) (bytes : List Byte) (s : State) : State :=
  match getGraph s p h with
  | some g =>
    let fits := (g.img.inputs.find? (·.1 = port)).all fun io => bytes.length ≤ io.2
    setGraph s p h { g with ports := tset g.ports port (if fits then some (tag, bytes) else none) }
  | none => s

/-- A decoded picture goes to the graph ports bound to its session (rank 6), under the session's output counter. -/
def deliverDecoded (n count : Nat) (bytes : List Byte) (s : State) : State :=
  match getSession s n with
  | some c =>
    let tag := recordTag count (s.flash.index.getD 0) n c.recordSeq
    let s := setSession n { c with recordSeq := c.recordSeq + 1 } s
    (s.work.binds.filter fun b => b.rank = 6 && b.srcLocal = n && b.polder = c.polder && b.handle < 64).foldl
      (fun st b => deliverGraph b.polder b.handle b.port tag bytes st) s
  | none => s

/-- Complete a picture's command: bytes output, and byte 20 for concealment. -/
def finishPicture (q : Picture) (st : Status) (bytes : Nat) (concealed : Bool) (s : State) : State :=
  match q.cmd with
  | some c => finishCmd c st .none (le 4 bytes ++ le 1 (bit concealed)) s
  | none => s

/-- The session after a committed picture. -/
def nextPictureState (n : Nat) (q : Picture) (s : State) : State :=
  match getSession s n with
  | some c =>
    let c := if c.kind = 0 then rateEnd c q else c
    setSession n { c with pictureNo := c.pictureNo + 1, forceIdr := false,
                          sinceIdr := if q.idr then 1 else c.sinceIdr + 1 } s
  | none => s

/-- Commit an encode picture: its SLICE records, PICTURE_END, and COMMITTED. -/
def commitEncode (n count : Nat) (c : Session) (q : Picture) (s : State) : State :=
  if q.inputError then
    commitRing n (finishPicture q .dataError 0 false (abandon n count q (dropPicture q s)))
  else if q.refError then
    let s := commitRing n (withdraw n count q s)
    let s := match getSession s n with
      | some c => setSession n { c with forceIdr := true } s
      | none => s
    match getSession s n with
    | some c => recode s.tide.ix { q with firstSeq := c.recordSeq, refError := false, slices := [], again := [] } s
    | none => s
  else
    let (s, q) := emitSlices n count (sliceCount c) (s, q)
    let (s, q) := emitRecord n count 1 (4 * bit q.idr) 0 q.codedBytes [] q s
    nextPictureState n q (finishPicture q .ok q.outOff false (commitRing n (dropPicture q s)))

/-- Commit a decoded picture: to the ring, to the output buffer, or to the bound graph port; damaged input conceals. -/
def commitDecode (n count : Nat) (c : Session) (q : Picture) (s : State) : State :=
  let d := decodedOf c q
  let y := atDepth c d
  let x := conceal y d
  let bytes := decodedHeader y d x.map ++ x.planes ++ mapBytes x.map
  let damaged := q.inputError || q.refError
  let hidden := damaged || x.map.any (· ≠ 0)
  let s := setSession n { c with refs := keepRefs c d x } (dropPicture q s)
  let s := if c.cfg.sink = 1 then deliverDecoded n count bytes s
    else if toRing c then (emitRecord n count 4 (1 + 4 * bit d.irap) 0 0 bytes q s).1
    else match q.cmd with
      | some (.codecPicture _ _ _ _ out _) => hostWrite (polderFn s c q.cmd) out bytes s
      | _ => s
  nextPictureState n q
    (finishPicture q (if damaged then .dataError else .ok) bytes.length hidden (commitRing n s))

/-- Commit or restore every picture of the tide that has closed; those of closing sessions are discarded (R116). -/
def commitCodec (s : State) : State :=
  (s.codec.queue.filter (·.started)).foldl (fun st q => match getSession st q.session with
    | some c =>
      if c.closing then st
      else if !q.done && !(c.kind = 0 && q.inputError) then recode st.tide.ix q st
      else if c.kind = 0 then commitEncode q.session st.tide.closedCount c q st
      else commitDecode q.session st.tide.closedCount c q st
    | none => dropPicture q st) s

/-- A discarded tide: every picture of it is coded again (R303). -/
def discardCodec (s : State) : State :=
  (s.codec.queue.filter (·.started)).foldl (fun st q => recode st.tide.ix q st) s

/-- Mark the sessions that a due CODEC_SESSION_CLOSE ends. -/
def markClosing (p session : Nat) (s : State) : State :=
  match sessionFor s p session with
  | some c => setSession session { c with closing := true } s
  | none => s

/-- A new tide for the engine: its window is empty. -/
def openCodec (s : State) : State := startNext { s with codec.used := 0 }

/-- Outputs of a committed invocation of a graph go to the SOURCE 2 sessions that read it (R284). -/
def feedSessions (p handle : Nat) (tag : Tag) (output : Nat → List Byte) (s : State) : State :=
  (s.codec.sessions.map (·.1)).foldl (fun st n => match getSession st n with
    | some c => if c.polder = p && c.cfg.source = 2 && c.cfg.graphHandle = handle then
        streamPicture n tag (output c.cfg.graphPort) st
      else st
    | none => st) s

/-! ## Meanings -/

def execCodecSessionOpen (h : Hdr) (kind profile width height interval : Nat) (cfg : CodecCfg) (s : State) :
    Host.Outcome State Fault Refusal :=
  fetched (.codecSessionOpen h kind profile width height interval cfg) h id s

def execCodecSessionClose (h : Hdr) (session : Nat) (s : State) : Host.Outcome State Fault Refusal :=
  fetched (.codecSessionClose h session) h id s

def execCodecPicture (h : Hdr) (session inLen : Nat) (inAddr outAddr : Word64) (out : OutArea)
    (s : State) : Host.Outcome State Fault Refusal :=
  fetched (.codecPicture h session inLen inAddr outAddr out) h id s

end Sys2Proof.Machine
end

