-- ==== Sys2Proof/Machine/Admission.lean ====
section
/-! DEFINITION. Machine/Admission.lean: ADMISSION_DECISION, the module's decision on the command that has waited
longest for a placement (R72, R74, R86, R87, R91, R95, R286, R322). -/

namespace Sys2Proof.Machine

/-- Decisions wait: a spare promotion or a move of placed work is in progress (R86), or no tide commits now (R330). -/
def decisionsWait (s : State) : Bool :=
  s.work.promotion.isSome || s.tide.discard || s.safety.restart.isSome || !s.tide.running ||
    s.work.polders.any fun q => q.2.graphs.any fun g => g.2.moveAt.isSome

/-- Decide a POLDER_CREATE; none while the quotas fit only after a destruction's scrub (R72, R74). -/
def decideCreate (no : Nat) (h : Hdr) (cls sluices bw sram hbm spill : Nat) (s : State) : Option State :=
  match createFault s h with
  | some (st, r) => some (finish h st r [] s)
  | none =>
    match quotaFault s false no (classOfCode cls) sram hbm spill with
    | none => some (makePolder h cls sluices bw sram hbm spill s)
    | some r =>
      if (quotaFault s true no (classOfCode cls) sram hbm spill).isNone then none else some (finish h .quota r [] s)

/-- Decide one waiting command; none while it must wait for a scrub. -/
def decideCommand (c : Instr) (no : Nat) (plans : List Plan) (s : State) : Option State :=
  match c with
  | .polderCreate h cls sl bw sram hbm spill => decideCreate no h cls sl bw sram hbm spill s
  | .graphLoad h handle t d _ img => decideGraph c no h handle t d img plans s
  | .modelVariantAdd h handle v _ img => decideVariant c no h handle v img plans s
  | .codecSessionOpen h kind profile width height interval k =>
    decideCodec c h kind profile width height interval k plans s
  | _ => some s

/-- ADMISSION_DECISION: the command first in the order of R62 is decided; `plans` are its candidates. -/
def execAdmissionDecision (plans : List Plan) (s : State) : Host.Outcome State Fault Refusal :=
  .next (
    if decisionsWait s then s
    else
      match s.work.decisions with
      | [] => s
      | d :: rest => ((decideCommand d.cmd d.no plans { s with work.decisions := rest }).map dropReleased).getD s)

end Sys2Proof.Machine
end

