-- ==== Sys2Proof/Machine/Startup.lean ====
section
/-! DEFINITION. Machine/Startup.lean: the cold start, firmware staging, verification and activation, and DORMANT
(R48, R50, R51, R175, R179, R306, R399, R400, R408, R444 to R461, R472, R479). -/

namespace Sys2Proof.Machine

/-! ## Settings records (R460, R461) -/

/-- A record as a firmware of that format reads and rewrites it: any other format gives the default. -/
def recOr (fmt a b : Nat) (r : SettingRec) : SettingRec := if r.format = fmt then r else ⟨fmt, a, b⟩

/-- Rewrite every settings record in a format. -/
def rewriteRecords (fmt : Nat) (s : State) : State :=
  { s with
    flash.recTide := recOr fmt 4 50 s.flash.recTide
    flash.recTime := recOr fmt 0 0 s.flash.recTime
    flash.recSafety := recOr fmt 8 7 s.flash.recSafety
    flash.recPorts := recOr fmt 255 0 s.flash.recPorts }

/-- The settings that such a rewriting resets: bit n for setting n. -/
def resetMask (fmt : Nat) (s : State) : Nat :=
  bitAt 0 (s.flash.recTide.format ≠ fmt) + bitAt 1 (s.flash.recTime.format ≠ fmt) +
    bitAt 2 (s.flash.recSafety.format ≠ fmt) + bitAt 3 (s.flash.recPorts.format ≠ fmt)

/-! ## Cold start (R448 to R451) -/

/-- Every self-test item of a tile, passed at a time. -/
def passedTile (q : Nat) : TileTest := { results := sliceKeys.map fun k => (k, ⟨0, some q⟩) }

/-- The tiles of the stacks in service, passed. -/
def passedTiles (ok : List Bool) (q : Nat) : Table TileTest :=
  ((List.range 128).filter fun k => ok.getD (k / 32) false).map fun k => (k, passedTile q)

/-- The items outside the tiles, and the injections, passed. -/
def passedItems (q : Nat) : Table ItemResult :=
  outsideItems.flatMap fun i => (List.range i.2).map fun k => (32 * i.1 + k, ⟨0, some q⟩)

/-- Entries of the breach log that had not been copied to flash are lost with the supply (R354). -/
def reloadLog (s : State) : State :=
  { s with
    safety.log := s.safety.log.filter fun e => e.index < s.flash.breachCopied
    safety.nextIndex := s.flash.breachCopied }

/-- The wardens pass on the entries that they kept while the main package was down (R354). -/
def takeKept (s : State) : State :=
  let one (st : State) (b : Breach) : State :=
    { st with
      safety.log := ({ b with index := st.safety.nextIndex } :: st.safety.log).take Config.logLimit
      safety.nextIndex := st.safety.nextIndex + 1 }
  let s := (s.wardens.a.kept ++ s.wardens.b.kept).foldl one s
  { s with wardens.a.kept := [], wardens.b.kept := [] }

/-- Debug access closes, and both wardens reboot (R438). -/
def closeDebug (s : State) : State :=
  if s.ident.debugOpen then
    toBoot .B (toBoot .A { s with ident.debugOpen := false, ident.wardenDebug := false, ident.debugDerivation := false })
  else s

/-- The ports as the record of their enables gives them. -/
def portsFrom (mask : Nat) : Table Port := (List.range 8).map fun n => (n, { enabled := mask / 2 ^ n % 2 = 1 })

/-- Power and heat after a cold start: the THERM domain keeps its readings, and the counts of samples with them; the
conditions that they set start at 0 (R473). -/
def powerKept (s : State) : Power :=
  { hotspots := s.power.hotspots.map fun p => (p.1, { p.2 with pace := 16 })
    brake := s.power.brake, brakeHighIx := s.power.brakeHighIx, flow := s.power.flow, inlet := s.power.inlet,
    outlet := s.power.outlet, below := s.power.below, above := s.power.above, hotRise := s.power.hotRise }

/-- Domains that a cold start does not reset: the wardens' (74 to 89), AON, THERM, SEAL and FUSE (R387, R397). -/
def keptDomain (d : Nat) : Bool := (74 ≤ d && d ≤ 89) || d = 90 || d = 95 || d = 97 || d = 99

/-- The main package at its reset values, with what the records give and what the cold start keeps (R397, R472). -/
def coldReset (s : State) : State :=
  { s with
    ident.debugOpen := false
    flash.rowErrors := []
    tide := { ix := s.tide.ix, periodQ := s.flash.recTide.a, swellLen := s.flash.recTide.b }
    time := { source := s.flash.recTime.a, domain := s.flash.recTime.b,
              state := if s.flash.recTime.a = 1 || s.flash.recTime.a = 2 then .acquire else .free }
    host := { bifurcated := s.host.bifurcated, safeHoldSeen := s.host.safeHoldSeen }
    work := { sShare := s.flash.recSafety.a, qAdmitOp := s.flash.recSafety.b }
    codec := {}
    power := powerKept s
    mem := {}
    clocks := { domains := s.clocks.domains.filter fun d => keptDomain d.1,
                judges := (0, { passes := 3, stable := true }) :: s.clocks.judges.filter fun j => decide (11 ≤ j.1) }
    links := { ports := portsFrom s.flash.recPorts.a }
    wardens.schedules := []
    safety := { hold := s.safety.hold.map fun h => { h with relaunched := false, waitMarks := false },
                log := s.safety.log, nextIndex := s.safety.nextIndex }
    startup := { bank := s.startup.bank, tap := s.startup.tap }
    aon.switchClosed := true
    aon.downRow := none
    aon.held := none
    aon.startFailed := false
    aon.replace := false
    aon.noClassS := false }

/-- A failed stage keeps the main package down (R449); an item that failed stage 7 is in the log (R343, R346). -/
def failStage (k : Nat) (item : Option Nat) (s : State) : State :=
  let s := match item with
    | some i => if k = 7 then recordBreach (if i < 0x41 then 0x07 else 0x08) 2 255 255 255 (i % 256) 0 s else s
    | none => s
  { s with tide.bootStage := k, safety.down := true, aon.startFailed := true, host.linkUp := decide (4 < k) }

/-- The next whole second from a time on, in quarter-ms (R38, R46). -/
def wholeSecond (q : Nat) : Nat := (q + 3999) / 4000 * 4000

/-- The epoch that a cold start opens, the stored one plus one; none when it is used up (R48, R51). -/
def nextEpoch (s : State) : Option Nat := if 65535 ≤ s.flash.epochRec then none else some (s.flash.epochRec + 1)

/-- Repair one recorded row, where its device has a resource left; else the device has used them up (R179). -/
def repairRow (s : State) (key : Nat) : State :=
  let d := key / 4294967296
  let n := (tget s.flash.repaired d).getD 0
  { s with flash.repaired := tset s.flash.repaired d (n + 1) }

/-- Post-package repair of the recorded rows (R179). -/
def repairRows (s : State) : State :=
  let s := s.flash.repairRows.foldl repairRow s
  { s with flash.repairRows := [] }

/-- A DRAM stack has used up its repair resources. -/
def usedUp (s : State) (d : Nat) : Bool := decide (Config.repairLimit d < (tget s.flash.repaired d).getD 0)

/-- Stage 5: recorded rows are repaired, every channel is trained, and all HBM is scrubbed under the pool key (R175, R448). -/
def memoryStage (s : State) : State :=
  let s := repairRows s
  let s := { s with mem.training := (List.range 24).map fun k => (k, Config.trainingValue k s.fresh), fresh := s.fresh + 1 }
  (wholeTier 1).foldl (fun st e => zeroFrames e.1 e.2 st) s

/-- The stages after 4 end: stacks, channels, tests, time and origin (R38, R46, R50, R306, R448, R450). -/
def finishStages (ok : List Bool) (fromQ : Nat) (join : Option Join) (s : State) : State :=
  let originQ := if join.isSome then fromQ else wholeSecond fromQ
  let s := memoryStage s
  let ok := (List.range 4).map fun k => ok.getD k false && !usedUp s (2 * k) && !usedUp s (2 * k + 1)
  let use := (List.range 4).filter fun k => ok.getD k false
  { s with
    work.stackOk := ok
    work.channels := if 3 ≤ use.length then (use.take 3).map some else [none, none, none]
    work.noSpare := decide (use.length < 4)
    aon.noClassS := decide (use.length < 3)
    safety.tiles := passedTiles ok originQ
    safety.items := passedItems originQ
    safety.injectionQ := originQ
    tide.bootStage := 8
    tide.originQ := originQ
    tide.nowQ := originQ
    tide.epochNext := (nextEpoch s).getD 0
    tide.join := join }

/-- No unused epoch: no tide starts, SAFE_HOLD begins, and the module must be replaced (R51). -/
def exhaust (s : State) : State := enterHold 7 { s with tide.exhausted := true }

/-- The bank that the boot ROM boots: the active one if it is valid, else the other (R450). -/
def bootBank (b : BootIn) (s : State) : Option Nat :=
  let valid (n : Nat) : Bool := if n = 0 then b.bankValid.1 else b.bankValid.2
  let n := s.flash.bankPointer
  if valid n then some n else if valid (1 - n) then some (1 - n) else none

/-- The firmware of an image is the module's: its versions, and the parts that a report shows (R440). -/
def adoptImage (i : BankImage) (s : State) : State :=
  { s with
    ident.fwVersion := i.fwVersion
    ident.rilamMin := i.rilamMin
    ident.rilamMax := i.rilamMax
    ident.parts := i.parts.map (fun p => (p.kind, p.version, p.digest)) ++ [(7, i.fwVersion, i.manifest.digest)] }

/-- The firmware of the other bank runs: that of the image staged there. -/
def fallBack (n : Nat) (s : State) : State :=
  let s := match s.flash.staged with
    | some i => adoptImage i { s with flash.settingsFormat := i.settingsFormat }
    | none => s
  recordBreach 0x19 0 255 255 255 n 0 s

/-- From stage 4 on every port trains, or stays down with its cause (R411, R412, R448). -/
def startPorts (s : State) : State := (List.range 8).foldl (fun st n => trainPort n st) s

/-- Stages 4 to 8, the firmware having been found. -/
def bootOn (b : BootIn) (s : State) : State :=
  match b.failedStage with
  | some k => failStage k b.failedItem (if k ≤ 4 then s else startPorts s)
  | none =>
    let s := startPorts s
    if s.ident.lifecycle = .decommissioned then s
    else
      let s := finishStages b.stackOk b.originQ b.join s
      if (nextEpoch s).isNone then exhaust s else s

/-- A cold start, up to the first tide (R448 to R450). Every polder is lost; after a power-down by a fault the log names each
(R333, R382, R383). -/
def coldStart (b : BootIn) (s : State) : State :=
  let named := if s.aon.downRow.isSome && s.aon.downRow ≠ some 9 then s.work.polders.map (·.1) else []
  let bank := bootBank b s
  let s := takeKept (coldReset (rewriteRecords s.flash.settingsFormat (closeDebug (reloadLog s))))
  let s := named.foldl (fun st p => recordBreach 0x14 0 p 255 255 0 0 st) s
  if b.failedStage.any (· ≤ 2) then failStage (b.failedStage.getD 1) none s
  else
    match bank with
    | none => failStage 3 none s
    | some n =>
      let s := { s with startup.bank := n }
      bootOn b (if n = s.flash.bankPointer then s else fallBack n s)

/-! ## FW_STAGE and FW_VERIFY (R454, R455) -/

/-- Bytes of a bank. -/
def bankBytes : Nat := 67108864

/-- FW_STAGE on arrival: the inactive bank is unverified, and the chunk is written. -/
def arriveFwStage (c : Instr) (h : Hdr) (offset len : Nat) (buf : Buf) (s : State) : State :=
  if s.startup.activation.isSome then finish h .notPermitted .none [] s
  else if bankBytes < offset + len then finish h .badParam .fieldRange [] s
  else if buf.fault then finish h .badParam .bufferFault [] s
  else accept h { s with flash.verified := false, startup.staging := s.startup.staging ++ [c] }

def execFwStage (h : Hdr) (offset len : Nat) (last : Bool) (buf : Buf) (image : BankImage) (s : State) :
    Host.Outcome State Fault Refusal :=
  let c := Instr.fwStage h offset len last buf image
  fetched c h (arriveFwStage c h offset len buf) s

/-- Write a chunk: one at offset 0 erases the bank first; the last one records the end. -/
def writeChunk (offset len : Nat) (last : Bool) (image : BankImage) (s : State) : State :=
  let kept := if offset = 0 then [] else s.flash.stagedChunks
  { s with
    flash.stagedChunks := kept ++ [(offset, len)]
    flash.stagedEnd := last || (offset ≠ 0 && s.flash.stagedEnd)
    flash.staged := some image
    flash.verified := false }

/-- FW_STAGE_DONE: the chunk that was staged first has been written. -/
def execFwStageDone (s : State) : Host.Outcome State Fault Refusal :=
  .next (match s.startup.staging with
    | c :: rest =>
      let s := { s with startup.staging := rest }
      match c with
      | .fwStage h offset len last _ image => finish h .ok .none [] (writeChunk offset len last image s)
      | _ => s
    | [] => s)

/-- Bytes that follow a part's ciphertext in its region: the tag and both signatures (R446). -/
def regionTail : Nat := 16 + 384 + 35664

/-- What a part fails (R446, R455). -/
def partFault (ctr : Nat) (p : PartCheck) : Option Status :=
  if bankBytes < p.offset + p.length + regionTail || !(p.signatureOk && p.tagOk && p.digestOk) then some .verifyFail
  else if p.svn < ctr then some .rollbackDenied
  else none

/-- What the manifest fails: its signatures, the fleet code, or entries that do not carry KIND 1 to 6 once each. -/
def manifestFault (ctr fleet : Nat) (i : BankImage) : Option Status :=
  if !i.manifest.signatureOk || i.fleet ≠ fleet || i.parts.length ≠ 6 ||
      !(List.range 6).all (fun k => i.parts.any (·.kind = k + 1)) then some .verifyFail
  else if i.manifest.svn < ctr then some .rollbackDenied
  else none

/-- The first part that fails, with its entry index. -/
def partsFault (ctr : Nat) : Nat → List PartCheck → Option (Status × Nat)
  | _, [] => none
  | n, p :: r => match partFault ctr p with
    | some st => some (st, n)
    | none => partsFault ctr (n + 1) r

/-- The first failure of a bank: the manifest, index 6, then the six parts in entry order. -/
def bankFault (ctr fleet : Nat) (i : BankImage) : Option (Status × Nat) :=
  match manifestFault ctr fleet i with
  | some st => some (st, 6)
  | none => partsFault ctr 0 i.parts

/-- FW_VERIFY on arrival. -/
def arriveFwVerify (h : Hdr) (s : State) : State :=
  if s.startup.activation.isSome then finish h .notPermitted .none [] s
  else accept h { s with startup.verifying := s.startup.verifying ++ [.fwVerify h] }

def execFwVerify (h : Hdr) (s : State) : Host.Outcome State Fault Refusal := fetched (.fwVerify h) h (arriveFwVerify h) s

/-- The outcome of the validation of the inactive bank. -/
def verifyOutcome (s : State) : Option (Status × Nat) :=
  match s.flash.staged with
  | some i => if s.flash.stagedEnd then bankFault s.ident.antiRollback s.ident.fleet i else some (.verifyFail, 0xFFFF)
  | none => some (.verifyFail, 0xFFFF)

/-- FW_VERIFY_DONE: the inactive bank has been validated. A chunk staged meanwhile leaves it unverified. -/
def execFwVerifyDone (s : State) : Host.Outcome State Fault Refusal :=
  .next (match s.startup.verifying with
    | c :: rest =>
      let s := { s with startup.verifying := rest }
      match verifyOutcome s with
      | some (st, n) => finishCmd c st .none (le 2 n) s
      | none => finishCmd c .ok .none [] { s with flash.verified := decide (s.startup.staging = []) }
    | [] => s)

/-! ## FW_ACTIVATE (R128, R456 to R459) -/

def execFwActivate (h : Hdr) (condition : Nat) (overrun : Option (Nat × Nat)) (s : State) : Host.Outcome State Fault Refusal :=
  fetched (.fwActivate h condition overrun) h id s

/-- The condition fits the module: 1 for a V fit, 2 for a C fit. -/
def conditionOk (s : State) (condition : Nat) : Bool := condition = (if s.ident.cabinet then 2 else 1)

/-- The placement reason of a code of R91. -/
def reasonOf (code : Nat) : Reason :=
  ([.noSpare, .sramSpace, .memorySpace, .sWindow, .resultRate, .qbWindow, .degradedQ, .bandwidth, .singleQuantum].find?
    fun r => reasonCode r = code).getD .none

/-- A warden writes the staged image and boots it on trial (R457). -/
def trialBoot (w : Warden) (s : State) : State :=
  toBoot w (setWarden s w { getWarden s w with switched := true, trial := true })

/-- FW_ACTIVATE at its edge E_a; `overrun` is the first placement check that fails under the costing tables of the new
firmware, with its polder. -/
def applyFwActivate (c : Instr) (h : Hdr) (condition : Nat) (overrun : Option (Nat × Nat)) (s : State) : State :=
  if !conditionOk s condition then finish h .notPermitted .noCondition [] s
  else if s.startup.activation.isSome then finish h .notPermitted .none [] s
  else
    match s.flash.staged, s.flash.verified with
    | some i, true =>
      match overrun with
      | some (code, p) => finish h .overrunRisk (reasonOf code) (le 2 p) s
      | none => trialBoot .B
          { s with startup.activation := some { cmd := c, image := i, oldFormat := s.flash.settingsFormat } }
    | _, _ => finish h .notPermitted .none [] s

/-- Entry index of a warden's image: KIND 3 and 4 are entries 2 and 3. -/
def wardenPart : Warden → Nat
  | .A => 2
  | .B => 3

/-- The activation fails before its pause. -/
def failActivation (part : Nat) (s : State) : State :=
  match s.startup.activation with
  | some a => finishCmd a.cmd .verifyFail .none (le 2 part) { s with startup.activation := none }
  | none => s

/-- The warden that boots on trial at a stage of the preparation. -/
def trialWarden (stage : Nat) : Option Warden := if stage = 0 then some .B else if stage = 1 then some .A else none

/-- WARDEN_TRIAL_BOOT: the warden reaches VOTING on its trial boot, or fails. -/
def execWardenTrialBoot (w : Warden) (reachedVoting : Bool) (s : State) : Host.Outcome State Fault Refusal :=
  .next (match s.startup.activation with
    | some a =>
      if a.paused || trialWarden a.stage ≠ some w then s
      else if reachedVoting then
        if canVote s w && (getWarden s w).switched then
          let s := { s with startup.activation := some { a with stage := a.stage + 1 } }
          if a.stage = 0 then trialBoot .A s else s
        else s
      else failActivation (wardenPart w) (toBoot w (setWarden s w { getWarden s w with switched := false }))
    | none => s)

/-- At the first edge after Warden A votes, the pause begins, if both wardens still run the new image (R457, R458). The
outcome before SAFE_HOLD's entry is that of the closing edge: its tide commits. -/
def beginPause (s : State) : State :=
  match s.startup.activation with
  | some a =>
    if a.paused || a.stage ≠ 2 then s
    else if !s.wardens.b.switched then failActivation 3 s
    else if !s.wardens.a.switched then failActivation 2 s
    else
      let q := max 1 (min (Config.restartQuarters s.fresh) 1320)
      let s := enterHold 5 (tdisError (endSessions { s with startup.activation := some { a with paused := true } }))
      { s with
        fresh := s.fresh + 1
        mem.selfRefresh := true
        host.hub0.fwHold := true
        host.hub1.fwHold := true
        safety.restart := some ⟨s.tide.nowQ, s.tide.nowQ + min (Config.darkQuarters s.fresh) (min q 420), s.tide.nowQ + q, true⟩ }
  | none => s

/-- Every golden reference is marked for learning (R458). -/
def relearn (s : State) : State :=
  forGraphs (fun p h st => match getGraph st p h with
    | some g => setGraph st p h { g with golden := g.golden.map fun y => { y with learning := true } }
    | none => st) s

/-- The relaunch edge of an activation: the new firmware runs, and rewrites the records in its format (R458, R461); or, after
a warm restart into the old firmware, FW_ACTIVATE ends (R459). -/
def relaunchActivation (s : State) : State :=
  match s.startup.activation with
  | some a =>
    if a.reverting then
      finishCmd a.cmd .verifyFail .none [] { s with startup.activation := none, flash.settingsFormat := a.oldFormat }
    else if a.paused then
      let fmt := a.image.settingsFormat
      { rewriteRecords fmt (relearn s) with
        startup.activation := some { a with stage := 3, mask := resetMask fmt s }
        flash.settingsFormat := fmt }
    else s
  | none => s

/-- The smallest security version of a bank. -/
def leastSvn (i : BankImage) : Nat := (i.parts.map (·.svn)).foldl min i.manifest.svn

/-- A warden at the commit edge: its pointer has switched, and its own counter advances (R447, R458). -/
def commitWarden (svn : Nat) (x : WardenSt) : WardenSt :=
  { x with switched := false, antiRollback := if x.switched then max x.antiRollback svn else x.antiRollback }

/-- The commit edge, which closes the first tide of the new firmware (R447, R458). -/
def commitActivation (s : State) : State :=
  match s.startup.activation with
  | some a =>
    if a.stage ≠ 3 || a.reverting then s
    else
      let svn := leastSvn a.image
      finishCmd a.cmd .ok .none (le 16 a.mask) (adoptImage a.image
        { s with
          startup.activation := none
          startup.bank := 1 - s.flash.bankPointer
          flash.bankPointer := 1 - s.flash.bankPointer
          flash.staged := none
          flash.stagedEnd := false
          flash.stagedChunks := []
          flash.verified := false
          ident.antiRollback := max s.ident.antiRollback svn
          wardens.a := commitWarden svn s.wardens.a
          wardens.b := commitWarden svn s.wardens.b })
  | none => s

/-- At an edge outside SAFE_HOLD with no activation, a warden that still runs the other bank's image reboots into its old one,
one warden at a time (R459). -/
def returnWardens (s : State) : State :=
  if s.startup.activation.isSome || s.safety.hold.isSome || s.safety.restart.isSome then s
  else if s.wardens.b.switched && (canVote s .A || !canVote s .B) then toBoot .B s
  else if s.wardens.a.switched && (canVote s .B || !canVote s .A) then toBoot .A s
  else s

/-! ## DORMANT (R399, R400, R408, R452, R453) -/

/-- The conditions of R399 at the edge. -/
def dormantMay (s : State) : Bool :=
  !busyAdmitted s && s.aon.held.isNone && decide (s.work.scrubs = []) && s.work.promotion.isNone &&
    !s.work.polders.any fun p => p.2.rotation.isSome

/-- At an edge, a request for DORMANT is accepted, or cleared with REFUSED. -/
def judgeDormant (s : State) : State :=
  if !s.startup.dormantReq || s.startup.dormant || s.startup.entering || s.startup.waking then s
  else if dormantMay s && s.safety.restart.isNone then { s with startup.entering := true, startup.refused := false }
  else { s with startup.dormantReq := false, startup.refused := true }

/-- DORMANT_ENTRY_DONE: the entry ends; a wake event that came during it begins the wake at once. -/
def execDormantEntryDone (s : State) : Host.Outcome State Fault Refusal :=
  .next (if s.startup.entering then
    { s with power.staging := none, power.raising := false, startup.entering := false, startup.dormant := true, startup.waking := s.startup.wakeLater,
             startup.wakeLater := false, mem.selfRefresh := true }
  else s)

/-- Merge an event that the AON logic latched into the restored state of its source. -/
def mergeEvent (hub src : Nat) (s : State) : State :=
  let x := getSource s hub src
  let c := min (x.count + 1) 255
  setSource s hub src { x with count := c, ready := x.ready || decide (x.coalCount ≤ c) }

/-- Merge every latched event of a hub; what becomes deliverable is released at the next edge. -/
def mergeLatched (hub : Nat) (s : State) : State :=
  let l := (getHub s hub).latched
  l.foldl (fun st k => mergeEvent hub k st) (setHub s hub { getHub s hub with latched := [] })

/-- Every item of every tile in service passes once; what was counted of the tile stays. -/
def wakeTiles (s : State) : State :=
  ((List.range 128).filter fun k => s.work.stackOk.getD (k / 32) false).foldl (fun st k =>
    setTile st (k / 32) (k % 32)
      { getTile st (k / 32) (k % 32) with results := (passedTile st.tide.nowQ).results, repeating := [], due := [],
                                          slice := none }) s

/-- DORMANT_WAKE: a wake event, or the one that is pending, runs the wake to its end: memory leaves self-refresh, the hub's
state is restored, the stacks run at OP0 on their fixed PLLs, and every item of every tile passes once. -/
def execDormantWake (s : State) : Host.Outcome State Fault Refusal :=
  .next (
    if s.startup.entering then { s with startup.wakeLater := true, startup.dormantReq := false }
    else if !s.startup.dormant then s
    else
      mergeLatched 1 (mergeLatched 0 (wakeTiles
        { s with
          startup.dormant := false
          startup.waking := false
          startup.dormantReq := false
          power.op := 0
          power.coreMv := Config.coreMv 0
          power.forced := true
          power.sinceRise := 0
          mem.selfRefresh := false })))

end Sys2Proof.Machine
end

