-- ==== Sys2Proof/Machine/Supply.lean ====
section
/-! DEFINITION. Machine/Supply.lean: the mating of the module, its 48 V switch and its supplies, and the cold starts that
follow a power-down (R17, R18, R20, R22, R35, R36, R382, R383, R397, R479). -/

namespace Sys2Proof.Machine

/-! ## Mating and the 48 V switch (R20, R36) -/

/-- MATE_SENSE_OPEN: the switch opens, whatever the main package does; the running tide never commits. -/
def execMateSenseOpen (pin : Nat) (s : State) : Host.Outcome State Fault Refusal :=
  .next (
    if 2 ≤ pin then s
    else
      let s := pinLevel (4 + pin) { s with aon.mated := false }
      if s.aon.switchClosed then powerDown 9 (dropActivation s) else s)

/-- The switch may close on insertion: it is open, and the module has not powered itself down since it was mated (R20). -/
def mayClose (s : State) : Bool :=
  s.aon.up && !s.aon.switchClosed && (!s.aon.mated || s.aon.downRow.all (· = 9))

/-- The rail at which pre-charge was completed: the voltage last seen, or, where that one lies outside the range between reset
and trip, one that is free within it (R18, R20, R383). -/
def railVoltage (s : State) : Nat :=
  if 3800 ≤ s.aon.vin48 && s.aon.vin48 ≤ 6000 then s.aon.vin48 else 3800 + (Config.freeWord s.fresh).toNat % 2201

/-- SWITCH_48V_CLOSE: both pins are qualified and pre-charge is complete; the cold start begins. -/
def execSwitch48vClose (boot : BootIn) (s : State) : Host.Outcome State Fault Refusal :=
  .next (if mayClose s then
    coldStart boot { s with aon.mated := true, aon.vin48 := railVoltage s, fresh := s.fresh + 1 }
  else s)

/-! ## Auxiliary inputs (R17, R383) -/

/-- Set an auxiliary input's voltage, presence and warning. -/
def setAux (w : Warden) (tenMv : Nat) (present warn : Bool) (s : State) : State :=
  match w with
  | .A => { s with aon.auxA := tenMv, aon.auxAOn := present, aon.auxAWarn := warn }
  | .B => { s with aon.auxB := tenMv, aon.auxBOn := present, aon.auxBWarn := warn }

def auxOn (s : State) (w : Warden) : Bool :=
  match w with
  | .A => s.aon.auxAOn
  | .B => s.aon.auxBOn

def auxWarned (s : State) (w : Warden) : Bool :=
  match w with
  | .A => s.aon.auxAWarn
  | .B => s.aon.auxBWarn

/-- AUX_WARN: below 9.5 V. -/
def execAuxWarn (w : Warden) (tenMv : Nat) (s : State) : Host.Outcome State Fault Refusal :=
  .next (if auxOn s w && tenMv < 950 then setAux w tenMv true true s else s)

/-- AUX_WARN_END: above 10 V for 100 ms. -/
def execAuxWarnEnd (w : Warden) (tenMv : Nat) (s : State) : Host.Outcome State Fault Refusal :=
  .next (if auxOn s w && 1000 < tenMv then setAux w tenMv true false s else s)

/-- A warden without supply: its flash, its fuses and its mute condition outlive it. -/
def wardenOff (x : WardenSt) : WardenSt :=
  { state := .off, muted := x.muted, antiRollback := x.antiRollback, kept := x.kept, discards := x.discards }

/-- Note that an auxiliary input fell below 8 V. -/
def seenOff (w : Warden) (s : State) : State :=
  match w with
  | .A => { s with aon.auxAOffSeen := true }
  | .B => { s with aon.auxBOffSeen := true }

/-- AUX_OFF: below 8 V its warden is OFF; with both inputs gone the AON logic is off too. The voltage that remains is free. -/
def execAuxOff (w : Warden) (s : State) : Host.Outcome State Fault Refusal :=
  .next (
    if !auxOn s w then s
    else
      let mv := (Config.freeWord s.fresh).toNat % 800
      let s := seenOff w (setAux w mv false true { s with fresh := s.fresh + 1 })
      let s := setWarden s w (wardenOff (getWarden s w))
      if auxOn s (otherWarden w) then s else { dropPresence s with aon.up := false, aon.buttonHeld := false })

/-- A warden with its supply back boots. -/
def wardenRise (w : Warden) (s : State) : State :=
  let x := getWarden s w
  if x.state = .off then setWarden s w { x with state := .boot } else s

/-- AUX_RISE: above 9.5 V its warden boots. -/
def execAuxRise (w : Warden) (tenMv : Nat) (s : State) : Host.Outcome State Fault Refusal :=
  .next (if s.aon.up && !auxOn s w && 950 < tenMv then wardenRise w (setAux w tenMv true (auxWarned s w) s) else s)

/-- AON_POWER_ON: the first auxiliary input rises; the AON logic and the THERM and FUSE domains are reset, the seal keeps its
record, SLOT_ID is read, and that input's warden boots (R22, R27, R397). A loss of the AON clock is recorded now (R396). The input's voltage is free above 9.5 V. -/
def execAonPowerOn (w : Warden) (slotId : Nat) (s : State) : Host.Outcome State Fault Refusal :=
  .next (
    if s.aon.up && !s.aon.clockLost then s
    else
      let s := if s.aon.clockLost then recordBreach 0x17 2 255 255 255 90 0 s else s
      let mv := 951 + (Config.freeWord s.fresh).toNat % 650
      let a := s.aon
      let s := { s with
        fresh := s.fresh + 1
        aon := { slotId := slotId % 32, vin48 := a.vin48, auxA := a.auxA, auxB := a.auxB, auxAOn := a.auxAOn,
                 auxBOn := a.auxBOn, auxAWarn := a.auxAWarn, auxBWarn := a.auxBWarn, switchClosed := a.switchClosed,
                 mated := a.mated, sagWarn := a.sagWarn, brakeLow := a.brakeLow, broken := a.broken, sense := a.sense,
                 breaks := a.breaks, held := a.held, startFailed := a.startFailed, replace := a.replace,
                 noClassS := a.noClassS, downRow := a.downRow }
        power.hotspots := []
        power.flow := 0
        power.inlet := 0
        power.outlet := 0
        power.below := (0, 0, 0)
        power.above := (0, 0, 0, 0)
        power.hotRise := false
        clocks.domains := s.clocks.domains.filter fun d => !(d.1 = 90 || d.1 = 95 || d.1 = 99)
        startup.tap := 0x01 }
      wardenRise w (setAux w mv true (auxWarned s w) s))

/-! ## The 48 V input (R383) -/

/-- SAG_WARN: below 42 V, whatever the auxiliary inputs do; a forced drop to OP0, and a wake from DORMANT (R400). -/
def execSagWarn (tenMv : Nat) (s : State) : Host.Outcome State Fault Refusal :=
  .next (
    if 4200 ≤ tenMv then s
    else if s.aon.sagWarn then { s with aon.vin48 := tenMv }
    else
      let s := { s with
        aon.vin48 := tenMv
        aon.sagWarn := true
        aon.sagSeen := true
        aon.sagCount := min 65535 (s.aon.sagCount + 1) }
      if mainUp s then wakeEvent (raisePf0 17 (forceDrop s)) else s)

/-- SAG_WARN_END: above 43 V for 100 ms; the point rises under R361. -/
def execSagWarnEnd (tenMv : Nat) (s : State) : Host.Outcome State Fault Refusal :=
  .next (if s.aon.sagWarn && 4300 < tenMv then
    { s with aon.vin48 := tenMv, aon.sagWarn := false, power.sinceRise := 0 }
  else s)

/-- TRIP48: below 38 V, or above 60 V, whatever the auxiliary inputs do: SAFE_HOLD, and the switch opens. -/
def execTrip48 (tenMv : Nat) (s : State) : Host.Outcome State Fault Refusal :=
  .next (
    if 3800 ≤ tenMv && tenMv ≤ 6000 then s
    else
      let s := { s with aon.vin48 := tenMv, aon.trip48Seen := true }
      if !s.aon.switchClosed then s
      else { (if mainUp s then enterHold 6 s else powerDown 6 (dropActivation s)) with aon.downRow := some 10 })

/-- SUPPLY_RESTART: 1 s between 43 V and 58 V after a trip. The voltage is free in that range. -/
def execSupplyRestart (boot : BootIn) (s : State) : Host.Outcome State Fault Refusal :=
  .next (if s.aon.up && s.aon.mated && !s.aon.switchClosed && s.aon.downRow = some 10 then
    coldStart boot
      { s with fresh := s.fresh + 1, aon.vin48 := 4300 + (Config.freeWord s.fresh).toNat % 1501, aon.sagWarn := false }
  else s)

/-- COOLANT_RESTART: after a thermal power-down, a flow of at least 70% for 10 s and every hotspot below 60 °C (R382). -/
def execCoolantRestart (boot : BootIn) (s : State) : Host.Outcome State Fault Refusal :=
  .next (if s.aon.up && s.aon.mated && !s.aon.switchClosed && (s.aon.downRow = some 6 || s.aon.downRow = some 8) &&
      10000 ≤ s.power.above.2.2.2 && (List.range 146).all (fun i => decide ((getHotspot s i).reading < 60)) then
    coldStart boot s
  else s)

end Sys2Proof.Machine
end

