-- ==== Sys2Proof/Machine/Clocks.lean ====
section
/-! DEFINITION. Machine/Clocks.lean: clock monitors and watchdogs, judges, recovered clocks and the control cores'
watchdogs (R387 to R396). -/

namespace Sys2Proof.Machine

def getDomain (s : State) (d : Nat) : Domain := (tget s.clocks.domains d).getD {}
def setDomain (s : State) (d : Nat) (x : Domain) : State := { s with clocks.domains := tset s.clocks.domains d x }

/-! ## Domains (R387) -/

/-- Group and position of a domain. -/
inductive DomainPlace where
  | stack (n k : Nat)
  | io (i k : Nat)
  | warden (w : Warden) (k : Nat)
  | module_ (k : Nat)
deriving DecidableEq, Repr

def domainPlace (d : Nat) : DomainPlace :=
  if d < 36 then .stack (d / 9) (d % 9)
  else if d < 74 then .io ((d - 36) / 19) ((d - 36) % 19)
  else if d < 90 then .warden (if d < 82 then .A else .B) ((d - 74) % 8)
  else .module_ (d - 90)

/-- Recovered receivers without another source: the APHY domains. -/
def isAphy (d : Nat) : Bool :=
  match domainPlace d with
  | .io _ k => decide (12 ≤ k) && decide (k ≤ 17)
  | _ => false

/-- Domains without a fallback (R387, R396). -/
def noFallback (d : Nat) : Bool :=
  match domainPlace d with
  | .stack _ _ => false
  | .io _ k => k = 3 || k = 4 || (12 ≤ k && k ≤ 17)
  | .warden _ k => k = 6
  | .module_ k => k = 0 || k = 1 || k = 2 || k = 5 || k = 7 || k = 9

/-- The hub of a domain's die or region (R401). -/
def domainHub (d : Nat) : Nat :=
  match domainPlace d with
  | .stack n _ => n / 2
  | .io i _ => i
  | .warden w _ => wardenNo w
  | .module_ _ => 0

/-- The domain can lose its clock now: the main package's domains only while it is powered. -/
def domainPowered (s : State) (d : Nat) : Bool :=
  match domainPlace d with
  | .warden w _ => decide ((getWarden s w).state ≠ .off)
  | .module_ k => k = 7 || (if k = 0 || k = 5 || k = 9 then s.aon.up else mainUp s)
  | _ => mainUp s

/-! ## CLOCK_MONITOR_FLAG (R392, R396) -/

/-- The loss of a domain that has no fallback. -/
def loseDomain (d : Nat) (s : State) : State :=
  let s := setDomain s d { getDomain s d with lost := true }
  match domainPlace d with
  | .io _ _ => { s with host.linkUp := false }
  | .warden w _ => toBoot w s
  | .module_ 7 => breakSeal s
  | .module_ 2 => s
  | .module_ _ => { s with aon.clockLost := true }
  | .stack _ _ => s

/-- The domain has a PLL or TCXO-bank source, so that a monitor watches it (R392): not WDOG, AON, TIME, THERM, SEAL and FUSE,
whose loss shows as R396 says. -/
def hasMonitor (d : Nat) : Bool :=
  match domainPlace d with
  | .warden _ k => k ≠ 6
  | .module_ k => k = 3 || k = 4 || k = 6 || k = 8
  | _ => true

/-- CLOCK_MONITOR_FLAG: missing edges; the outputs go to their safe states, and the watchdog starts. The APHY domains and DBG
have no monitor; of the domains without one, whose loss R396 describes, no source is raised. -/
def execClockMonitorFlag (domain : Nat) (duringSwitch : Bool) (s : State) : Host.Outcome State Fault Refusal :=
  .next (
    if 100 ≤ domain || isAphy domain || domain = 91 || !domainPowered s domain || (getDomain s domain).flagged then s
    else
      let s := setDomain s domain { getDomain s domain with flagged := true, duringSwitch := duringSwitch }
      let s := if hasMonitor domain then raise (domainHub domain) (1568 + domain) s else s
      if domain = 93 then { s with clocks.holdover := true }
      else if noFallback domain then loseDomain domain s
      else s)

/-! ## CLOCK_WATCHDOG_EXPIRY (R394, R395) -/

/-- The I/O die whose cluster holds a domain's watchdog; none for a warden's own. -/
def watchdogDie (d : Nat) : Option Nat :=
  match domainPlace d with
  | .stack n _ => some (1 - n / 2)
  | .io i _ => some (1 - i)
  | .warden _ _ => none
  | .module_ _ => some 0

/-- Class Q and Class B invocations that used a channel in the tide, by the bytes that their plans move on it, complete with
ST_BREACH. -/
def breachUsers (moved : Plan → List (Nat × Nat)) (pick : Nat → Bool) (s : State) : State :=
  (polderNumbers s).foldl (fun st p =>
    if isClassS st p then st
    else breachInUse p (fun _ y => (getGraph st p y.handle).any fun g => (moved g.plan).any fun b => pick b.1 && b.2 ≠ 0) st) s

/-- A hung die-to-die (k 3 and 4) or memory domain (5 to 8) of a stack: its channel sends fault markers, and Class Q and Class B
invocations that used the link, or the DRAM stack, fail. -/
def hangStack (n k : Nat) (s : State) : State :=
  let s := match channelOf s n with
    | some c => markChannel (fun _ _ => true) c s
    | none => s
  if k ≤ 4 then breachUsers (·.d2dBytes) (fun d => d / 2 = 2 * n + (k - 3)) s
  else breachUsers (·.hbmBytes) (fun d => d / 2 = 2 * n + (k - 5) % 2) s

/-- A hung port: it goes down and trains again. -/
def hangPort (n : Nat) (s : State) : State := trainPort n (takePortDown n 10 s)

/-- The effects of a hung domain. -/
def hangEffect (d : Nat) (s : State) : State :=
  match domainPlace d with
  | .stack n k => if k ≤ 2 then removeStack n 5 s else hangStack n k s
  | .io i k =>
    if k ≤ 2 then enterHold 3 s
    else if 5 ≤ k && k ≤ 8 then hangPort (4 * i + (k - 5)) s
    else if k = 9 || k = 10 then breachUsers (·.spillBytes) (· = i) s
    else if k = 11 then
      match codingPicture s with
      | some q => startNext (recode (s.tide.ix + 1) q s)
      | none => s
    else if k = 18 && s.time.source = i + 1 && s.time.state = .locked then
      { s with time.state := .holdover, time.goodSyncs := 0 }
    else s
  | .warden w k =>
    let x := getWarden s w
    if k ≤ 1 then toBoot w s
    else if k ≤ 4 then setWarden s w { x with portsDown := x.portsDown + 1 }
    else if k = 5 then (List.range 4).foldl (fun st n => badLane w (laneOf w n) st) s
    else s
  | .module_ k =>
    if k = 3 then
      let s := if s.clocks.refsel = 0 then s else setJudge s s.clocks.refsel {}
      { s with clocks.refsel := 0, clocks.holdover := false }
    else if k = 4 then forceDrop s
    else s

/-- STACK of a CLOCK_HANG entry. -/
def hangPlace (d : Nat) : Nat :=
  match domainPlace d with
  | .stack n _ => n
  | .warden w _ => 16 + wardenNo w
  | _ => 255

/-- CLOCK_WATCHDOG_EXPIRY: the flagged domain is reset onto its fallback, where it stays until the next cold start; REFSEL
goes on judging its inputs. -/
def execClockWatchdogExpiry (domain : Nat) (s : State) : Host.Outcome State Fault Refusal :=
  .next (
    let x := getDomain s domain
    if 100 ≤ domain || !x.flagged || noFallback domain || (watchdogDie domain).any (clusterHalted s) then s
    else
      let s := setDomain s domain { x with flagged := false, fallback := x.fallback || decide (domain ≠ 93) }
      let s := match domainPlace domain with
        | .warden w _ => wardenBreach w 0x17 2 255 255 domain (bit x.duringSwitch) s
        | _ => recordBreach 0x17 2 255 (hangPlace domain) 255 domain (bit x.duringSwitch) s
      hangEffect domain s)

/-- CONTROL_CORE_WATCHDOG: SAFE_HOLD with a warm restart; a halted core's watchdog is paused (R326, R466). -/
def execControlCoreWatchdog (io core : Nat) (s : State) : Host.Outcome State Fault Refusal :=
  .next (if mainUp s && io < 2 && core < 4 && !coreHalted s io core && s.tide.running then enterHold 3 s else s)

/-! ## Judges (R390) -/

/-- A window's outcome: three passes in a row make the oscillator stable; any failure restarts the count; a selected input is
dropped by two failures in a row. -/
def judgeNext (selected pass : Bool) (j : Judge) : Judge :=
  if pass then { j with passes := j.passes + 1, fails := 0, stable := j.stable || decide (3 ≤ j.passes + 1) }
  else if selected && j.stable then
    if 1 ≤ j.fails then { waiting := true } else { j with passes := 0, fails := 1 }
  else { j with passes := 0, fails := j.fails + 1, stable := false }

/-- JUDGE_WINDOW: 0 the TCXO, 1 and 2 the 10GBASE-T1 receivers, 3 to 10 the Levee receivers, 11 and 12 the wardens'
oscillators, which R319 holds to 20 ppm. -/
def execJudgeWindow (osc : Nat) (ratioPpm : Int) (s : State) : Host.Outcome State Fault Refusal :=
  .next (
    let j := getJudge s osc
    if 13 ≤ osc || j.waiting then s
    else
      let s := setJudge s osc (judgeNext (s.clocks.refsel = osc || 11 ≤ osc) (ratioPpm.natAbs ≤ 200) j)
      if osc = 11 then { s with wardens.a.oscBad := decide (20 < ratioPpm.natAbs) }
      else if osc = 12 then { s with wardens.b.oscBad := decide (20 < ratioPpm.natAbs) }
      else chooseRef s)

/-- REJUDGE_TIMER: 1 s after an input was dropped, it is judged again. -/
def execRejudgeTimer (osc : Nat) (s : State) : Host.Outcome State Fault Refusal :=
  .next (if osc < 13 && (getJudge s osc).waiting then setJudge s osc {} else s)

/-! ## Recovered clocks (R390, R393) -/

/-- The judged oscillator that a recovered domain feeds: the receivers of the ports and of 10GBASE-T1. -/
def recoveredOsc (d : Nat) : Option Nat :=
  match domainPlace d with
  | .io i k => if 5 ≤ k && k ≤ 8 then some (3 + 4 * i + (k - 5)) else if k = 18 then some (1 + i) else none
  | _ => none

/-- The domain has a recovered receiver: APHY, LVL, ETH or WLANE. -/
def isRecovered (d : Nat) : Bool :=
  isAphy d || (recoveredOsc d).isSome || match domainPlace d with
    | .warden _ k => k = 5
    | _ => false

/-- LOSS_OF_SIGNAL: a recovered clock stops; as a selected reference it is dropped, and REFSEL returns to the TCXO. -/
def execLossOfSignal (domain : Nat) (s : State) : Host.Outcome State Fault Refusal :=
  .next (
    if !isRecovered domain || !domainPowered s domain then s
    else
      let s := setDomain s domain { getDomain s domain with lost := true }
      match recoveredOsc domain with
      | some k => chooseRef (setJudge s k (if s.clocks.refsel = k then { waiting := true } else {}))
      | none => s)

/-- SIGNAL_RETURN: the receive side locks again, and its clock is judged afresh: at once, or 1 s after it was dropped (R390). -/
def execSignalReturn (domain : Nat) (s : State) : Host.Outcome State Fault Refusal :=
  .next (
    if !isRecovered domain || !(getDomain s domain).lost then s
    else
      let s := setDomain s domain { getDomain s domain with lost := false }
      match recoveredOsc domain with
      | some k => chooseRef (setJudge s k { waiting := (getJudge s k).waiting })
      | none => s)

end Sys2Proof.Machine
end

