-- ==== Sys2Proof/Machine/DebugPort.lean ====
section
/-! DEFINITION. Machine/DebugPort.lean: the TAP of J4 and the debug transport (R462 to R466). -/

namespace Sys2Proof.Machine

/-! ## Reach (R463) -/

/-- Targets of the transport (R464). -/
def isTile (t : Nat) : Bool := t < 128
def isCore (t : Nat) : Bool := 0x0100 ≤ t && t < 0x0108
def isPair (t : Nat) : Bool := t = 0x0200 || t = 0x0201
def isTarget (t : Nat) : Bool := isTile t || isCore t || isPair t

/-- The main package is within reach of the transport. -/
def mainReach (s : State) : Bool :=
  match s.ident.lifecycle with
  | .blank => true
  | .sealed | .service => s.ident.debugOpen
  | .decommissioned => false

/-- The wardens are within reach of the transport. -/
def wardenReach (s : State) : Bool :=
  match s.ident.lifecycle with
  | .blank => true
  | .service => s.ident.wardenDebug
  | .sealed | .decommissioned => false

/-- The target is within reach: the part that holds it must also be powered. -/
def targetReach (s : State) (t : Nat) : Bool :=
  if isPair t then wardenReach s && decide ((getWarden s (if t = 0x0200 then .A else .B)).state ≠ .off)
  else mainReach s && mainUp s

/-! ## The TAP (R462) -/

/-- The instruction is permitted in the current state. -/
def tapPermits (s : State) (code : Byte) : Bool :=
  code = 0x01 || code = 0xFF || (code = 0x20 && decide (s.ident.lifecycle ≠ .decommissioned)) ||
    ((code = 0x00 || code = 0x02) && decide (s.ident.lifecycle = .blank))

/-- What IDCODE reads. -/
def idcode : Word := 0x09640A5D

/-- TAP_INSTRUCTION: an instruction that is not permitted, or that the TAP does not have, selects BYPASS. IDCODE shows its value in
the data register. -/
def execTapInstruction (code : Byte) (s : State) : Host.Outcome State Fault Refusal :=
  .next (if !s.aon.up then s
  else
    let s := { s with startup.tap := if tapPermits s code then code else 0xFF }
    if code = 0x01 then emit (.idcode idcode) s else s)

/-- The transport answers: DTRANS is the instruction in force, and is still permitted. -/
def dtransOn (s : State) : Bool := s.aon.up && s.startup.tap = 0x20 && tapPermits s 0x20

/-! ## Requests and responses (R464) -/

def getUnit (s : State) (t : Nat) : Unit_ := (tget s.startup.units t).getD {}
def setUnit (s : State) (t : Nat) (u : Unit_) : State := { s with startup.units := tset s.startup.units t u }

/-- Answer a request. -/
def respond (cmd : Nat) (seq : Byte) (result : Nat) (data : Word64) (st : Nat) (s : State) : State :=
  emit (.dtrans cmd seq result data st) s

/-- A command for the selected unit: bad target with none selected, denied when it is out of reach. -/
def onUnit (cmd : Nat) (seq : Byte) (act : Nat → State → State) (s : State) : State :=
  if !dtransOn s then s
  else
    match s.startup.target with
    | none => respond cmd seq 3 0 0 s
    | some t => if targetReach s t then act t s else respond cmd seq 2 0 0 s

/-- SELECT. -/
def execDbgSelect (seq : Byte) (target : Nat) (s : State) : Host.Outcome State Fault Refusal :=
  .next (
    if !dtransOn s then s
    else if !isTarget target then respond 1 seq 3 0 0 s
    else if !targetReach s target then respond 1 seq 2 0 0 s
    else respond 1 seq 0 0 0 { s with startup.target := some target })

/-- The unit's memory may have changed while it ran. -/
def forgetPoked (t : Nat) (s : State) : State :=
  { s with startup.poked := s.startup.poked.filter fun e => e.1 / 2 ^ 72 ≠ t }

/-- HALT: at the unit's next instruction boundary, wherever its program counter stands. -/
def execDbgHalt (seq : Byte) (s : State) : Host.Outcome State Fault Refusal :=
  .next (onUnit 2 seq (fun t s =>
    let u := getUnit s t
    respond 2 seq 0 0 0
      (if u.halted then s
       else setUnit { s with fresh := s.fresh + 1 } t { u with halted := true, atBreak := false, steps := 0, pc := Config.unitPc s.fresh })) s)

/-- RESUME. -/
def execDbgResume (seq : Byte) (s : State) : Host.Outcome State Fault Refusal :=
  .next (onUnit 3 seq (fun t s =>
    respond 3 seq 0 0 0 (forgetPoked t (setUnit s t { getUnit s t with halted := false, atBreak := false, steps := 0 }))) s)

/-- STEP: a number of instructions, then a halt; R464 states no RESULT for a number outside 1 to 65,535. -/
def execDbgStep (seq : Byte) (arg : Nat) (s : State) : Host.Outcome State Fault Refusal :=
  .next (onUnit 4 seq (fun t s =>
    if 1 ≤ arg && arg ≤ 65535 then
      respond 4 seq 0 0 0 (forgetPoked t (setUnit s t { getUnit s t with halted := false, atBreak := false, steps := arg }))
    else respond 4 seq (Config.unstatedResult s.fresh) 0 0 { s with fresh := s.fresh + 1 }) s)

/-- BREAK_SET: ARG[2:0] names one of 8 slots. -/
def execDbgBreakSet (seq : Byte) (slot : Nat) (addr : Word64) (s : State) : Host.Outcome State Fault Refusal :=
  .next (onUnit 5 seq (fun t s =>
    let u := getUnit s t
    respond 5 seq 0 0 0 (setUnit s t { u with breaks := tset u.breaks (slot % 8) addr })) s)

/-- BREAK_CLEAR. -/
def execDbgBreakClear (seq : Byte) (slot : Nat) (s : State) : Host.Outcome State Fault Refusal :=
  .next (onUnit 6 seq (fun t s =>
    let u := getUnit s t
    respond 6 seq 0 0 0 (setUnit s t { u with breaks := tdel u.breaks (slot % 8) })) s)

/-! ## Memory (R465) -/

/-- Where eight bytes of a space lie: in a scratchpad, in the SRAM slice of a tile, at an offset in HBM (1) or the spillway (2), or
in a unit's own memory. -/
inductive DbgPlace where
  | cells (a : Nat)
  | sram (tile a : Nat)
  | ext (tier a : Nat)
  | unit_ (key : Nat)
deriving DecidableEq, Repr

/-- I/O die of a unit. -/
def unitDie (t : Nat) : Nat := if isTile t then t / 64 else if isCore t then (t - 0x0100) / 4 else t - 0x0200

/-- Key of a byte of a unit's own memory. -/
def pokeKey (t space a : Nat) : Nat := (t * 256 + space) * 2 ^ 64 + a

/-- The place of eight bytes at a pointer; none outside the space, or in a secure part (R196). Port 0 of a scratchpad crosses
an 8-byte boundary only with its ROTATE bit (R200). -/
def dbgPlace (s : State) (t space a : Nat) : Option DbgPlace :=
  let within (size : Nat) (pl : DbgPlace) : Option DbgPlace := if a + 8 ≤ size then some pl else none
  match space with
  | 0 =>
    if isTile t then within 50331648 (.sram t a)
    else if a + 8 ≤ Config.unitMemory t 0 then some (.unit_ (pokeKey t 0 a)) else none
  | 1 => within 206158430208 (.ext 1 a)
  | 2 => within 549755813888 (.ext 2 a)
  | 3 =>
    if a % 8 = 0 || (getScr s (unitDie t)).rotate.getLsbD 0 then within 7864320 (.cells (scrBase (unitDie t) + a)) else none
  | 4 => if isPair t && decide (a + 8 ≤ Config.unitMemory t 4) then some (.unit_ (pokeKey t 4 a)) else none
  | _ => none

/-- A byte of a unit's own memory: what the transport wrote while the unit is halted, and free otherwise. -/
def unitRead (s : State) (t key k : Nat) : Byte :=
  match tget s.startup.poked (key + k) with
  | some v => if (getUnit s t).halted then BitVec.ofNat 8 v else Config.unitByte (s.fresh + k)
  | none => Config.unitByte (s.fresh + k)

/-- Bytes at an offset in a tier, which may run over the end of a page: decrypted under the tag of each page. -/
def tierRead (s : State) (tier a n : Nat) : List Byte :=
  let m := min n (4096 - a % 4096)
  extRead s tier (a / 4096) (a % 4096) m ++ extRead s tier (a / 4096 + 1) 0 (n - m)

/-- Eight bytes at a place: of SRAM as they are stored, whatever the written bit says. -/
def dbgLoad (s : State) (t : Nat) : DbgPlace → List Byte
  | .cells a => readBytes s.mem.cells a 8
  | .sram k a => readBytes s.mem.cells (sramBase k + a) 8
  | .ext tier a => tierRead s tier a 8
  | .unit_ key => (List.range 8).map (unitRead s t key)

/-- Write bytes into a line of SRAM: its holder keeps it, and the first write of a line takes the whole line (R168). -/
def lineWrite (a : Nat) (bs : List Byte) (s : State) : State := sramWrite ((tget s.mem.written (a / 64)).getD debugHolder) a bs s

/-- Write eight bytes at a place. -/
def dbgStore (t : Nat) (pl : DbgPlace) (bs : List Byte) (s : State) : State :=
  match pl with
  | .cells a => { s with mem.cells := writeBytes s.mem.cells a bs }
  | .sram k a =>
    let n := 64 - a % 64
    let s := lineWrite (sramBase k + a) (bs.take n) s
    if bs.length ≤ n then s else lineWrite (sramBase k + a + n) (bs.drop n) s
  | .ext tier a => blockWrite tier (a / 4096) (a % 4096) bs s
  | .unit_ key =>
    if (getUnit s t).halted then
      { s with startup.poked := (List.range 8).foldl (fun m k => tset m (key + k) (bs.getD k 0).toNat) s.startup.poked }
    else s

/-- The grant that an access takes, on input 0 of the arbiter of its place (R190, R465). -/
def dbgGrant (pl : DbgPlace) (s : State) : State :=
  match pl with
  | .sram k a => grantLine k (a / 64) .debug s
  | .ext tier a => cycleAt (frameArbiter tier (a / 4096)) [.debug] s
  | _ => s

/-- SET_ADDR: the access pointer and its space. -/
def execDbgSetAddr (seq : Byte) (space : Nat) (addr : Word64) (s : State) : Host.Outcome State Fault Refusal :=
  .next (onUnit 7 seq (fun t s =>
    match dbgPlace s t (space % 256) addr.toNat with
    | some _ => respond 7 seq 0 0 0 { s with startup.space := space % 256, startup.pointer := addr.toNat }
    | none => respond 7 seq 4 0 0 s) s)

/-- READ: eight bytes at the pointer, which moves on by eight. -/
def execDbgRead (seq : Byte) (s : State) : Host.Outcome State Fault Refusal :=
  .next (onUnit 8 seq (fun t s =>
    match dbgPlace s t s.startup.space s.startup.pointer with
    | some pl =>
      let bs := dbgLoad s t pl
      let s := dbgGrant pl s
      respond 8 seq 0 (BitVec.ofNat 64 (unle bs)) 0 { s with fresh := s.fresh + 8, startup.pointer := s.startup.pointer + 8 }
    | none => respond 8 seq 4 0 0 s) s)

/-- WRITE: eight bytes at the pointer, which moves on by eight. -/
def execDbgWrite (seq : Byte) (data : Word64) (s : State) : Host.Outcome State Fault Refusal :=
  .next (onUnit 9 seq (fun t s =>
    match dbgPlace s t s.startup.space s.startup.pointer with
    | some pl =>
      let s := dbgGrant pl s
      respond 9 seq 0 0 0 (dbgStore t pl (le 8 data.toNat) { s with startup.pointer := s.startup.pointer + 8 })
    | none => respond 9 seq 4 0 0 s) s)

/-- STATUS: halted, at a breakpoint and which, and the program counter, which is free while the unit runs. -/
def execDbgStatus (seq : Byte) (s : State) : Host.Outcome State Fault Refusal :=
  .next (onUnit 10 seq (fun t s =>
    let u := getUnit s t
    respond 10 seq 0 (if u.halted then u.pc else Config.unitPc s.fresh)
      (bitAt 0 u.halted + bitAt 1 (u.halted && u.atBreak) + (if u.halted && u.atBreak then 4 * u.slot else 0))
      { s with fresh := s.fresh + 1 }) s)

/-- BREAKPOINT_HIT: a running unit reaches an armed breakpoint, or ends its STEP, and halts. -/
def execBreakpointHit (target slot : Nat) (stepEnd : Bool) (pc : Word64) (s : State) : Host.Outcome State Fault Refusal :=
  .next (
    let u := getUnit s target
    if u.halted || !isTarget target then s
    else if stepEnd then
      if u.steps = 0 then s else setUnit s target { u with halted := true, atBreak := false, steps := 0, pc := pc }
    else if tget u.breaks slot = some pc then
      setUnit s target { u with halted := true, atBreak := true, slot := slot, steps := 0, pc := pc }
    else s)

end Sys2Proof.Machine
end

