-- ==== Sys2Proof/Machine/Pmbus.lean ====
section
/-! DEFINITION. Machine/Pmbus.lean: the PMBus commands of the management bus (R22, R386). -/

namespace Sys2Proof.Machine

/-- The module answers: its address is 0x40 plus SLOT_ID, and the AON logic runs. -/
def busAnswers (s : State) (addr : Nat) : Bool := s.aon.up && addr = 0x40 + s.aon.slotId

/-- The least exponent from `e` on at which a non-negative number of 2^-16 units has a mantissa of at most 1,023. -/
def linearExp : Nat → Nat → Nat → Nat
  | 0, e, _ => e
  | f + 1, e, v => if v / 2 ^ e ≤ 1023 then e else linearExp f (e + 1) v

/-- LINEAR11: an 11-bit mantissa and a 5-bit exponent, of a number given as thousandths (PRESUMED, PMBus); the exponent is the
least that the mantissa allows, and the rest is cut off. -/
def linear11 (milli : Int) : Half :=
  let v := milli.natAbs * 65536 / 1000
  let e := linearExp 31 0 v
  let m : Int := if milli < 0 then -((v / 2 ^ e : Nat) : Int) else ((v / 2 ^ e : Nat) : Int)
  BitVec.ofInt 16 (((e : Int) - 16) % 32 * 2048 + m % 2048)

/-- Answer a PMBus read. -/
def answerBus (addr cmd : Nat) (milli : Int) (s : State) : State :=
  if busAnswers s addr then emit (.pmbus cmd (linear11 milli)) s else s

/-- The main package runs, so that the readings change once per tide only. -/
def perTide (s : State) : Bool := mainUp s && s.tide.running

/-- Input current in mA, which the spec derives from no other reading: free, once per tide while the main package runs, else at
each reading. -/
def currentMa (s : State) : Nat := 10 * Config.inputCurrent (if perTide s then s.aon.edgeIin else s.fresh)

/-- Input voltage in 10 mV. -/
def inputTenMv (s : State) : Nat := if perTide s then s.aon.edgeVin else s.aon.vin48

/-- READ_VIN (0x88). -/
def execReadVin (addr : Nat) (s : State) : Host.Outcome State Fault Refusal := .next (answerBus addr 0x88 (10 * inputTenMv s) s)

/-- READ_IIN (0x89). -/
def execReadIin (addr : Nat) (s : State) : Host.Outcome State Fault Refusal :=
  .next { answerBus addr 0x89 (currentMa s) s with fresh := s.fresh + 1 }

/-- READ_TEMPERATURE_1 (0x8D): the hottest hotspot, or the last value held while the main package is down. -/
def execReadTemperature1 (addr : Nat) (s : State) : Host.Outcome State Fault Refusal :=
  .next (answerBus addr 0x8D (1000 * (if perTide s then (hottest s).1 else s.aon.heldHottest)) s)

/-- READ_TEMPERATURE_2 (0x8E): the coolant inlet. -/
def execReadTemperature2 (addr : Nat) (s : State) : Host.Outcome State Fault Refusal :=
  .next (answerBus addr 0x8E (1000 * (if perTide s then s.power.edgeInlet else s.power.inlet)) s)

/-- READ_PIN (0x97): the power of the last tide; with the main package down, what the 48 V input then draws is free. -/
def execReadPin (addr : Nat) (s : State) : Host.Outcome State Fault Refusal :=
  .next (if mainUp s then answerBus addr 0x97 (1000 * s.power.powerW) s
    else { answerBus addr 0x97 (s.aon.vin48 * currentMa s / 100) s with fresh := s.fresh + 1 })

end Sys2Proof.Machine
end

