-- ==== Sys2Proof/Machine/Streams.lean ====
section
/-! DEFINITION. Machine/Streams.lean: stream bindings and the inputs that arrive, wait for their edge and are delivered in
merge order (R57 to R64, R78, R282, R284). -/

namespace Sys2Proof.Machine

/-! ## STREAM_BIND -/

/-- The target of a binding: a graph of the polder, or a session that takes it (R284). -/
def bindFault (s : State) (p rank srcLocal handle : Nat) : Option Reason :=
  if handle < 64 then
    if (getGraph s p handle).isNone then some .noGraph
    else if rank = 6 then
      need ((sessionFor s p srcLocal).any fun c => c.kind ≠ 0 && c.cfg.sink = 1) .fieldRange
    else none
  else need ((rank = 4 || rank = 5) && (sessionFor s p (handle - 64)).any fun c => c.cfg.source = 1) .fieldRange

/-- The binding's source counter starts at zero (R59, R283). -/
def resetCounter (b : Bind) (s : State) : State :=
  if b.rank = 6 then
    match getSession s b.srcLocal with
    | some c => setSession b.srcLocal { c with recordSeq := 0 } s
    | none => s
  else { s with tide.srcSeq := tdel s.tide.srcSeq (sourceKey b.rank b.srcMod b.srcLocal) }

/-- STREAM_BIND at its edge: bind, or unbind; a port of a graph takes one source. -/
def applyStreamBind (h : Hdr) (rank port srcLocal handle unbind srcMod : Nat) (s : State) : State :=
  let p := polderOf h
  let b : Bind := ⟨rank, srcMod, srcLocal, p, handle, if handle < 64 then port else 0⟩
  match bindFault s p rank srcLocal handle with
  | some r => finish h .badParam r [] s
  | none =>
    if unbind = 1 then finish h .ok .none [] { s with work.binds := s.work.binds.filter (· ≠ b) }
    else
      let keep := s.work.binds.filter fun x => !(x.polder = p && x.handle = b.handle && x.port = b.port)
      finish h .ok .none [] (resetCounter b { s with work.binds := keep ++ [b] })

/-! ## INPUT_ARRIVAL (R59 to R61) -/

/-- The tag of an input, and its intake: an arrival in the cycle of an edge belongs to the tide that the edge opens. This
module is the one where the datum originates (R57, R60). -/
def arrivalTag (s : State) (d : Datum) (seq : Word) : Tag :=
  let count := s.tide.count + bit d.atEdge
  { epoch := epochOf count, tn := tnOf count, rank := d.rank, srcMod := ownIndex s, srcLocal := d.srcLocal, seq := seq }

/-- Forward an input to a member that consumes it, over the highest-numbered up port that reaches it; the frame waits in that
port's retry buffer until it is acknowledged (R61, R414, R417). -/
def forwardInput (tag : Tag) (d : Datum) (s : State) (m : Nat × Consumer) : State :=
  match getAssoc s m.1, otherPort s 8 m.1 with
  | some a, some n =>
    if !a.live then s
    else
      let s := setAssoc s m.1 { a with txCounter := a.txCounter + 1 }
      let s := setPort s n { getPort s n with retry := (getPort s n).retry ++ [(m.1, a.txCounter)] }
      emit (.leveeInput m.1 n tag m.2 d.payload) s
  | _, _ => s

/-- INPUT_ARRIVAL of a camera, sensor or vehicle-network datum: its SEQ is set, it waits for the edge at which each
bound consumer of this module sees it, and goes to the members that consume it. -/
def execInputArrival (d : Datum) (s : State) : Host.Outcome State Fault Refusal :=
  .next (
    if !mainUp s || !s.tide.running || d.rank < 3 || 5 < d.rank || !srcLocalOk d.rank d.srcLocal then s
    else
      let key := sourceKey d.rank (ownIndex s) d.srcLocal
      let seq := nextSeq s key
      let tag := arrivalTag s d seq
      let s := d.forward.foldl (forwardInput tag { d with seq := seq }) s
      (s.work.binds.filter fun b => b.rank = d.rank && b.srcMod = ownIndex s && b.srcLocal = d.srcLocal).foldl
        (fun st b => awaitInput
          ⟨tag, s.tide.count + bit d.atEdge, s.tide.ix + bit d.atEdge + 1, ⟨b.polder, b.handle, b.port, false⟩,
            { d with seq := seq }⟩ st)
        (bumpSeq key s))

/-! ## Delivery at an edge (R62) -/

def insertWaiting (w : Waiting) : List Waiting → List Waiting
  | [] => [w]
  | x :: r => if tagBefore w.tag x.tag then w :: x :: r else x :: insertWaiting w r

/-- The inputs that become visible at the edge, in merge order. -/
def visibleInputs (s : State) : List Waiting :=
  (s.tide.waiting.filter fun w => w.visibleIx ≤ s.tide.ix).foldl (fun acc w => insertWaiting w acc) []

/-- Deliver one input to its consumer. -/
def deliverInput (w : Waiting) (s : State) : State :=
  if w.consumer.handle < 64 then deliverGraph w.consumer.polder w.consumer.handle w.consumer.port w.tag w.datum.payload s
  else deliverCodec (w.consumer.handle - 64) w.tag w.datum s

/-- Deliver every input that becomes visible. -/
def deliverInputs (s : State) : State :=
  (visibleInputs s).foldl (fun st w => deliverInput w st)
    { s with tide.waiting := s.tide.waiting.filter fun w => s.tide.ix < w.visibleIx }

def execStreamBind (h : Hdr) (rank port srcLocal handle unbind srcMod : Nat) (s : State) : Host.Outcome State Fault Refusal :=
  fetched (.streamBind h rank port srcLocal handle unbind srcMod) h id s

end Sys2Proof.Machine
end

