-- ==== Sys2Proof/Machine/Edge.lean ====
section
/-! DEFINITION. Machine/Edge.lean: TIDE_EDGE: the first tide of a cold start, and every later edge, at which a tide closes and
commits or is discarded, labels and the period change, inputs and commands are merged and applied, and the next tide's work is
chosen and launched (R38 to R56, R61, R62, R85, R114 to R118, R262, R325 to R332, R363, R451, R458). -/

namespace Sys2Proof.Machine

/-! ## Applying a tide-launched command at its edge (R62, R99, R114, R436) -/

/-- The command belongs to a polder that is being reset or destroyed (R99). -/
def meetsReset (s : State) (h : Hdr) (c : Instr) : Bool :=
  ofPolder (polderOf h) c && (getPolder s (polderOf h)).any (·.resetting)

/-- The effect of a tide-launched command, by its opcode. -/
def applyOp (q : Queued) (h : Hdr) (s : State) : State :=
  let c := q.cmd
  match c with
  | .polderCreate _ _ _ _ _ _ _ => applyPolderCreate c h s
  | .polderDestroy _ => applyPolderDestroy c h s
  | .polderReset _ => applyPolderReset c h s
  | .setTokenBudget _ refill burst => applySetTokenBudget h refill burst s
  | .graphLoad _ handle _ _ len img => applyGraphLoad c h handle len img s
  | .graphUnload _ handle => applyGraphUnload c h handle s
  | .graphQueryPlacement _ handle buf => applyGraphQueryPlacement h handle buf s
  | .runAtTide _ handle run deadline _ descs fault => applyRunAtTide c h handle run deadline descs fault s
  | .runPeriodic _ handle run period deadline _ count descs fault =>
    applyRunPeriodic c h handle run period deadline count descs fault s
  | .streamBind _ rank port srcLocal handle unbind srcMod => applyStreamBind h rank port srcLocal handle unbind srcMod s
  | .runStop _ handle run => applyRunStop h handle run s
  | .modelVariantAdd _ handle v len img => applyModelVariantAdd c h handle v len img s
  | .requestSubmit _ handle v deadline len d => applyRequestSubmit c h q.tag q.intakeIx handle v deadline len d s
  | .requestCancel _ seq sluice => applyRequestCancel h seq sluice s
  | .commonsJoin _ group => applyCommonsJoin h group s
  | .codecSessionOpen _ kind profile width height interval k => applyCodecOpen c h kind profile width height interval k s
  | .codecSessionClose _ session => applyCodecClose h session s
  | .codecPicture _ session inLen _ _ out => applyCodecPicture c h q.tag session inLen out.len out.fault s
  | .setPhaseOp _ ops => applySetPhaseOp h ops s
  | .setPowerCap _ capW windowS leaseS orphanW => applySetPowerCap c capW windowS leaseS orphanW s
  | .safetyProfileSet _ share op => applySafetyProfileSet h share op s
  | .goldenSet _ handle digest => applyGoldenSet h handle digest s
  | .keyRotateMemory _ => applyKeyRotateMemory c h s
  | .keyRotateLink _ _ => applyKeyRotateLink c h s
  | .lifecycleAdvance _ target => applyLifecycleAdvance c h target s
  | .fwActivate _ condition overrun => applyFwActivate c h condition overrun s
  | .debugUnlock _ _ => applyDebugUnlock c h s
  | _ => s

/-- Apply a queued command at its edge: a function-level reset and a STOP_INTERFACE_REQUEST reset their polder. -/
def applyQueued (q : Queued) (s : State) : State :=
  match q.cmd with
  | .vfFunctionLevelReset p => resetPolder p false none false s
  | .stopInterfaceRequest p => resetPolder p false none true s
  | c => match hdrOf c with
    | some h =>
      if meetsReset s h c then finish h .polderReset .none [] s
      else if bounceStale c h s then finish h .badParam .bufferFault [] s
      else applyOp q h (noteBounce c h s)
    | none => s

/-- What becomes visible at an edge: an input, or a command that applies. -/
inductive Visible where
  | input (w : Waiting)
  | command (q : Queued)
deriving DecidableEq, Repr

/-- Its ordering tag (R57). -/
def visibleTag : Visible → Tag
  | .input w => w.tag
  | .command q => q.tag

/-- Insert in merge order, after every entry that it does not precede (R62). -/
def insertVisible (v : Visible) : List Visible → List Visible
  | [] => [v]
  | x :: r => if tagBefore (visibleTag v) (visibleTag x) then v :: x :: r else x :: insertVisible v r

def applyVisible (v : Visible) (s : State) : State :=
  match v with
  | .input w => deliverInput w s
  | .command q => applyQueued q s

/-- The inputs and the commands that become visible at the edge, in merge order (R62, R114). -/
def visibleAt (s : State) : List Visible :=
  ((s.tide.waiting.filter fun w => w.visibleIx ≤ s.tide.ix).map Visible.input ++
    (s.tide.queued.filter fun q => q.dueIx ≤ s.tide.ix).map Visible.command).foldl (fun acc v => insertVisible v acc) []

/-- Deliver the inputs and apply the commands of the edge, in merge order. -/
def mergeInputs (s : State) : State :=
  (visibleAt s).foldl (fun st v => applyVisible v st)
    { s with tide.waiting := s.tide.waiting.filter fun w => s.tide.ix < w.visibleIx
             tide.queued := s.tide.queued.filter fun q => s.tide.ix < q.dueIx }

/-! ## Effects that a command of the edge discards before they commit (R99, R116) -/

/-- Drop what a polder would commit at the edge. -/
def dropPolder (p : Nat) (s : State) : State :=
  let s := modPolder s p fun x =>
    { x with
      runs := x.runs.map fun r => (r.1, { r.2 with invs := [] })
      requests := x.requests.map fun r => { clearStep r with deadlineIx := none } }
  let close (c : Session) : Session := if c.polder = p then { c with closing := true } else c
  { s with codec.sessions := s.codec.sessions.map fun c => (c.1, close c.2) }

def dropPolders (s : State) : State := (polderNumbers s).foldl (fun st p => dropPolder p st) s

/-- What a command that applies at the edge discards. -/
def dropFor (c : Instr) (s : State) : State :=
  match c with
  | .runStop h handle run =>
    if (getRun s (polderOf h) run).any (·.handle = handle) then dropCommitting (polderOf h) run s else s
  | .requestCancel h seq sluice => cancelCommitting (polderOf h) sluice seq s
  | .codecSessionClose h session => markClosing (polderOf h) session s
  | .polderReset h => dropPolder (polderOf h) s
  | .polderDestroy h => dropPolder (polderOf h) s
  | .vfFunctionLevelReset p => dropPolder p s
  | .stopInterfaceRequest p => dropPolder p s
  | .debugUnlock _ _ => if activationBlocks s || 32 ≤ s.ident.debugUnlocks then s else dropPolders s
  | .lifecycleAdvance _ target =>
    if target = 3 && !activationBlocks s && transitionFault s target = none then dropPolders s else s
  | _ => s

/-- Discard what the commands of the edge discard. -/
def dropDue (s : State) : State :=
  (s.tide.queued.filter fun q => q.dueIx ≤ s.tide.ix).foldl (fun st q => dropFor q.cmd st) s

/-! ## Commit of the closing tide (R85, R111, R308, R332) -/

/-- The Class Q and Class B results that commit at the edge: polder, graph, tag, and the invocation (R284). -/
def committing (s : State) : List (Nat × Nat × Tag × Invocation) :=
  let ready (i : Invocation) : Bool := i.fail.isNone && i.finished.isSome && decide (i.commitIx ≤ s.tide.ix)
  s.work.polders.flatMap fun q =>
    if q.2.cls = .S then []
    else q.2.runs.flatMap fun r => (r.2.invs.filter ready).map fun i => (q.1, r.2.handle, resultTag s q.1 r.1, i)

/-- A result goes to the codec sessions that take it as their source (R284). -/
def feedResult (f : Nat × Nat × Tag × Invocation) (s : State) : State :=
  match getGraph s f.1 f.2.1 with
  | some g => feedSessions f.1 f.2.1 f.2.2.1 (portOutput g.img f.2.2.2) s
  | none => s

/-- The decisions on the closing tide, of the wardens and then of the golden runs: no majority, or two channels breached, or one
in DUAL mode, begin SAFE_HOLD before the tide closes, and it is discarded (R313, R314, R326, R332, R351, R352). -/
def decideClosing (s : State) : State :=
  let s := decideVotes s
  let s := if s.tide.discard then s else judgeGoldens s.tide.ix s
  let cs := s.work.breached.filter fun c => c ∈ liveChannels s
  if s.tide.discard || cs = [] || (cs.length = 1 && !s.work.dual) then s
  else enterHold 1 { s with work.breached := [] }

/-- Polders whose effects a check failure withheld start the next tide afresh, without the stores of the closed one; those of the
others stand (R158). -/
def clearWithheld (s : State) : State :=
  let s := (polderNumbers s).foldl (fun st p => if (getPolder st p).any (·.withheld) then undoStores p st else st) s
  { s with work.polders := s.work.polders.map fun q => (q.1, { q.2 with withheld := false, saved := [] }) }

/-- The tide that closes is discarded: nothing of it commits, and its fetches are made again (R118, R330, R332). -/
def discardTide (closed : Nat) (s : State) : State :=
  let s := dropInProgress closed (dropSteps (discardCodec (dropGoldens (undoAll s))))
  resumeSluices closed (newVotes { s with work.breached := [] })

/-- The tide that closes commits: the work of lost stacks is lost first; then results, serving steps and pictures, and the
channels and stacks that leave. -/
def commitTide (closed : Nat) (s : State) : State :=
  let s := loseStacks (dropDue s)
  let fed := committing s
  let s := commitCodec (commitServing (commitRuns (commitClassS closed s)))
  let s := fed.foldl (fun st f => feedResult f st) s
  let s := commitSluices s
  commitActivation (clearWithheld (newVotes (carryMoves s (settleChannels s))))

/-! ## Labels and period (R47 to R56) -/

/-- Answer a command if there is one. -/
def answerOpt (c : Option Instr) (st : Status) (payload : List Byte) (s : State) : State :=
  match c with
  | some c => finishCmd c st .none payload s
  | none => s

/-- The epoch record follows the epoch, and EPOCH_LOW what remains (R48, R51). -/
def noteEpoch (s : State) : State :=
  { s with
    flash.epochRec := if epochOf s.tide.count = epochOf s.tide.closedCount then s.flash.epochRec else epochOf s.tide.count
    tide.epochLow := decide (epochsRemaining s < 1000) }

/-- The grid's next edge: the count advances, unless it would pass its last value (R38, R47, R51). -/
def advanceLabel (s : State) : State :=
  { s with
    tide.ix := s.tide.ix + 1
    tide.nowQ := s.tide.nowQ + s.tide.periodQ
    tide.closedCount := s.tide.count
    tide.count := if s.tide.count + 1 < 281474976710656 then s.tide.count + 1 else s.tide.count
    tide.discard := false }

/-- The relabels whose edge has come: each moves the count forward (R55, R56). -/
def dueRelabels (s : State) : List Relabel := s.tide.relabels.filter fun r => r.firm && decide (r.atQ ≤ s.tide.nowQ)

/-- An input that arrived in the cycle of the edge bears the label of the tide that the edge opens (R60). -/
def retagWaiting (s : State) (w : Waiting) : Waiting :=
  if w.visibleIx = s.tide.ix + 1 && w.consumer.linked = false then
    { w with intakeCount := s.tide.count, tag := { w.tag with epoch := epochOf s.tide.count, tn := tnOf s.tide.count } }
  else w

/-- Apply the relabels of the edge, and answer their commands in the new labels. -/
def applyRelabels (s : State) : State :=
  let rs := dueRelabels s
  let count := rs.foldl (fun c r => max c r.count) s.tide.count
  let s' := { s with
    tide.count := count
    tide.labels := if count = s.tide.count then s.tide.labels else ((s.tide.ix, count) :: s.tide.labels).take 8
    tide.relabels := s.tide.relabels.filter fun r => s.tide.nowQ < r.atQ
    tide.waiting := s.tide.waiting.map (retagWaiting { s with tide.count := count }) }
  rs.foldl (fun st r => answerOpt r.cmd (if r.count ≤ s.tide.count then .badParam else .ok) [] st) (noteEpoch s')

/-- The golden offsets of the new period take effect (R476). -/
def takeOffsets (x : Polder) : Polder :=
  let move (g : Graph) : Graph := match g.goldenNew with
    | some o => { g with goldenNew := none, golden := g.golden.map fun y => { y with offset := o, doneSwell := none } }
    | none => g
  { x with graphs := x.graphs.map fun g => (g.1, move g.2) }

/-- The accepted period change, at its edge: that edge is the new origin and opens swell 0 (R38, R53, R54). -/
def changePeriod (s : State) : State :=
  match s.tide.change with
  | none => s
  | some c =>
    if s.tide.nowQ < c.atQ then s
    else if !c.firm then withdrawTide s
    else
      answerOpt c.cmd .ok (le 2 (epochOf s.tide.count) ++ le 2 0 ++ le 4 (tnOf s.tide.count))
        { s with
          tide.periodQ := c.periodQ
          tide.swellLen := c.swellLen
          tide.originQ := s.tide.nowQ
          tide.swellIx := s.tide.ix
          tide.change := none
          flash.recTide := ⟨s.flash.settingsFormat, c.periodQ, c.swellLen⟩
          work.polders := s.work.polders.map fun q => (q.1, takeOffsets q.2) }

/-- The tide marks of the edge, to both wardens (R40). -/
def sendMarks (relabel : Bool) (s : State) : State :=
  emit (.tideMark .B s.tide.count relabel) (emit (.tideMark .A s.tide.count relabel) s)

/-! ## Work of the tide that opens -/

/-- Ports of the wardens' port maps that are down, as the edge finds them (R319). -/
def notePorts (e : EdgeIn) (s : State) : State :=
  { s with wardens.a.portsDown := e.portsDown.1, wardens.b.portsDown := e.portsDown.2 }

/-- Deliveries that become possible with the edge: after a wake or a restart (R407, R408, R452). -/
def deliverPending (s : State) : State := if s.startup.dormant then s else deliverAll 1 (deliverAll 0 s)

/-- Power and heat at the edge, and the choice of the operating point (R363, R370, R375 to R377, R381). -/
def powerEdge (s : State) : State := countLadder (chooseOp (releaseBrake (stopCoolant s)))

/-- Work that leaves, arrives and launches in the tide that opens (R39, R95, R262, R290, R322, R350, R399, R459). -/
def launchEdge (s : State) : State :=
  let s := returnWardens (judgeDormant s)
  let s := carryMoves s (stepPromotion (switchMoves s))
  openCodec (placeGoldens (launchRuns (serveEdge (shedPictures s))))

/-- The tide opens: merge, keys and pages, power, launches, self-test ages, control frames. -/
def openTide (e : EdgeIn) (s : State) : State :=
  let s := mergeInputs { s with tide.inBand := false }
  let s := settleRotations (switchKeys (switchPages (retireRotations (runSweeps e.sweeps (refillBudgets s)))))
  let s := senseHeat e s
  if tripped s then enterHold 6 s
  else
    let s := launchEdge (powerEdge s)
    let s := if s.startup.dormant then s else judgeTiles s
    let s := deliverPending (sendControls (ownTarget s) s)
    { countAlign e.keeperOffsetNs s with fresh := s.fresh + 1 }

/-- An edge before the relaunch edge: nothing applies or launches, and the Class Q and Class B invocations that would launch
are skipped with their numbers (R330); golden windows that end here are skipped (R352). -/
def darkEdge (e : EdgeIn) (s : State) : State :=
  let s := e.hotspots.foldl takeReading (latchCoolant { s with tide.inBand := false })
  if tripped s then enterHold 6 s else countAlign e.keeperOffsetNs (placeGoldens (forRuns launchRun s))

/-! ## The relaunch edge (R329, R330, R384, R458) -/

/-- The main-package injections have passed (R344, R347). -/
def passInjections (s : State) : State :=
  { s with
    safety.injectionQ := s.tide.nowQ
    safety.items := (outsideItems.filter fun i => 0x41 ≤ i.1 && i.1 ≤ 0x49).foldl
      (fun t i => (List.range i.2).foldl (fun t k => tset t (32 * i.1 + k) ⟨0, some s.tide.nowQ⟩) t) s.safety.items }

/-- Every schedule record goes to the wardens again (R330). -/
def resendSchedules (s : State) : State :=
  forRuns (fun p r st => match getRun st p r with
    | some y => sendSchedule p r y st
    | none => st) s

/-- SAFE_HOLD ends at the relaunch edge where no trajectory is kept; else it waits for the run's first result (R329). -/
def holdRelaunch (s : State) : State :=
  if s.safety.hold.isNone then s
  else if (keptTrajectory s).isNone then endHold s
  else { s with safety.hold := s.safety.hold.map fun h => { h with relaunched := true } }

/-- The held completions and doorbells go out as the sluices resume (R118, R472). -/
def resumeHost (s : State) : State := releaseDoorbells (everyFn.foldl (fun st fn => flushFn fn st) s)

/-- The relaunch edge: clocks restart at OP0, Class S takes a new phase origin, and what fell due meanwhile ends. -/
def relaunch (s : State) : State :=
  let s := passInjections
    { s with
      safety.restart := none
      mem.selfRefresh := false
      host.hub0.fwHold := false
      host.hub1.fwHold := false
      power.op := 0
      power.coreMv := Config.coreMv 0
      power.staging := none
      power.raising := false
      power.forced := false
      power.sinceRise := 0 }
  if (okStacks s).length < 2 || (liveChannels s).length < 2 then enterHold 7 s
  else
    let s := relaunchActivation (holdRelaunch s)
    let s := commitServing (commitRuns (resendSchedules (rephaseClassS (restartPromotion (dropDue s)))))
    resumeHost (commitSluices s)

/-! ## TIDE_EDGE -/

/-- A restart or a pause is in progress, or the restart waits for the tide marks. -/
def restarting (s : State) : Bool := s.safety.restart.isSome || s.safety.hold.any (·.waitMarks)

/-- The phases of the restart have ended by the edge. -/
def phasesEnded (s : State) : Bool := s.safety.restart.any fun r => decide (r.endQ ≤ s.tide.nowQ)

/-- After the closing tide has committed or been discarded, the next one opens. -/
def openNext (e : EdgeIn) (s : State) : State :=
  if !s.tide.running then s
  else if !restarting s then openTide e s
  else if phasesEnded s then
    let s := relaunch s
    if s.tide.running then openTide e s else s
  else darkEdge e s

/-- An edge between two tides. A tide that closes under a restart has nothing to commit; one that is the last of the count
commits, and none follows (R51). -/
def nextEdge (e : EdgeIn) (s : State) : State :=
  let closed := s.tide.ix
  let idle := restarting s && !s.tide.discard
  let last := s.tide.count + 1 = 281474976710656
  let s := if restarting s || s.tide.discard then s else decideClosing s
  if !s.tide.running then s
  else
    let lost := s.tide.discard
    let s := settleTransfers (repace (beginGather (recordEnergy e (advanceLabel (runTraffic e.traffic s)))))
    let s := if last then s else
      let relabel := dueRelabels s ≠ []
      sendMarks relabel (changePeriod (applyRelabels s))
    let s := if lost then discardTide closed s else if idle then s else commitTide closed s
    let s := beginPause (notePorts e (countWindow s))
    endGather (if last then exhaust s else openNext e s)

/-- The count of the first tide: the one that an installation gives, or the next epoch with TN 0; none when no epoch is left
(R48, R50, R51). -/
def firstCount (s : State) : Option Nat :=
  (nextEpoch s).map fun e => match s.tide.join with
    | some j => j.count
    | none => e * 4294967296

/-- The grid of an installation that is joined: its period, and the swells counted from its origin (R4, R50, R53). -/
def adoptGrid (s : State) : State :=
  match s.tide.join with
  | some j =>
    { s with tide.ix := s.tide.ix + j.elapsed % s.tide.swellLen, tide.swellIx := s.tide.ix,
             tide.periodQ := j.periodQ, tide.join := none,
             tide.originQ := s.tide.originQ - min j.elapsed (s.tide.originQ / max j.periodQ 1) * j.periodQ }
  | none => { s with tide.swellIx := s.tide.ix }
/-- The first tide of a cold start opens at its origin (R38, R48, R50, R329, R451). -/
def openFirst (e : EdgeIn) (s : State) : State :=
  let s := if s.tide.bootStage < 8 then finishStages [true, true, true, true] s.tide.originQ none s else s
  match firstCount s with
  | none => exhaust s
  | some c =>
    let own := s.tide.epochNext
    let s := adoptGrid s
    let s :=
      { s with
        tide.running := true
        tide.bootStage := 9
        tide.count := c
        tide.closedCount := c
        tide.labels := [(s.tide.ix, c)]
        tide.bootEpoch := epochOf c
        tide.discard := false
        flash.epochRec := max s.flash.epochRec (epochOf c) }
    let s := advanceEpoch own { s with tide.epochLow := decide (epochsRemaining s < 1000) }
    let s := startScrub 64 .frames none false (wholeTier 2) (sendMarks false (holdRelaunch s))
    openTide e (notePorts e (releaseDoorbells (commitSluices s)))

/-- The TIME domain has lost its clock (R395). -/
def timeLost (s : State) : Bool := (tget s.clocks.domains 92).any (·.lost)

/-- TIDE_EDGE: no edge falls while the main package is down, its TIME clock is lost, or the module is decommissioned. -/
def execTideEdge (e : EdgeIn) (s : State) : Host.Outcome State Fault Refusal :=
  .next (
    if !mainUp s || timeLost s then s
    else if s.tide.running then nextEdge e s
    else if s.ident.lifecycle = .decommissioned || s.tide.exhausted then s
    else openFirst e s)

end Sys2Proof.Machine
end

