-- ==== Sys2Proof/Machine/Registers.lean ====
section
/-! DEFINITION. Machine/Registers.lean: reads and writes of the register map (R7 to R11, R52, R467 to R475), and the
host events of the interrupt hub and the PCIe link (R397, R398, R402 to R407). -/

namespace Sys2Proof.Machine

/-! ## The MSI-X table and pending-bit array (R404, R468, R470) -/

/-- Offset of a function's MSI-X table and of its pending-bit array. -/
def msixBase : Fn → Nat
  | .vf _ => 0xE000
  | _ => 0xFE000

/-- Unmask a vector: a pending interrupt is delivered (R404). -/
def unmaskVector (fn : Fn) (v : Nat) (s : State) : State :=
  let f := getFunc s fn
  let s1 := setFunc s fn
    { f with unmasked := if v ∈ f.unmasked then f.unmasked else v :: f.unmasked,
             msixPending := f.msixPending.filter (· ≠ v) }
  if v ∈ f.msixPending then emit (.msix fn v) s1 else s1

/-- A write into the MSI-X table; locked while the TDI is locked (R434). -/
def writeMsix (fn : Fn) (rel : Nat) (v : Word) (s : State) : State :=
  if tdiLocked s fn || 288 ≤ rel then s
  else if rel % 16 = 12 then
    if v.getLsbD 0 then
      let f := getFunc s fn
      setFunc s fn { f with unmasked := f.unmasked.filter (· ≠ rel / 16) }
    else unmaskVector fn (rel / 16) s
  else
    let f := getFunc s fn
    setFunc s fn { f with msixTable := tset f.msixTable rel v.toNat }

/-- A read of the MSI-X table. -/
def readMsix (f : Func) (rel : Nat) : Nat :=
  if rel % 16 = 12 then bitAt 0 (!(rel / 16 ∈ f.unmasked)) else (tget f.msixTable rel).getD 0

/-- The value at an offset of BAR0, the MSI-X structures included. -/
def readValue (s : State) (fn : Fn) (off : Nat) : Nat :=
  let b := msixBase fn
  if b ≤ off && off < b + 288 then readMsix (getFunc s fn) (off - b)
  else if off = b + 0x1000 then (getFunc s fn).msixPending.foldl (fun a v => a + 2 ^ v) 0
  else regValue s fn off

/-! ## Writes with behaviour -/

/-- A write of SEAL_STATUS: REARM is RWS, so a write without presence is recorded; with presence, a 1 clears
BROKEN while the seal senses intact (R9, R429). -/
def writeSeal (v : Word) (s : State) : State :=
  if !s.aon.presence then recordBreach 0x12 0 255 255 255 0 0x34 s
  else if v.getLsbD 1 && s.aon.sense then { s with aon.broken := false }
  else s

/-- W1C bits of SAG_STATUS. -/
def writeSag (v : Word) (s : State) : State :=
  { s with
    aon.sagSeen := s.aon.sagSeen && !v.getLsbD 1
    aon.trip48Seen := s.aon.trip48Seen && !v.getLsbD 2
    aon.auxAOffSeen := s.aon.auxAOffSeen && !v.getLsbD 5
    aon.auxBOffSeen := s.aon.auxBOffSeen && !v.getLsbD 6 }

/-- MOD_CTR_CLR (R474). -/
def clearModCounters (v : Word) (s : State) : State :=
  { s with
    tide.ordInvalid := if v.getLsbD 0 then 0 else s.tide.ordInvalid
    tide.ordLate := if v.getLsbD 1 then 0 else s.tide.ordLate
    tide.leveeDropped := if v.getLsbD 2 then 0 else s.tide.leveeDropped
    tide.deadDb := if v.getLsbD 3 then 0 else s.tide.deadDb }

/-- VF_CTR_CLR (R474). -/
def clearPolderCounters (p : Nat) (v : Word) (s : State) : State :=
  modPolder s p fun x =>
    { x with
      arithExc := if v.getLsbD 0 then 0 else x.arithExc
      ceSram := if v.getLsbD 1 then 0 else x.ceSram
      ceHbm := if v.getLsbD 2 then 0 else x.ceHbm
      ceSpill := if v.getLsbD 3 then 0 else x.ceSpill
      codecSkip := if v.getLsbD 4 then 0 else x.codecSkip }

/-- ARB_CLR: clear the selected input's counters, or those of all inputs (R194). -/
def writeArbClr (v : Word) (s : State) : State :=
  if 1057 < s.mem.arbInstance then s
  else
    let x := getArbiter s s.mem.arbInstance
    if v.getLsbD 1 then setArbiter s s.mem.arbInstance { x with counters := [] }
    else if v.getLsbD 0 then setArbiter s s.mem.arbInstance { x with counters := tdel x.counters s.mem.arbInput }
    else s

/-- SCR_CLR: the deny, conflict and collision counters of a scratchpad. -/
def writeScrClr (io : Nat) (v : Word) (s : State) : State :=
  let x := getScr s io
  let keep (base : Nat) (t : Table Nat) : Table Nat := t.filter fun p => !v.getLsbD (base + p.1)
  setScr s io { x with deny := if v.getLsbD 0 then 0 else x.deny,
                       conflicts := keep 1 x.conflicts, collisions := keep 7 x.collisions }

/-- A write to PWR_SLEEP: REFUSED is W1C; DORMANT 1 requests DORMANT, 0 withdraws a request or wakes the module
(R399, R400). -/
def writeSleep (v : Word) (s : State) : State :=
  let s := { s with startup.refused := s.startup.refused && !v.getLsbD 1 }
  if v.getLsbD 0 then
    if s.startup.dormant || s.startup.entering || s.startup.waking then s else { s with startup.dormantReq := true }
  else wakeEvent { s with startup.dormantReq := false }

/-- A write to IH_GLOBAL: releasing HOLD delivers every ready source in order (R407). -/
def writeIhGlobal (hub : Nat) (v : Word) (s : State) : State :=
  let s := setHub s hub { getHub s hub with hold := v.getLsbD 0 }
  if v.getLsbD 0 then s else deliverAll hub s

/-- The hub that serves a host target. -/
def targetHub (n : Nat) : Nat := if n < 64 then n / 32 else n - 64

/-- A write to IH_TGT_THRn or VF_IH_THR; target 65 exists only in bifurcated mode (R475). -/
def writeThreshold (n : Nat) (v : Word) (s : State) : State :=
  if n = 65 && !s.host.bifurcated then s
  else deliverAll (targetHub n) { s with host.tgtThr := tset s.host.tgtThr n (v.toNat % 16) }

/-- A write to IH_SRC_CFG, for the source that IH_SEL selects. -/
def writeSrcCfg (v : Word) (s : State) : State :=
  let hub := s.host.ihHub
  let src := s.host.ihSource
  let x := getSource s hub src
  let cc := max 1 (v.toNat / 16 % 256)
  let ct := min 1000 (max 1 (v.toNat / 4096 % 1024))
  let y : Source := { x with
    priority := if src < 594 then v.toNat % 16 else x.priority
    coalCount := cc, coalTime := ct, wake := v.getLsbD 23
    ready := x.ready || (x.count ≠ 0 && decide (cc ≤ x.count)) }
  deliver hub src (setSource s hub src y)

/-- A write to IH_PIN_FILTERn: below 2 sets 2; the filter of PWR_BRAKE_N is fixed (R405, R475). -/
def writePinFilter (n : Nat) (v : Word) (s : State) : State :=
  if n = 0 then s else { s with host.pinFilter := tset s.host.pinFilter n (max 2 (v.toNat % 256)) }

/-- A write to the arbiter registers. -/
def writeArb (k : Nat) (v : Word) (s : State) : State :=
  if k = 0 then { s with mem.arbInstance := v.toNat % 2048, mem.arbInput := v.toNat / 4096 % 16 }
  else if 1057 < s.mem.arbInstance then s
  else
    let x := getArbiter s s.mem.arbInstance
    if k = 1 then setArbiter s s.mem.arbInstance { x with threshold := max 64 (v.toNat % 65536) }
    else if k = 2 then setArbiter s s.mem.arbInstance { x with flags := x.flags.filter fun i => !v.getLsbD i }
    else if k = 3 then writeArbClr v s
    else s

/-- A write to a sluice's register block: the base registers only while the sluice is stopped and unlocked (R103). -/
def writeSlc (fn : Fn) (n off : Nat) (v : Word) (s : State) : State :=
  if off = 16 then writeSlcCfg fn n v s
  else if off = 20 then writeSlcStat fn n v s
  else if !ownsSluice s fn n || (getSluice s fn n).enable || tdiLocked s fn then s
  else
    let x := getSluice s fn n
    let lo (a : Word64) : Word64 := (a.extractLsb' 32 32) ++ (v &&& 0xFFFFF000)
    let hi (a : Word64) : Word64 := v ++ (a.extractLsb' 0 32)
    if off = 0 then setSluice s fn n { x with cmdBase := lo x.cmdBase }
    else if off = 4 then setSluice s fn n { x with cmdBase := hi x.cmdBase }
    else if off = 8 then setSluice s fn n { x with cplBase := lo x.cplBase }
    else if off = 12 then setSluice s fn n { x with cplBase := hi x.cplBase }
    else s

/-- A write into the global block (R468). -/
def writeGlobal (fn : Fn) (off : Nat) (v : Word) (s : State) : State :=
  if off = 0x34 then writeSeal v s
  else if off = 0x38 then writeSag v s
  else if off = 0x50 then clearModCounters v s
  else if 0x1000 ≤ off && off < 0x1200 then writeSlc fn ((off - 0x1000) / 32) (off % 32) v s
  else if 0x2000 ≤ off && off < 0x2040 then writeDoorbell fn ((off - 0x2000) / 4) v s
  else if off = 0x3000 then { s with host.ihSource := v.toNat % 2048, host.ihHub := v.toNat / 2048 % 2 }
  else if off = 0x3004 then writeSrcCfg v s
  else if off = 0x3008 then writeIhGlobal 0 v s
  else if off = 0x300C then writeIhGlobal 1 v s
  else if 0x3100 ≤ off && off < 0x3208 then writeThreshold ((off - 0x3100) / 4) v s
  else if 0x3300 ≤ off && off < 0x3340 then writePinFilter ((off - 0x3300) / 4) v s
  else if 0x4000 ≤ off && off < 0x4024 then writeArb ((off - 0x4000) / 4) v s
  else if 0x5000 ≤ off && off < 0x5200 then
    let io := (off - 0x5000) / 256
    let k := off % 256
    if k = 0 then setScr s io { getScr s io with rotate := BitVec.ofNat 8 (v.toNat % 64) }
    else if k = 12 then writeScrClr io v s
    else s
  else if off = 0x6000 then writeSleep v s
  else if off = 0x7000 then { s with power.thermSel := v.toNat % 256 }
  else if 0x8000 ≤ off && off < 0x8020 then
    let n := (off - 0x8000) / 4
    let x := getPort s n
    setPort s n { x with resent := x.resent && !v.getLsbD 12, lost := x.lost && !v.getLsbD 13 }
  else if 0xFE000 ≤ off && off < 0xFE120 then writeMsix fn (off - 0xFE000) v s
  else s

/-- A write into a polder's block (R470). -/
def writePolder (p off : Nat) (v : Word) (s : State) : State :=
  let fn := Fn.vf p
  if off = 0x120 then clearPolderCounters p v s
  else if off = 0x200 then writeThreshold p v s
  else if 0x1000 ≤ off && off < 0x1200 then writeSlc fn ((off - 0x1000) / 32) (off % 32) v s
  else if 0xE000 ≤ off && off < 0xE120 then writeMsix fn (off - 0xE000) v s
  else s

/-- Whether the offset is a doorbell register of the function. -/
def isDoorbell (off : Nat) : Bool := 0x2000 ≤ off && off < 0x2040 && off % 4 = 0

/-- A 32-bit write at an offset of a function's BAR0 (R9, R11, R467, R472). -/
def writeRegister (fn : Fn) (off : Nat) (v : Word) (s : State) : State :=
  if off % 4 ≠ 0 then s
  else if isDoorbell off then writeDoorbell fn ((off - 0x2000) / 4) v s
  else if !writable s fn then s
  else
    match fn with
    | .vf p => writePolder p off v s
    | _ => writeGlobal fn off v s

/-! ## Meanings of the register rows -/

/-- A read of `size` bytes: all ones while BAR0 is dark (R472); a _LO register captures its _HI value (R471); one that is not
an aligned 32-bit word returns zero and has no effect (R11). -/
def execTideNowLoRead (fn : Fn) (read : ReadIn) (s : State) : Host.Outcome State Fault Refusal :=
  .next (if !reachable s fn then s
    else if barDark s then emit (.busRead fn read.offset 0xFFFFFFFF) s
    else if read.size ≠ 4 then emit (.busRead fn read.offset 0) s
    else emit (.busRead fn read.offset (w32 (readValue s fn read.offset)))
      (if read.offset % 4 = 0 then capture s fn read.offset else s))

/-- REARM. `data.fitted`: a new seal has been fitted since the old one broke, so that SENSE reads 1 by now (R429). -/
def execRearm (data : RearmIn) (s : State) : Host.Outcome State Fault Refusal :=
  .next (
    let s := { s with aon.sense := s.aon.sense || data.fitted }
    if writable s .pf0 then writeSeal (data.value ||| 2) s else s)

def execModCtrClr (value : Word) (s : State) : Host.Outcome State Fault Refusal :=
  .next (if writable s .pf0 then clearModCounters value s else s)

def execVfCtrClr (p : Nat) (value : Word) (s : State) : Host.Outcome State Fault Refusal :=
  .next (if writable s (.vf p) then clearPolderCounters p value s else s)

def execArbClrClear (value : Word) (s : State) : Host.Outcome State Fault Refusal :=
  .next (if writable s .pf0 then writeArbClr (value ||| 1) s else s)

def execArbClrClearAll (value : Word) (s : State) : Host.Outcome State Fault Refusal :=
  .next (if writable s .pf0 then writeArbClr (value ||| 2) s else s)

def execScrClr (io : Nat) (value : Word) (s : State) : Host.Outcome State Fault Refusal :=
  .next (if writable s .pf0 then writeScrClr io value s else s)

def execDormantRequest (s : State) : Host.Outcome State Fault Refusal :=
  .next (if writable s .pf0 then writeSleep 1 s else s)

def execDormantWakeWrite (s : State) : Host.Outcome State Fault Refusal :=
  .next (if writable s .pf0 then writeSleep 0 s else s)

def execHoldSet (hub : Nat) (s : State) : Host.Outcome State Fault Refusal :=
  .next (if writable s .pf0 then writeIhGlobal hub 1 s else s)

def execHoldRelease (hub : Nat) (s : State) : Host.Outcome State Fault Refusal :=
  .next (if writable s .pf0 then writeIhGlobal hub 0 s else s)

/-- The bits of a register that a write of 1 clears (R7, R473 to R475). -/
def w1cMask (fn : Fn) (off : Nat) : Word :=
  if 0x1000 ≤ off && off < 0x1200 && off % 32 = 20 then 0xE000
  else if !isPf0 fn then 0
  else if off = 0x38 then 0x66
  else if off = 0x4008 then 0xFFFF
  else if off = 0x6000 then 2
  else if 0x8000 ≤ off && off < 0x8020 then 0x3000
  else 0

/-- A write of any register or field: one that is not an aligned 32-bit word is ignored (R11). `data.same` names the W1C bits that
hardware sets in the clock cycle of the write, which stay set (R8). -/
def execRegisterWrite (fn : Fn) (offset size : Nat) (data : WriteIn) (s : State) : Host.Outcome State Fault Refusal :=
  .next (if size = 4 then writeRegister fn offset (data.value &&& ~~~(data.same &&& w1cMask fn offset)) s else s)

/-- A write of a target threshold or a source priority (R402). -/
def execIhTgtThrWrite (fn : Fn) (offset : Nat) (value : Word) (s : State) : Host.Outcome State Fault Refusal :=
  .next (writeRegister fn offset value s)

/-! ## The interrupt hub -/

/-- Sources of the control cores that are pending, in claim order (R403). -/
def claimable (s : State) (hub core : Nat) : List Nat :=
  let h := getHub s hub
  let thr := (tget h.coreThr core).getD 0
  let top := ((tget h.running core).getD []).headD 0
  (readyCore s hub).filter fun k => decide (max thr top < (getSource s hub k).priority)
where
  readyCore (s : State) (hub : Nat) : List Nat :=
    ((getHub s hub).sources.filter fun p => p.2.ready && decide (594 ≤ p.1)).foldl
      (fun acc p => insertSource (fun k => (getSource s hub k).priority) p.1 acc) []

/-- INTERRUPT_CLAIM: the highest pending source above the threshold and the top of the running-priority stack
is returned and its priority pushed (R403). -/
def execInterruptClaim (hub core : Nat) (s : State) : Host.Outcome State Fault Refusal :=
  .next (match claimable s hub core with
    | [] => s
    | k :: _ =>
      let x := getSource s hub k
      let s := setSource s hub k { x with count := 0, ready := false }
      let h := getHub s hub
      emit (.coreInterrupt hub k)
        (setHub s hub { h with running := tset h.running core (x.priority :: (tget h.running core).getD []) }))

/-- END_OF_INTERRUPT: pop the stack; with the stack empty, count it (R403). -/
def execEndOfInterrupt (hub core : Nat) (s : State) : Host.Outcome State Fault Refusal :=
  .next (
    let h := getHub s hub
    match (tget h.running core).getD [] with
    | [] => setHub s hub { h with eoiIgnored := h.eoiIgnored + 1 }
    | _ :: r => setHub s hub { h with running := tset h.running core r })

/-- COALESCING_TIMER: a source with an undelivered event becomes deliverable (R406). -/
def execCoalescingTimer (hub source : Nat) (s : State) : Host.Outcome State Fault Refusal :=
  .next (
    let x := getSource s hub source
    if x.count = 0 || x.ready || s.startup.dormant then s
    else
      let s := setSource s hub source { x with ready := true }
      match sourceTarget hub source with
      | some _ => deliver hub source s
      | none => emit (.coreInterrupt hub source) s)

def execMsixUnmask (fn : Fn) (vector : Nat) (s : State) : Host.Outcome State Fault Refusal :=
  .next (if writable s fn && !tdiLocked s fn && decide (vector < 18) then unmaskVector fn vector s else s)

/-! ## The PCIe link (R397, R398) -/

/-- Every function that exists. -/
def allFns (s : State) : List Fn :=
  [.pf0] ++ (if s.host.bifurcated then [.pf0b] else []) ++ (List.range (min s.host.numVfs 64)).map Fn.vf

/-- Bus Master Enable of a function set, or the host link returned: held completions are written in order, and what the hubs
hold ready for the host leaves them. -/
def execBusMasterEnable (fn : Fn) (s : State) : Host.Outcome State Fault Refusal :=
  .next (
    if !mainUp s || !fnEnabled s fn then s
    else
      let s := setFunc { s with host.linkUp := true } fn { getFunc s fn with busMaster := true }
      deliverAll 1 (deliverAll 0 ((allFns s).foldl (fun st f => flushFn f st) s)))

/-- NumVFs written: virtual functions are enabled, and their sluices resume (R70, R398). -/
def execNumVfsEnable (n : Nat) (s : State) : Host.Outcome State Fault Refusal :=
  .next (
    if !mainUp s || 64 < n then s
    else
      let s := { s with host.numVfs := n }
      (allFns s).foldl (fun st f => flushFn f st) s)

/-- Configuration space and MSI-X table of a function at their reset. -/
def resetConfig (f : Func) : Func := { f with busMaster := false, unmasked := [], msixTable := [], msixPending := [] }

/-- A conventional reset: configuration space and MSI-X tables of every function (R397). -/
def execPcieConventionalReset (s : State) : Host.Outcome State Fault Refusal :=
  .next { s with host.numVfs := 0, host.funcs := s.host.funcs.map fun p => (p.1, resetConfig p.2) }

/-- A function-level reset of PF0: its configuration space, NumVFs with it, and its MSI-X table (R397). -/
def execPf0FunctionLevelReset (link : Nat) (s : State) : Host.Outcome State Fault Refusal :=
  .next (
    if link = 0 then setFunc { s with host.numVfs := 0 } .pf0 (resetConfig (getFunc s .pf0))
    else if s.host.bifurcated then setFunc s .pf0b (resetConfig (getFunc s .pf0b))
    else s)

/-- The host link goes down: fetches and completion writes are held (R398). -/
def execHostLinkDown (s : State) : Host.Outcome State Fault Refusal := .next { s with host.linkUp := false }

end Sys2Proof.Machine
end

