-- ==== Sys2Proof/Machine/Dispatch.lean ====
section
/-! DEFINITION. Machine/Dispatch.lean: one arm per command of the opcode table, each one call of its meaning. -/

namespace Sys2Proof.Machine

def exec (i : Instr) (s : State) : Host.Outcome State Fault Refusal :=
  match i with
  | .identify h => Sys2Proof.Machine.execIdentify h s
  | .setTide h periodQ swellLen => Sys2Proof.Machine.execSetTide h periodQ swellLen s
  | .setTimebase h source domain => Sys2Proof.Machine.execSetTimebase h source domain s
  | .getHealth h => Sys2Proof.Machine.execGetHealth h s
  | .polderCreate h cls sluices bwWeight sramMiB hbmUnits spillGiB => Sys2Proof.Machine.execPolderCreate h cls sluices bwWeight sramMiB hbmUnits spillGiB s
  | .polderDestroy h => Sys2Proof.Machine.execPolderDestroy h s
  | .polderReset h => Sys2Proof.Machine.execPolderReset h s
  | .polderQuery h => Sys2Proof.Machine.execPolderQuery h s
  | .setTokenBudget h refill burst => Sys2Proof.Machine.execSetTokenBudget h refill burst s
  | .graphLoad h handle t d imageLen img => Sys2Proof.Machine.execGraphLoad h handle t d imageLen img s
  | .graphUnload h handle => Sys2Proof.Machine.execGraphUnload h handle s
  | .graphQueryPlacement h handle buf => Sys2Proof.Machine.execGraphQueryPlacement h handle buf s
  | .runAtTide h handle run deadline descCount descs fault => Sys2Proof.Machine.execRunAtTide h handle run deadline descCount descs fault s
  | .runPeriodic h handle run period deadline descCount count descs fault => Sys2Proof.Machine.execRunPeriodic h handle run period deadline descCount count descs fault s
  | .streamBind h rank port srcLocal handle unbind srcMod => Sys2Proof.Machine.execStreamBind h rank port srcLocal handle unbind srcMod s
  | .runStop h handle run => Sys2Proof.Machine.execRunStop h handle run s
  | .modelVariantAdd h handle variant imageLen img => Sys2Proof.Machine.execModelVariantAdd h handle variant imageLen img s
  | .requestSubmit h handle variant deadline reqLen req => Sys2Proof.Machine.execRequestSubmit h handle variant deadline reqLen req s
  | .requestCancel h reqSeq reqSluice => Sys2Proof.Machine.execRequestCancel h reqSeq reqSluice s
  | .commonsJoin h group => Sys2Proof.Machine.execCommonsJoin h group s
  | .codecSessionOpen h kind profile width height interval cfg => Sys2Proof.Machine.execCodecSessionOpen h kind profile width height interval cfg s
  | .codecSessionClose h session => Sys2Proof.Machine.execCodecSessionClose h session s
  | .codecPicture h session inLen inAddr outAddr out => Sys2Proof.Machine.execCodecPicture h session inLen inAddr outAddr out s
  | .setPhaseOp h ops => Sys2Proof.Machine.execSetPhaseOp h ops s
  | .setPowerCap h capW windowS leaseS orphanW => Sys2Proof.Machine.execSetPowerCap h capW windowS leaseS orphanW s
  | .getTelemetry h buf => Sys2Proof.Machine.execGetTelemetry h buf s
  | .safetyProfileSet h sShare qAdmit => Sys2Proof.Machine.execSafetyProfileSet h sShare qAdmit s
  | .goldenSet h handle digest => Sys2Proof.Machine.execGoldenSet h handle digest s
  | .breachLogRead h first buf => Sys2Proof.Machine.execBreachLogRead h first buf s
  | .attest h nonce buf => Sys2Proof.Machine.execAttest h nonce buf s
  | .keyRotateMemory h => Sys2Proof.Machine.execKeyRotateMemory h s
  | .keyRotateLink h key => Sys2Proof.Machine.execKeyRotateLink h key s
  | .lifecycleAdvance h target => Sys2Proof.Machine.execLifecycleAdvance h target s
  | .fwStage h offset len last buf image => Sys2Proof.Machine.execFwStage h offset len last buf image s
  | .fwVerify h => Sys2Proof.Machine.execFwVerify h s
  | .fwActivate h condition overrun => Sys2Proof.Machine.execFwActivate h condition overrun s
  | .selftestReport h buf => Sys2Proof.Machine.execSelftestReport h buf s
  | .debugUnlock h scope => Sys2Proof.Machine.execDebugUnlock h scope s
  | .tidePreset h epoch tn => Sys2Proof.Machine.execTidePreset h epoch tn s
  | .linkConfig h portMask enableMask index => Sys2Proof.Machine.execLinkConfig h portMask enableMask index s
  | .linkStatus h port => Sys2Proof.Machine.execLinkStatus h port s
  | .sluiceEnable fn n value => Sys2Proof.Machine.execSluiceEnable fn n value s
  | .sluiceDisable fn n value => Sys2Proof.Machine.execSluiceDisable fn n value s
  | .doorbell fn n value => Sys2Proof.Machine.execDoorbell fn n value s
  | .cplOnly fn n value => Sys2Proof.Machine.execCplOnly fn n value s
  | .ringFaultClear fn n data => Sys2Proof.Machine.execRingFaultClear fn n data s
  | .tideNowLoRead fn read => Sys2Proof.Machine.execTideNowLoRead fn read s
  | .rearm data => Sys2Proof.Machine.execRearm data s
  | .modCtrClr value => Sys2Proof.Machine.execModCtrClr value s
  | .vfCtrClr p value => Sys2Proof.Machine.execVfCtrClr p value s
  | .arbClrClear value => Sys2Proof.Machine.execArbClrClear value s
  | .arbClrClearAll value => Sys2Proof.Machine.execArbClrClearAll value s
  | .scrClr io value => Sys2Proof.Machine.execScrClr io value s
  | .dormantRequest => Sys2Proof.Machine.execDormantRequest s
  | .dormantWakeWrite => Sys2Proof.Machine.execDormantWakeWrite s
  | .holdSet hub => Sys2Proof.Machine.execHoldSet hub s
  | .holdRelease hub => Sys2Proof.Machine.execHoldRelease hub s
  | .registerWrite fn offset size data => Sys2Proof.Machine.execRegisterWrite fn offset size data s
  | .interruptClaim hub core => Sys2Proof.Machine.execInterruptClaim hub core s
  | .endOfInterrupt hub core => Sys2Proof.Machine.execEndOfInterrupt hub core s
  | .msixUnmask fn vector => Sys2Proof.Machine.execMsixUnmask fn vector s
  | .busMasterEnable fn => Sys2Proof.Machine.execBusMasterEnable fn s
  | .numVfsEnable n => Sys2Proof.Machine.execNumVfsEnable n s
  | .pcieConventionalReset => Sys2Proof.Machine.execPcieConventionalReset s
  | .pf0FunctionLevelReset link => Sys2Proof.Machine.execPf0FunctionLevelReset link s
  | .vfFunctionLevelReset p => Sys2Proof.Machine.execVfFunctionLevelReset p s
  | .ringBusError fn n => Sys2Proof.Machine.execRingBusError fn n s
  | .presenceHoldTimeout => Sys2Proof.Machine.execPresenceHoldTimeout s
  | .presenceAssert => Sys2Proof.Machine.execPresenceAssert s
  | .presenceDeassert => Sys2Proof.Machine.execPresenceDeassert s
  | .buttonStuck => Sys2Proof.Machine.execButtonStuck s
  | .sealBreak => Sys2Proof.Machine.execSealBreak s
  | .glitchDetect clock => Sys2Proof.Machine.execGlitchDetect clock s
  | .wipeDone io => Sys2Proof.Machine.execWipeDone io s
  | .mateSenseOpen pin => Sys2Proof.Machine.execMateSenseOpen pin s
  | .switch48vClose boot => Sys2Proof.Machine.execSwitch48vClose boot s
  | .aonPowerOn w slotId => Sys2Proof.Machine.execAonPowerOn w slotId s
  | .auxWarn w tenMv => Sys2Proof.Machine.execAuxWarn w tenMv s
  | .auxWarnEnd w tenMv => Sys2Proof.Machine.execAuxWarnEnd w tenMv s
  | .auxOff w => Sys2Proof.Machine.execAuxOff w s
  | .auxRise w tenMv => Sys2Proof.Machine.execAuxRise w tenMv s
  | .sagWarn tenMv => Sys2Proof.Machine.execSagWarn tenMv s
  | .sagWarnEnd tenMv => Sys2Proof.Machine.execSagWarnEnd tenMv s
  | .trip48 tenMv => Sys2Proof.Machine.execTrip48 tenMv s
  | .supplyRestart boot => Sys2Proof.Machine.execSupplyRestart boot s
  | .brakeAssert => Sys2Proof.Machine.execBrakeAssert s
  | .brakeRelease => Sys2Proof.Machine.execBrakeRelease s
  | .coolantSample flow inlet outlet hotRise => Sys2Proof.Machine.execCoolantSample flow inlet outlet hotRise s
  | .flowWarning => Sys2Proof.Machine.execFlowWarning s
  | .flowWarningEnd => Sys2Proof.Machine.execFlowWarningEnd s
  | .flowBShed => Sys2Proof.Machine.execFlowBShed s
  | .flowBShedEnd => Sys2Proof.Machine.execFlowBShedEnd s
  | .coolantStop => Sys2Proof.Machine.execCoolantStop s
  | .coolantStopEnd => Sys2Proof.Machine.execCoolantStopEnd s
  | .coolantRestart boot => Sys2Proof.Machine.execCoolantRestart boot s
  | .thermalComparatorTrip hotspot a b => Sys2Proof.Machine.execThermalComparatorTrip hotspot a b s
  | .tideEdge e => Sys2Proof.Machine.execTideEdge e s
  | .timeAlignFault => Sys2Proof.Machine.execTimeAlignFault s
  | .leaseExpiry => Sys2Proof.Machine.execLeaseExpiry s
  | .rungClimb => Sys2Proof.Machine.execRungClimb s
  | .rungLift => Sys2Proof.Machine.execRungLift s
  | .powerModelMismatch => Sys2Proof.Machine.execPowerModelMismatch s
  | .sensorSuspect hotspot => Sys2Proof.Machine.execSensorSuspect hotspot s
  | .gptpSync port domain offsetNs => Sys2Proof.Machine.execGptpSync port domain offsetNs s
  | .syncTimeout => Sys2Proof.Machine.execSyncTimeout s
  | .clockMonitorFlag domain duringSwitch => Sys2Proof.Machine.execClockMonitorFlag domain duringSwitch s
  | .clockWatchdogExpiry domain => Sys2Proof.Machine.execClockWatchdogExpiry domain s
  | .judgeWindow osc ratioPpm => Sys2Proof.Machine.execJudgeWindow osc ratioPpm s
  | .rejudgeTimer osc => Sys2Proof.Machine.execRejudgeTimer osc s
  | .controlCoreWatchdog io core => Sys2Proof.Machine.execControlCoreWatchdog io core s
  | .inputArrival d => Sys2Proof.Machine.execInputArrival d s
  | .arithCheck polder run inv stack tile unit => Sys2Proof.Machine.execArithCheck polder run inv stack tile unit s
  | .uncorrectable polder tier tensor stack tile row error => Sys2Proof.Machine.execUncorrectable polder tier tensor stack tile row error s
  | .correctableError polder tier error => Sys2Proof.Machine.execCorrectableError polder tier error s
  | .arbiterStarvation inst input => Sys2Proof.Machine.execArbiterStarvation inst input s
  | .scratchpadAccess io accesses => Sys2Proof.Machine.execScratchpadAccess io accesses s
  | .scrubDone job => Sys2Proof.Machine.execScrubDone job s
  | .scrubPending fn sluice seq => Sys2Proof.Machine.execScrubPending fn sluice seq s
  | .keySweepDone p => Sys2Proof.Machine.execKeySweepDone p s
  | .kvCopyDone p sluice seq page => Sys2Proof.Machine.execKvCopyDone p sluice seq page s
  | .selftestSliceEnd stack tile item number passed => Sys2Proof.Machine.execSelftestSliceEnd stack tile item number passed s
  | .slicePreempt stack tile => Sys2Proof.Machine.execSlicePreempt stack tile s
  | .promotionCopyDone ok => Sys2Proof.Machine.execPromotionCopyDone ok s
  | .resultReady polder run channel payload => Sys2Proof.Machine.execResultReady polder run channel payload s
  | .voteFrame w f => Sys2Proof.Machine.execVoteFrame w f s
  | .voteCutoff w => Sys2Proof.Machine.execVoteCutoff w s
  | .verdict w lines => Sys2Proof.Machine.execVerdict w lines s
  | .segmentSent w port => Sys2Proof.Machine.execSegmentSent w port s
  | .wardenTideMark w count relabel late => Sys2Proof.Machine.execWardenTideMark w count relabel late s
  | .tideMarkMissing w => Sys2Proof.Machine.execTideMarkMissing w s
  | .fallbackPointRelease w => Sys2Proof.Machine.execFallbackPointRelease w s
  | .wardenBootDone w injectionOk => Sys2Proof.Machine.execWardenBootDone w injectionOk s
  | .wardenLockstepMismatch w => Sys2Proof.Machine.execWardenLockstepMismatch w s
  | .codecSliceDone session index payload rows => Sys2Proof.Machine.execCodecSliceDone session index payload rows s
  | .codecCore core => Sys2Proof.Machine.execCodecCore core s
  | .dormantEntryDone => Sys2Proof.Machine.execDormantEntryDone s
  | .dormantWake => Sys2Proof.Machine.execDormantWake s
  | .wardenTrialBoot w reachedVoting => Sys2Proof.Machine.execWardenTrialBoot w reachedVoting s
  | .cableDetect port cable => Sys2Proof.Machine.execCableDetect port cable s
  | .trainingTimeout port => Sys2Proof.Machine.execTrainingTimeout port s
  | .laneFailure port lane => Sys2Proof.Machine.execLaneFailure port lane s
  | .portDown port => Sys2Proof.Machine.execPortDown port s
  | .authFrame f => Sys2Proof.Machine.execAuthFrame f s
  | .authRetry peer => Sys2Proof.Machine.execAuthRetry peer s
  | .dataFrame f => Sys2Proof.Machine.execDataFrame f s
  | .controlFrame f => Sys2Proof.Machine.execControlFrame f s
  | .peerFailed member => Sys2Proof.Machine.execPeerFailed member s
  | .codewordUncorrectable port => Sys2Proof.Machine.execCodewordUncorrectable port s
  | .keySwitchTimeout peer => Sys2Proof.Machine.execKeySwitchTimeout peer s
  | .attestSigned fn => Sys2Proof.Machine.execAttestSigned fn s
  | .breachLogFlush => Sys2Proof.Machine.execBreachLogFlush s
  | .getMeasurements fn nonce => Sys2Proof.Machine.execGetMeasurements fn nonce s
  | .ideKm fn stream => Sys2Proof.Machine.execIdeKm fn stream s
  | .lockInterfaceRequest p => Sys2Proof.Machine.execLockInterfaceRequest p s
  | .getDeviceInterfaceReport p => Sys2Proof.Machine.execGetDeviceInterfaceReport p s
  | .stopInterfaceRequest p => Sys2Proof.Machine.execStopInterfaceRequest p s
  | .ideIntegrityFailure p => Sys2Proof.Machine.execIdeIntegrityFailure p s
  | .spdmSessionEnd fn => Sys2Proof.Machine.execSpdmSessionEnd fn s
  | .readVin addr => Sys2Proof.Machine.execReadVin addr s
  | .readIin addr => Sys2Proof.Machine.execReadIin addr s
  | .readTemperature1 addr => Sys2Proof.Machine.execReadTemperature1 addr s
  | .readTemperature2 addr => Sys2Proof.Machine.execReadTemperature2 addr s
  | .readPin addr => Sys2Proof.Machine.execReadPin addr s
  | .tapInstruction code => Sys2Proof.Machine.execTapInstruction code s
  | .dbgSelect seq target => Sys2Proof.Machine.execDbgSelect seq target s
  | .dbgHalt seq => Sys2Proof.Machine.execDbgHalt seq s
  | .dbgResume seq => Sys2Proof.Machine.execDbgResume seq s
  | .dbgStep seq arg => Sys2Proof.Machine.execDbgStep seq arg s
  | .dbgBreakSet seq slot addr => Sys2Proof.Machine.execDbgBreakSet seq slot addr s
  | .dbgBreakClear seq slot => Sys2Proof.Machine.execDbgBreakClear seq slot s
  | .dbgSetAddr seq space addr => Sys2Proof.Machine.execDbgSetAddr seq space addr s
  | .dbgRead seq => Sys2Proof.Machine.execDbgRead seq s
  | .dbgWrite seq data => Sys2Proof.Machine.execDbgWrite seq data s
  | .dbgStatus seq => Sys2Proof.Machine.execDbgStatus seq s
  | .breakpointHit target slot stepEnd pc => Sys2Proof.Machine.execBreakpointHit target slot stepEnd pc s
  | .admissionDecision plans => Sys2Proof.Machine.execAdmissionDecision plans s
  | .quantumEnd q => Sys2Proof.Machine.execQuantumEnd q s
  | .edgeBand => Sys2Proof.Machine.execEdgeBand s
  | .codecPictureDone codedBytes planes found refs order head => Sys2Proof.Machine.execCodecPictureDone codedBytes planes found refs order head s
  | .trainingStepDone port => Sys2Proof.Machine.execTrainingStepDone port s
  | .hopAcknowledgement port count => Sys2Proof.Machine.execHopAcknowledgement port count s
  | .lossOfSignal domain => Sys2Proof.Machine.execLossOfSignal domain s
  | .signalReturn domain => Sys2Proof.Machine.execSignalReturn domain s
  | .buttonRelease => Sys2Proof.Machine.execButtonRelease s
  | .coalescingTimer hub source => Sys2Proof.Machine.execCoalescingTimer hub source s
  | .ihTgtThrWrite fn offset value => Sys2Proof.Machine.execIhTgtThrWrite fn offset value s
  | .hostLinkDown => Sys2Proof.Machine.execHostLinkDown s
  | .keyExchange fn => Sys2Proof.Machine.execKeyExchange fn s
  | .challenge fn nonce => Sys2Proof.Machine.execChallenge fn nonce s
  | .startInterfaceRequest p => Sys2Proof.Machine.execStartInterfaceRequest p s
  | .fwStageDone => Sys2Proof.Machine.execFwStageDone s
  | .fwVerifyDone => Sys2Proof.Machine.execFwVerifyDone s

end Sys2Proof.Machine
end

