-- ==== Sys2Proof/Safety.lean ====
section
/-! DEFINITION. Safety.lean: what holds of every state of a safe run, and the conditions and places in which the statements
speak: a command that passes its arrival checks, a sluice that can be written, what a step leaves alone. -/

namespace Sys2Proof.Safety
open Sys2Proof.Machine

/-- Byte memory is in its canonical form: addresses ascending, no entry that reads as an unlisted one. -/
def MemoryCanonical (s : State) : Prop := memWf s.mem.cells = true

/-- A step that stops a run. -/
def Stops (s : State) : Prop := ∀ t, step s ≠ .next t

/-- The state once a command's slot has been taken and step 1 of R112 passed: CMD_HEAD has moved on, a first and a final
completion are owed, and the SEQ is the sluice's last. -/
def taken (c : Instr) (h : Hdr) (s : State) : State := setPrev h (takeSlot h (isLight c) s)

/-- The state in which a command applied on arrival has its effect: its SEQ is marked applied, its bounce record accepted. -/
def applying (c : Instr) (h : Hdr) (s : State) : State := noteBounce c h (markApplied h (taken c h s))

/-- A sluice command may be fetched now, is new, and passes every arrival check, with presence where it needs it (R102 to
R118, R126). -/
structure Arrives (c : Instr) (h : Hdr) (s : State) : Prop where
  header : hdrOf c = some h
  fetches : mayFetch s h = true
  inOrder : seqFault (getSluice s h.fn h.sluice) h.seq = none
  unapplied : h.seq ∉ (getSluice s h.fn h.sluice).applied
  unheld : alreadyHeld s h = false
  checked : ∀ i, opInfo c = some i → arrivalFault (taken c h s) c i h = none
  ownPolder : ∀ i, opInfo c = some i → ownResetting (taken c h s) i h = false
  present : ∀ i, opInfo c = some i → i.gated = true → (taken c h s).aon.presence = true
  bounced : ∀ i, opInfo c = some i → i.arrival = true → bounceStale c h (taken c h s) = false

/-- A completion of the sluice is written at once: no edge gathers completions, it is in turn, the ring takes records, nothing is
held, and the function's bus can be used (R106, R107, R117, R398). -/
structure Writable (fn : Fn) (n : Nat) (seq : Word) (s : State) : Prop where
  outsideEdge : s.host.gathering = false
  turn : outOfTurn s (getSluice s fn n) seq = false
  ring : (getSluice s fn n).ringFault = false
  bounce : (getSluice s fn n).bounceStopped = false
  nothingHeld : (getSluice s fn n).heldCpl = []
  bus : busOk s fn = true
  quiet : (getSluice s fn n).irqEn = false

/-- A queued sluice command has its effect at its edge: its polder is not being reset, and its bounce records rise above the
last accepted (R99, R436). -/
structure AppliesAt (q : Queued) (h : Hdr) (s : State) : Prop where
  header : hdrOf q.cmd = some h
  notReset : meetsReset s h q.cmd = false
  bounced : bounceStale q.cmd h s = false

/-- The state in which it has that effect: its bounce record is accepted. -/
def atEdge (q : Queued) (h : Hdr) (s : State) : State := noteBounce q.cmd h s

/-- The life-cycle moves that one step may make: none back to BLANK, none out of DECOMMISSIONED. -/
def lifecycleMoves (a b : Lifecycle) : Prop := b = a ∨ (b ≠ .blank ∧ a ≠ .decommissioned)

/-- The commands whose effect may write byte memory or a fuse: the edge, an admission decision, a quantum's end, the ends of a
page's copy, of a key sweep and of a scrub, an uncorrectable error of a copy that can be written again, accesses of a scratchpad
and of the debug transport, what wipes a secure part, and a cold start. -/
def writesCells : Instr → Bool
  | .tideEdge .. | .quantumEnd .. | .scratchpadAccess .. | .dbgWrite .. | .scrubDone .. => true
  | .admissionDecision .. | .kvCopyDone .. | .keySweepDone .. | .uncorrectable .. => true
  | .sealBreak | .glitchDetect .. | .presenceAssert | .clockMonitorFlag .. => true
  | .switch48vClose .. | .supplyRestart .. | .coolantRestart .. => true
  | _ => false

end Sys2Proof.Safety
end

