-- ==== Sys2Proof/Certificates/Slice0/Obligations.lean ====
section
/-! DEFINITION. Certificates/Slice0/Obligations.lean: the statements for the provers. A statement about a next state says
`exec c s = .next t` with the t that the rules give; its hypotheses are on the state and the operands alone. -/

open Sys2Proof Sys2Proof.Machine Sys2Proof.Safety

/-! ## The queue and the machine -/

/-- Each step takes the command at the front of the queue and runs it on the state with the queue's rest. -/
def Obligations.StepRunsFront : Prop :=
  ∀ (c : Instr) (r : List Instr) (s : State), step { s with pending := c :: r } = exec c { s with pending := r }

/-- A step takes the front of the queue and nothing else, so n waiting commands are gone after n steps: no command reads or
writes the queue of those that wait. On an empty queue it idles (the model's choice, log 2). Rests on the model's choices of log
2. -/
def Obligations.StepTakesOne : Prop :=
  ∀ s : State, (s.pending = [] → step s = .next s) ∧ (∀ t, step s = .next t → t.pending = s.pending.tail)

/-- Every command answers a next state: the block neither faults nor refuses (its errors are completions, bits and log entries).
Rests on the model's choices of log 13. -/
def Obligations.EveryCommandAnswers : Prop := ∀ (c : Instr) (s : State), ∃ t, exec c s = .next t

/-! ## Invariants -/

/-- Byte memory stays in its canonical form: every step from a state that has it leads to one that has it. Rests on the model's
choices of log 52. -/
def Obligations.MemoryCanonicalKept : Prop :=
  ∀ (s t : State), MemoryCanonical s → step s = .next t → MemoryCanonical t

/-- Byte memory is in its canonical form after reset. Rests on the model's choices of log 52. -/
def Obligations.MemoryCanonicalAtReset : Prop := MemoryCanonical State.reset

/-- Fuses only advance: no step takes the life cycle back to BLANK or out of DECOMMISSIONED, clears the decommission fuse, or
lowers the entries to SERVICE, the debug unlocks or the anti-rollback counter. -/
def Obligations.FusesOnlyAdvance : Prop :=
  ∀ (s t : State), step s = .next t →
    lifecycleMoves s.ident.lifecycle t.ident.lifecycle ∧
    (s.ident.decommissionFuse = true → t.ident.decommissionFuse = true) ∧
    s.ident.serviceEntries ≤ t.ident.serviceEntries ∧
    s.ident.debugUnlocks ≤ t.ident.debugUnlocks ∧
    s.ident.antiRollback ≤ t.ident.antiRollback

/-- A decommissioned module stays decommissioned through any number of steps, whatever is commanded. -/
def Obligations.DecommissionedForGood : Prop :=
  ∀ (n : Nat) (run : Nat → State), (∀ k < n, step (run k) = .next (run (k + 1))) →
    (run 0).ident.lifecycle = .decommissioned → (run n).ident.lifecycle = .decommissioned

/-! ## Byte memory -/

/-- Bytes read as they were last written, and every byte outside the written run reads as before. A line of SRAM whose written
bit is clear reads zero; the first write to a line sets its bit for its holder and leaves its other bytes zero; a later write
leaves them as they were. No byte outside the line changes. Rests on the model's choices of log 52. -/
def Obligations.LinesZeroUntilWritten : Prop :=
  (∀ (m : List Host.Cell) (a : Nat) (bs : List Byte), memWf m = true →
    readBytes (writeBytes m a bs) a bs.length = bs ∧
    (∀ y, y < a ∨ a + bs.length ≤ y → readByte (writeBytes m a bs) y = readByte m y)) ∧
  ∀ (holder a : Nat) (bs : List Byte) (s : State), MemoryCanonical s → a % 64 + bs.length ≤ 64 →
    (tget s.mem.written (a / 64) = none → sramRead s a = 0) ∧
    (∀ y, 64 * (a / 64) ≤ y → y < 64 * (a / 64) + 64 → y < a ∨ a + bs.length ≤ y →
      sramRead (sramWrite holder a bs s) y = sramRead s y) ∧
    tget (sramWrite holder a bs s).mem.written (a / 64) = some holder ∧
    (∀ k, k < bs.length → sramRead (sramWrite holder a bs s) (a + k) = bs.getD k 0) ∧
    (∀ y, y / 64 ≠ a / 64 → readByte (sramWrite holder a bs s).mem.cells y = readByte s.mem.cells y)


/-- The frame of every command that stores nothing: but for the edge, an admission decision, a quantum's end, the ends of a
page's copy, of a key sweep and of a scrub, an uncorrectable error, accesses of a scratchpad and of the debug transport, what
wipes a secure part, and a cold start, no command writes a byte of memory or a fuse, or moves the life cycle. -/
def Obligations.FewCommandsStore : Prop :=
  ∀ (c : Instr) (s t : State), writesCells c = false → exec c s = .next t →
    t.mem.cells = s.mem.cells ∧ t.ident.lifecycle = s.ident.lifecycle ∧
    t.ident.decommissionFuse = s.ident.decommissionFuse ∧ t.ident.serviceEntries = s.ident.serviceEntries ∧
    t.ident.debugUnlocks = s.ident.debugUnlocks ∧ t.ident.antiRollback = s.ident.antiRollback
/-! ## Labels and order -/

/-- A TN alone names the tide with that TN nearest the present one, so that a forward target lies at most 2^31 − 1 tides ahead;
only the two tides at a distance of 2^31 name none (R67). -/
def Obligations.TnNamesNearestTide : Prop :=
  ∀ now t : Nat, t < 4294967296 →
    match resolveTn now t with
    | some r => r % 4294967296 = t ∧ (∀ q : Int, q % 4294967296 = t → (r - now).natAbs ≤ (q - now).natAbs) ∧
      r - now ≤ 2147483647
    | none => ((t : Int) - now) % 4294967296 = 2147483648

/-- Merge order: of two different tags of tides, sources and SEQs that can be compared, exactly one comes before the other; and
tags of one source and tide whose SEQs span fewer than 2^31 come in the order of their distance from the first (R68). -/
def Obligations.MergeOrderTotal : Prop :=
  (∀ a b : Tag, a.tn < 4294967296 → b.tn < 4294967296 → a.srcLocal < 32768 → b.srcLocal < 32768 →
    ¬ (tagBefore a b = true ∧ tagBefore b a = true) ∧
    (a ≠ b → b.seq - a.seq ≠ 2147483648 → tagBefore a b = true ∨ tagBefore b a = true)) ∧
  (∀ (a : Tag) (first x y : Word), (x - first).toNat < 2147483648 → (y - first).toNat < 2147483648 →
    (tagBefore { a with seq := x } { a with seq := y } = true ↔ serialLt x y = true) ∧
    (serialLt x y = true ↔ (x - first).toNat < (y - first).toNat))

/-! ## Sluice commands -/

/-- A final completion that can be written goes into the next slot with SEQ, STATUS, FINAL, REASON, the present tide's label,
the opcode, the sluice's phase and its DROPPED mark; CPL_TAIL advances, the phase flips at the wrap, what the command was owed
is settled, the sluice notes which command's record it wrote last (the model's own field, log 74), and nothing else of the state
changes. Rests on the model's choices of logs 55, 74. -/
def Obligations.CompletionTakesNextSlot : Prop :=
  ∀ (h : Hdr) (st : Status) (r : Reason) (payload : List Byte) (s : State), Writable h.fn h.sluice h.seq s →
    finish h st r payload s =
      { s with
        out := .completion h.fn h.sluice (getSluice s h.fn h.sluice).cplTail
          { seq := h.seq, status := st, phase := (getSluice s h.fn h.sluice).phase, final := true, lateInput := false,
            shed := false, dropped := (getSluice s h.fn h.sluice).dropped, held := false, opcode := h.opcode,
            epoch := s.tide.count / 4294967296, tn := s.tide.count % 4294967296, reason := r,
            payload := payload.take 16 ++ List.replicate (16 - payload.length) 0 } :: s.out
        host.sluices := tset s.host.sluices (sluiceKey h.fn h.sluice)
          { getSluice s h.fn h.sluice with
            cplTail := ((getSluice s h.fn h.sluice).cplTail + 1) % 2 ^ (getSluice s h.fn h.sluice).sizeLog2
            phase := if ((getSluice s h.fn h.sluice).cplTail + 1) % 2 ^ (getSluice s h.fn h.sluice).sizeLog2 = 0
              then !(getSluice s h.fn h.sluice).phase else (getSluice s h.fn h.sluice).phase
            dropped := false
            owed := settle h.seq true (getSluice s h.fn h.sluice).owed
            lastPut := some (s.tide.ix, commandNo (getSluice s h.fn h.sluice) h.seq) } }

/-- The first command of a sluice since it was enabled may carry any SEQ. A fetched command whose SEQ repeats the sluice's last,
or does not follow it, completes with ST_BAD_PARAM and SEQ_REPEAT or SEQ_ORDER, and the sluice keeps its last SEQ; one that
fails a later check does change it (R113). -/
def Obligations.SeqCheckedFirst : Prop :=
  ∀ (c : Instr) (h : Hdr) (i : OpInfo) (s : State), hdrOf c = some h → opInfo c = some i → mayFetch s h = true →
    ((getSluice s h.fn h.sluice).prevSeq = none → seqFault (getSluice s h.fn h.sluice) h.seq = none) ∧
    (∀ p, (getSluice s h.fn h.sluice).prevSeq = some p →
      (h.seq = p → exec c s = .next (finish h .badParam .seqRepeat [] (takeSlot h false s))) ∧
      (h.seq ≠ p → ¬ (h.seq - p).toNat < 2147483648 →
        exec c s = .next (finish h .badParam .seqOrder [] (takeSlot h false s))) ∧
      (∀ r, (getSluice (finish h .badParam r [] (takeSlot h false s)) h.fn h.sluice).prevSeq = some p)) ∧
    (∀ st r, seqFault (getSluice s h.fn h.sluice) h.seq = none → h.seq ∉ (getSluice s h.fn h.sluice).applied →
      alreadyHeld s h = false → arrivalFault (taken c h s) c i h = some (st, r) →
      ∃ t, exec c s = .next t ∧ (getSluice t h.fn h.sluice).prevSeq = some h.seq)

/-- A fetched command in order that fails one of the other arrival checks completes with that check's status and reason, and has
no other effect than its slot's. Rests on the model's choices of log 57. -/
def Obligations.ArrivalFaultEnds : Prop :=
  ∀ (c : Instr) (h : Hdr) (i : OpInfo) (s : State) (st : Status) (r : Reason),
    hdrOf c = some h → opInfo c = some i → mayFetch s h = true →
    seqFault (getSluice s h.fn h.sluice) h.seq = none → h.seq ∉ (getSluice s h.fn h.sluice).applied → alreadyHeld s h = false →
    arrivalFault (taken c h s) c i h = some (st, r) →
    exec c s = .next (finish h st r [] (taken c h s))

/-- A presence-gated command that passes its checks without presence: it is held with HELD set in its first completion; a second
one, or one with NOWAIT, is refused. Rests on the model's choices of log 20. -/
def Obligations.PresenceHolds : Prop :=
  ∀ (c : Instr) (h : Hdr) (i : OpInfo) (s : State),
    hdrOf c = some h → opInfo c = some i → i.gated = true → mayFetch s h = true →
    seqFault (getSluice s h.fn h.sluice) h.seq = none → h.seq ∉ (getSluice s h.fn h.sluice).applied → alreadyHeld s h = false →
    arrivalFault (taken c h s) c i h = none → ownResetting (taken c h s) i h = false → (taken c h s).aon.presence = false →
    (∀ o, (taken c h s).aon.held = some o →
      exec c s = .next (finish h .notPermitted .presenceBusy [] (taken c h s))) ∧
    ((taken c h s).aon.held = none → h.nowait = true →
      exec c s = .next (finish h .presenceRequired .presenceTimeout [] (taken c h s))) ∧
    ((taken c h s).aon.held = none → h.nowait = false →
      exec c s = .next (post h.fn h.sluice { completion s h .accepted false .none [] with held := true }
        { taken c h s with aon.held := some ⟨c, s.tide.ix⟩ }))

/-- Every tide-launched command that passes its arrival is answered ST_ACCEPTED and queued with its intake and its edge: the
next one, or its target's. The commands are POLDER_CREATE, POLDER_DESTROY, POLDER_RESET, SET_TOKEN_BUDGET, GRAPH_LOAD,
GRAPH_UNLOAD, GRAPH_QUERY_PLACEMENT, RUN_AT_TIDE, RUN_PERIODIC, STREAM_BIND, RUN_STOP, MODEL_VARIANT_ADD, REQUEST_SUBMIT,
REQUEST_CANCEL, COMMONS_JOIN, CODEC_SESSION_OPEN, CODEC_SESSION_CLOSE, CODEC_PICTURE, SET_PHASE_OP, SET_POWER_CAP,
SAFETY_PROFILE_SET, GOLDEN_SET, KEY_ROTATE of either key, LIFECYCLE_ADVANCE, FW_ACTIVATE and DEBUG_UNLOCK. Rests on the model's
choices of log 14. -/
def Obligations.TideLaunchedQueued : Prop :=
  ∀ (c : Instr) (h : Hdr) (i : OpInfo) (s : State), opInfo c = some i → i.arrival = false → Arrives c h s →
    exec c s = .next
      { accept h (taken c h s) with
        tide.queued := s.tide.queued ++
          [(⟨c, s.tide.ix,
            if h.targetValid then max (s.tide.ix + 1)
              (s.tide.ix + (h.targetTn.toNat + 4294967296 - s.tide.count % 4294967296) % 4294967296)
            else s.tide.ix + 1,
            tagOf s h⟩ : Queued)] }

/-- The reports that are made on arrival: IDENTIFY, GET_HEALTH, POLDER_QUERY of a polder that exists, and LINK_STATUS complete
with ST_OK and their payload; GET_HEALTH also clears what it reports of SAFE_HOLD. -/
def Obligations.ReportsComplete : Prop :=
  ∀ (h : Hdr) (s : State),
    (Arrives (.identify h) h s → exec (.identify h) s = .next (finish h .ok .none
      (le 4 s.ident.fwVersion ++ le 2 s.ident.fleet ++ le 1 (if s.ident.cabinet then 0x43 else 0x56) ++
        le 1 (lifecycleCode s.ident.lifecycle) ++ le 2 (s.flash.index.getD 0) ++ le 6 s.ident.serial)
      (applying (.identify h) h s))) ∧
    (Arrives (.getHealth h) h s → exec (.getHealth h) s = .next (finish h .ok .none
      (le 4 (healthFlags (applying (.getHealth h) h s)) ++ le 1 (timeStateCode s.time.state) ++ le 1 s.power.op ++
        le 2 (epochsRemaining s) ++ le 4 s.safety.log.length ++ le 2 s.ident.rilamMin ++ le 2 s.ident.rilamMax)
      { applying (.getHealth h) h s with host.safeHoldSeen := false })) ∧
    (∀ x, getPolder s (polderOf h) = some x → Arrives (.polderQuery h) h s → exec (.polderQuery h) s =
      .next (queryPolder h (applying (.polderQuery h) h s))) ∧
    (∀ port, Arrives (.linkStatus h port) h s → exec (.linkStatus h port) s = .next (finish h .ok .none
      (le 1 (getPort s port).state ++ le 1 (getPort s port).lanes ++ le 2 (getPort s port).peer ++
        le 4 (min (getPort s port).replayDrops 4294967295) ++ le 4 (min (getPort s port).frameErrors 4294967295))
      (applying (.linkStatus h port) h s)))

/-- The reports that go to a host buffer: GET_TELEMETRY with 648 bytes or more, BREACH_LOG_READ with room for an entry that
there is, and SELFTEST_REPORT with room for all of it write the buffer and complete with ST_OK. Rests on the model's choices of
logs 55, 59. -/
def Obligations.BufferReportsComplete : Prop :=
  ∀ (h : Hdr) (buf : Buf) (s : State), buf.fault = false →
    (648 ≤ buf.len → Arrives (.getTelemetry h buf) h s →
      exec (.getTelemetry h buf) s = .next (finish h .ok .none (telemetryPayload (applying (.getTelemetry h buf) h s))
        (hostWrite h.fn buf.addr (telemetry (applying (.getTelemetry h buf) h s)) (applying (.getTelemetry h buf) h s)))) ∧
    (∀ first b rest, 32 ≤ buf.len → readableBreaches (applying (.breachLogRead h first buf) h s) (askerOf h.fn) first = b :: rest →
      Arrives (.breachLogRead h first buf) h s →
      exec (.breachLogRead h first buf) s = .next (finish h .ok .none
        (le 4 ((b :: rest).take (buf.len / 32)).length ++ le 4 (match ((b :: rest).drop (buf.len / 32)).head? with
          | some d => d.index
          | none => s.safety.nextIndex))
        (hostWrite h.fn buf.addr (((b :: rest).take (buf.len / 32)).flatMap (breachBytes (isPf0 h.fn)))
          (applying (.breachLogRead h first buf) h s)))) ∧
    ((selftestBytes (applying (.selftestReport h buf) h s)).length ≤ buf.len → Arrives (.selftestReport h buf) h s →
      exec (.selftestReport h buf) s = .next (finish h .ok .none (le 4 (failedTests (applying (.selftestReport h buf) h s)))
        (hostWrite h.fn buf.addr (selftestBytes (applying (.selftestReport h buf) h s)) (applying (.selftestReport h buf) h s))))

/-- The reports have the lengths that the layouts give: telemetry 64 bytes and 4 for each of 146 hotspots, the attestation
report 64 + 56 + 128 + 400 + 24 + 1,032 + 384 + 35,664 bytes, each breach-log entry 32 bytes, and the self-test report 32 bytes
and 8 for each entry. -/
def Obligations.ReportLengths : Prop :=
  ∀ (s : State) (fn : Fn) (nonce : BitVec 256) (pf0 : Bool) (b : Breach),
    (telemetry s).length = 648 ∧
    (attestReport s fn nonce).length = 64 + 56 + 128 + 400 + 24 + 1032 + 384 + 35664 ∧
    (breachBytes pf0 b).length = 32 ∧
    (selftestBytes s).length = 32 + 8 * (selftestRows s).length

/-- The commands applied on arrival that change something: SET_TIMEBASE writes its record and selects its source; ATTEST
captures the report and is answered ST_ACCEPTED while the security engine signs; FW_STAGE takes the bank's verification away and
queues its chunk; FW_VERIFY is queued; LINK_CONFIG configures its ports; SET_TIDE and TIDE_PRESET schedule their change, and a
module with linked members forwards it to them first, unfirm until they answer. Rests on the model's choices of logs 23, 47. -/
def Obligations.ArrivalEffects : Prop :=
  ∀ (h : Hdr) (s : State),
    (∀ src dom, Arrives (.setTimebase h src dom) h s → exec (.setTimebase h src dom) s =
      .next (arriveSetTimebase h src dom (applying (.setTimebase h src dom) h s)) ∧
      (arriveSetTimebase h src dom s).flash.recTime = ⟨s.flash.settingsFormat, src, dom⟩) ∧
    (∀ nonce buf, reportLength ≤ buf.len → signingBusy s h.fn = false → Arrives (.attest h nonce buf) h s →
      exec (.attest h nonce buf) s = .next (accept h
        (setFunc (applying (.attest h nonce buf) h s) h.fn
          { getFunc s h.fn with
            signing := some ⟨.attest h nonce buf, s.tide.ix⟩
            captured := attestReport (applying (.attest h nonce buf) h s) h.fn nonce }))) ∧
    (∀ offset len last buf image, s.startup.activation = none → offset + len ≤ 64 * 1024 * 1024 → buf.fault = false →
      Arrives (.fwStage h offset len last buf image) h s → exec (.fwStage h offset len last buf image) s = .next (accept h
        { applying (.fwStage h offset len last buf image) h s with
          flash.verified := false
          startup.staging := s.startup.staging ++ [.fwStage h offset len last buf image] })) ∧
    (s.startup.activation = none → Arrives (.fwVerify h) h s → exec (.fwVerify h) s = .next (accept h
      { applying (.fwVerify h) h s with startup.verifying := s.startup.verifying ++ [.fwVerify h] })) ∧
    (∀ pm em index, s.ident.debugOpen = false → Arrives (.linkConfig h pm em index) h s → exec (.linkConfig h pm em index) s =
      .next (arriveLinkConfig h pm em index (applying (.linkConfig h pm em index) h s))) ∧
    (∀ q w, members s = [] → tideRefusal (applying (.setTide h q w) h s) q w = none → Arrives (.setTide h q w) h s →
      exec (.setTide h q w) s =
        .next (accept h (acceptTide q w (some (.setTide h q w)) true (applying (.setTide h q w) h s)))) ∧
    (∀ q w, members s ≠ [] → tideRefusal (applying (.setTide h q w) h s) q w = none → Arrives (.setTide h q w) h s →
      exec (.setTide h q w) s = .next (accept h (forwardCmd (.setTide h q w) (.setTide q w)
        (acceptTide q w none false (applying (.setTide h q w) h s))))) ∧
    (∀ e n, members s = [] → Arrives (.tidePreset h e n) h s →
      s.tide.count + tidesTo s (secondAfter s) < e * 4294967296 + n →
      exec (.tidePreset h e n) s = .next (acceptOnce h
        { applying (.tidePreset h e n) h s with
          tide.relabels := s.tide.relabels ++
            [(⟨e * 4294967296 + n, secondAfter s, some (.tidePreset h e n), true⟩ : Relabel)] })) ∧
    (∀ e n, members s ≠ [] → Arrives (.tidePreset h e n) h s →
      s.tide.count + tidesTo s (secondAfter s) < e * 4294967296 + n →
      exec (.tidePreset h e n) s = .next (acceptOnce h (forwardCmd (.tidePreset h e n) (.tidePreset e n)
        { applying (.tidePreset h e n) h s with
          tide.relabels := s.tide.relabels ++ [(⟨e * 4294967296 + n, secondAfter s, none, false⟩ : Relabel)] })))


/-! ## Sluice registers -/

/-- A write that enables a stopped sluice takes SIZE_LOG2, DEV_MEM (both as they stand while the TDI is locked) and IRQ_EN and,
where size and bounce buffers are permitted, starts it afresh: heads and tails 0, PHASE 1, no previous SEQ (CPL_HEAD 0 is the
model's choice, log 68); where they are not, CFG_ERROR is set and it stays stopped. A write of ENABLE 0 stops a sluice that owes
nothing; any other write to a running sluice only sets IRQ_EN, one of ENABLE 0 to a stopped sluice only the three fields, and
one to a sluice that the function does not own, or that cannot be made, changes nothing. Rests on the model's choices of log 68.
-/
def Obligations.SluiceStartsAndStops : Prop :=
  ∀ (fn : Fn) (n : Nat) (v : Word) (s : State),
    (writable s fn = false ∨ ownsSluice s fn n = false →
      exec (.sluiceEnable fn n v) s = .next s ∧ exec (.sluiceDisable fn n v) s = .next s) ∧
    (writable s fn = true → ownsSluice s fn n = true →
      (∀ (size : Nat) (dev : Bool), (getSluice s fn n).enable = false →
        size = (if tdiLocked s fn then (getSluice s fn n).sizeLog2 else v.toNat / 16 % 16) →
        dev = (if tdiLocked s fn then (getSluice s fn n).devMem else v.getLsbD 8) →
        (4 ≤ size → size ≤ 12 → (dev = true → bounceOk s fn = true) →
          exec (.sluiceEnable fn n v) s = .next (setSluice s fn n
            { getSluice s fn n with
              enable := true, sizeLog2 := size, devMem := dev, irqEn := v.getLsbD 9,
              cmdHead := 0, cmdTail := 0, cplHead := 0, cplTail := 0, phase := true, prevSeq := none,
              committedHead := 0, committedSeq := none, applied := [], bounceCounter := 0 })) ∧
        (size < 4 ∨ 12 < size ∨ (dev = true ∧ bounceOk s fn = false) →
          exec (.sluiceEnable fn n v) s = .next (setSluice s fn n
            { getSluice s fn n with sizeLog2 := size, devMem := dev, irqEn := v.getLsbD 9, cfgError := true })) ∧
        exec (.sluiceDisable fn n v) s = .next (setSluice s fn n
          { getSluice s fn n with sizeLog2 := size, devMem := dev, irqEn := v.getLsbD 9 })) ∧
      ((getSluice s fn n).enable = true →
        exec (.sluiceEnable fn n v) s = .next (setSluice s fn n { getSluice s fn n with irqEn := v.getLsbD 9 }) ∧
        ((getSluice s fn n).owed = [] → exec (.sluiceDisable fn n v) s = .next (setSluice s fn n
          { getSluice s fn n with enable := false, irqEn := v.getLsbD 9, bounceStopped := false })) ∧
        ((getSluice s fn n).owed ≠ [] → exec (.sluiceDisable fn n v) s = .next (setSluice s fn n
          { getSluice s fn n with irqEn := v.getLsbD 9 }))))

/-- Doorbells. An enabled sluice: one whose head is a slot, and whose tail is one that does not lie behind the ring's, moves
CMD_TAIL and CPL_HEAD; one that names no slot or a tail behind sets DB_ERROR and moves nothing; with CPL_ONLY only CPL_HEAD
moves, and only a head that is no slot sets DB_ERROR. A doorbell that moves something wakes a module in DORMANT, or makes one
that is entering DORMANT wake after it, and only that. One to a sluice that is disabled or not the function's changes nothing,
nor does one of a function that cannot be reached. While BAR0 is dark a doorbell is latched; one of a polder that does not
exist, or is being destroyed, counts in DEAD_DB. -/
def Obligations.DoorbellMovesRing : Prop :=
  ∀ (fn : Fn) (n : Nat) (v : Word) (s : State),
    (reachable s fn = false → exec (.doorbell fn n v) s = .next s ∧ exec (.cplOnly fn n v) s = .next s) ∧
    (reachable s fn = true → barDark s = false → polderGone s fn = false →
      (ownsSluice s fn n = false ∨ (getSluice s fn n).enable = false →
        exec (.doorbell fn n v) s = .next s ∧ exec (.cplOnly fn n v) s = .next s) ∧
      (ownsSluice s fn n = true → (getSluice s fn n).enable = true →
        (v.toNat / 65536 % 4096 < sluiceSize (getSluice s fn n) → v.toNat % 4096 < sluiceSize (getSluice s fn n) →
          ((getSluice s fn n).cmdTail + sluiceSize (getSluice s fn n) - (getSluice s fn n).cmdHead)
              % sluiceSize (getSluice s fn n)
            ≤ (v.toNat % 4096 + sluiceSize (getSluice s fn n) - (getSluice s fn n).cmdHead) % sluiceSize (getSluice s fn n) →
          exec (.doorbell fn n v) s = .next (wakeEvent (setSluice s fn n
            { getSluice s fn n with cmdTail := v.toNat % 4096, cplHead := v.toNat / 65536 % 4096 }))) ∧
        (sluiceSize (getSluice s fn n) ≤ v.toNat / 65536 % 4096 ∨ sluiceSize (getSluice s fn n) ≤ v.toNat % 4096 ∨
            (v.toNat % 4096 + sluiceSize (getSluice s fn n) - (getSluice s fn n).cmdHead) % sluiceSize (getSluice s fn n)
              < ((getSluice s fn n).cmdTail + sluiceSize (getSluice s fn n) - (getSluice s fn n).cmdHead)
                % sluiceSize (getSluice s fn n) →
          exec (.doorbell fn n v) s = .next (setSluice s fn n { getSluice s fn n with dbError := true })) ∧
        (v.toNat / 65536 % 4096 < sluiceSize (getSluice s fn n) →
          exec (.cplOnly fn n v) s = .next (wakeEvent (setSluice s fn n
            { getSluice s fn n with cplHead := v.toNat / 65536 % 4096 }))) ∧
        (sluiceSize (getSluice s fn n) ≤ v.toNat / 65536 % 4096 →
          exec (.cplOnly fn n v) s = .next (setSluice s fn n { getSluice s fn n with dbError := true })))) ∧
    (reachable s fn = true → barDark s = true →
      exec (.doorbell fn n v) s = .next { s with host.latchedDb := s.host.latchedDb ++ [(fn, n, v &&& 0x7FFFFFFF)] } ∧
      exec (.cplOnly fn n v) s = .next { s with host.latchedDb := s.host.latchedDb ++ [(fn, n, v ||| 0x80000000)] }) ∧
    (reachable s fn = true → barDark s = false → polderGone s fn = true →
      exec (.doorbell fn n v) s = .next { s with tide.deadDb := min (s.tide.deadDb + 1) 4294967295 } ∧
      exec (.cplOnly fn n v) s = .next { s with tide.deadDb := min (s.tide.deadDb + 1) 4294967295 }) ∧
    (s.startup.dormant = false → s.startup.entering = false → wakeEvent s = s) ∧
    (s.startup.dormant = true → wakeEvent s = { s with startup.waking := true, startup.dormantReq := false }) ∧
    (s.startup.dormant = false → s.startup.entering = true →
      wakeEvent s = { s with startup.wakeLater := true, startup.dormantReq := false })

/-- RING_FAULT: a bus error of an enabled sluice sets it and raises the function's fault vector, and that of a disabled one does
nothing. Writing 1 clears it, with the other error bits that the write names, but for those that hardware sets in the cycle of
the write; unless the fault remains, or the bounce buffers or the bus hold the sluice up, the held completions are then written
in the order of their commands, each with the tide of writing. Rests on the model's choices of log 53. -/
def Obligations.RingFaultSetAndCleared : Prop :=
  ∀ (fn : Fn) (n : Nat) (v same : Word) (s : State), ownsSluice s fn n = true →
    ((getSluice s fn n).enable = true → exec (.ringBusError fn n) s =
      .next (raiseVector fn 16 (setSluice s fn n { getSluice s fn n with ringFault := true }))) ∧
    ((getSluice s fn n).enable = false → exec (.ringBusError fn n) s = .next s) ∧
    (writable s fn = false → exec (.ringFaultClear fn n ⟨v, same⟩) s = .next s) ∧
    (writable s fn = true →
      (same.getLsbD 13 = true ∧ (getSluice s fn n).ringFault = true ∨ (getSluice s fn n).bounceStopped = true ∨
          busOk s fn = false →
        exec (.ringFaultClear fn n ⟨v, same⟩) s = .next (setSluice s fn n
          { getSluice s fn n with
            ringFault := (getSluice s fn n).ringFault && same.getLsbD 13
            dbError := (getSluice s fn n).dbError && !(v.getLsbD 14 && !same.getLsbD 14)
            cfgError := (getSluice s fn n).cfgError && !(v.getLsbD 15 && !same.getLsbD 15) })) ∧
      (((getSluice s fn n).ringFault && same.getLsbD 13) = false → (getSluice s fn n).bounceStopped = false →
          busOk s fn = true →
        exec (.ringFaultClear fn n ⟨v, same⟩) s = .next
          (((getSluice s fn n).heldCpl.foldl (fun l c => insertHeld (getSluice s fn n) c l) []).foldl
            (fun st c => writeRecord fn n (stampTide s c) st) (setSluice s fn n
              { getSluice s fn n with
                ringFault := false
                dbError := (getSluice s fn n).dbError && !(v.getLsbD 14 && !same.getLsbD 14)
                cfgError := (getSluice s fn n).cfgError && !(v.getLsbD 15 && !same.getLsbD 15)
                heldCpl := [] }))))

/-! ## Registers -/

/-- Reads: TIDE_NOW_LO answers the TN and captures the epoch of the same tide, which a later read of TIDE_NOW_HI by the same
function answers until TIDE_NOW_LO is read again, whatever the tide is by then (R52); every aligned 32-bit read answers the
register's value as a bus read; a read of another size answers zero and captures nothing, a read while BAR0 is dark answers all
ones and captures nothing, and one of a function that cannot be reached has no answer. -/
def Obligations.RegisterReads : Prop :=
  ∀ (fn : Fn) (s : State),
    (reachable s fn = false → ∀ off size, exec (.tideNowLoRead fn ⟨off, size⟩) s = .next s) ∧
    (reachable s fn = true → barDark s = false →
      (∀ off, exec (.tideNowLoRead fn ⟨off, 4⟩) s = .next
        (emit (.busRead fn off (w32 (readValue s fn off))) (if off % 4 = 0 then capture s fn off else s))) ∧
      (∀ off size, size ≠ 4 → exec (.tideNowLoRead fn ⟨off, size⟩) s = .next (emit (.busRead fn off 0) s)) ∧
      (isPf0 fn = true → exec (.tideNowLoRead fn ⟨0x24, 4⟩) s = .next
        (emit (.busRead fn 0x24 (w32 (s.tide.count % 4294967296)))
          (setFunc s fn { getFunc s fn with capTide := some (w32 (s.tide.count / 4294967296)) }))) ∧
      (isPf0 fn = false → exec (.tideNowLoRead fn ⟨0x10, 4⟩) s = .next
        (emit (.busRead fn 0x10 (w32 (s.tide.count % 4294967296)))
          (setFunc s fn { getFunc s fn with capTide := some (w32 (s.tide.count / 4294967296)) }))) ∧
      (∀ off, (if isPf0 fn then off ≠ 0x24 ∧ ¬ (0x10000 ≤ off ∧ off < 0x50000 ∧ off % 4096 = 0x10) else off ≠ 0x10) →
        (getFunc (capture s fn off) fn).capTide = (getFunc s fn).capTide) ∧
      (∀ hi, (getFunc s fn).capTide = some hi → isPf0 fn = true →
        exec (.tideNowLoRead fn ⟨0x28, 4⟩) s = .next (emit (.busRead fn 0x28 hi) s)) ∧
      (∀ hi, (getFunc s fn).capTide = some hi → isPf0 fn = false →
        exec (.tideNowLoRead fn ⟨0x14, 4⟩) s = .next (emit (.busRead fn 0x14 hi) s))) ∧
    (reachable s fn = true → barDark s = true → ∀ off size, exec (.tideNowLoRead fn ⟨off, size⟩) s = .next (emit (.busRead fn off 0xFFFFFFFF) s))

/-- Writes: a write that is not an aligned 32-bit word, or that cannot be made (the function is not reached, BAR0 is dark, the
polder is gone) anywhere but at a doorbell, changes nothing; IH_SEL, THERM_SEL, ARB_SEL, SCR_ROTATE, the arbiter's threshold (at
least 64) and the pin filters (at least 2, filter 0 fixed) take the fields of the value; SAG_STATUS clears the bits written 1
that hardware does not set in the same cycle; a target threshold (of a polder through its own block; the 66th only in bifurcated
mode) is written and its hub then delivers what may now be delivered. -/
def Obligations.RegisterWrites : Prop :=
  ∀ (fn : Fn) (v same : Word) (s : State),
    (∀ off size, size ≠ 4 ∨ off % 4 ≠ 0 → exec (.registerWrite fn off size ⟨v, same⟩) s = .next s) ∧
    (∀ off, writable s fn = false → isDoorbell off = false →
      exec (.registerWrite fn off 4 ⟨v, same⟩) s = .next s ∧ exec (.ihTgtThrWrite fn off v) s = .next s) ∧
    (isPf0 fn = true → writable s fn = true →
      exec (.registerWrite fn 0x3000 4 ⟨v, same⟩) s =
        .next { s with host.ihSource := v.toNat % 2048, host.ihHub := v.toNat / 2048 % 2 } ∧
      exec (.registerWrite fn 0x7000 4 ⟨v, same⟩) s = .next { s with power.thermSel := v.toNat % 256 } ∧
      exec (.registerWrite fn 0x38 4 ⟨v, same⟩) s = .next { s with
        aon.sagSeen := s.aon.sagSeen && !(v.getLsbD 1 && !same.getLsbD 1)
        aon.trip48Seen := s.aon.trip48Seen && !(v.getLsbD 2 && !same.getLsbD 2)
        aon.auxAOffSeen := s.aon.auxAOffSeen && !(v.getLsbD 5 && !same.getLsbD 5)
        aon.auxBOffSeen := s.aon.auxBOffSeen && !(v.getLsbD 6 && !same.getLsbD 6) } ∧
      exec (.registerWrite fn 0x4000 4 ⟨v, same⟩) s =
        .next { s with mem.arbInstance := v.toNat % 2048, mem.arbInput := v.toNat / 4096 % 16 } ∧
      (s.mem.arbInstance ≤ 1057 → exec (.registerWrite fn 0x4004 4 ⟨v, same⟩) s = .next (setArbiter s s.mem.arbInstance
        { getArbiter s s.mem.arbInstance with threshold := max 64 (v.toNat % 65536) })) ∧
      (∀ io, io < 2 → exec (.registerWrite fn (0x5000 + 256 * io) 4 ⟨v, same⟩) s =
        .next (setScr s io { getScr s io with rotate := BitVec.ofNat 8 (v.toNat % 64) })) ∧
      exec (.registerWrite fn 0x3300 4 ⟨v, same⟩) s = .next s ∧
      (∀ n, 1 ≤ n → n < 16 → exec (.registerWrite fn (0x3300 + 4 * n) 4 ⟨v, same⟩) s =
        .next { s with host.pinFilter := tset s.host.pinFilter n (max 2 (v.toNat % 256)) }) ∧
      (∀ n, n < 65 ∨ n = 65 ∧ s.host.bifurcated = true → exec (.ihTgtThrWrite fn (0x3100 + 4 * n) v) s =
        .next (deliverAll (targetHub n) { s with host.tgtThr := tset s.host.tgtThr n (v.toNat % 16) })) ∧
      (s.host.bifurcated = false → exec (.ihTgtThrWrite fn 0x3204 v) s = .next s)) ∧
    (∀ p, p < 64 → writable s (.vf p) = true → exec (.ihTgtThrWrite (.vf p) 0x200 v) s =
      .next (deliverAll (p / 32) { s with host.tgtThr := tset s.host.tgtThr p (v.toNat % 16) }))

/-- The clearing writes: each counter whose bit is 1 becomes 0 and no other changes; ARB_CLR clears the selected input's
counters, or every input's; SCR_CLR the deny, conflict and collision counters; REARM clears BROKEN with presence asserted and
the seal intact (a new one may have been fitted), and without presence is a breach-log entry. Where the function's registers
cannot be written, only the fitting of a seal is seen. Rests on the model's choices of logs 25, 53. -/
def Obligations.ClearingWrites : Prop :=
  ∀ (v : Word) (s : State),
    (writable s .pf0 = true →
      exec (.modCtrClr v) s = .next { s with
        tide.ordInvalid := if v.getLsbD 0 then 0 else s.tide.ordInvalid
        tide.ordLate := if v.getLsbD 1 then 0 else s.tide.ordLate
        tide.leveeDropped := if v.getLsbD 2 then 0 else s.tide.leveeDropped
        tide.deadDb := if v.getLsbD 3 then 0 else s.tide.deadDb } ∧
      (1057 < s.mem.arbInstance → exec (.arbClrClearAll v) s = .next s ∧ exec (.arbClrClear v) s = .next s) ∧
      (s.mem.arbInstance ≤ 1057 →
        exec (.arbClrClearAll v) s = .next (setArbiter s s.mem.arbInstance { getArbiter s s.mem.arbInstance with counters := [] }) ∧
        (v.getLsbD 1 = true → exec (.arbClrClear v) s =
          .next (setArbiter s s.mem.arbInstance { getArbiter s s.mem.arbInstance with counters := [] })) ∧
        (v.getLsbD 1 = false → exec (.arbClrClear v) s = .next (setArbiter s s.mem.arbInstance
          { getArbiter s s.mem.arbInstance with
            counters := tdel (getArbiter s s.mem.arbInstance).counters s.mem.arbInput }))) ∧
      (∀ io, exec (.scrClr io v) s = .next (setScr s io { getScr s io with
        deny := if v.getLsbD 0 then 0 else (getScr s io).deny
        conflicts := (getScr s io).conflicts.filter fun p => !v.getLsbD (1 + p.1)
        collisions := (getScr s io).collisions.filter fun p => !v.getLsbD (7 + p.1) })) ∧
      (∀ fitted, s.aon.presence = true → s.aon.sense = true ∨ fitted = true →
        exec (.rearm ⟨v, fitted⟩) s = .next { s with aon.sense := true, aon.broken := false }) ∧
      (s.aon.presence = true → s.aon.sense = false → exec (.rearm ⟨v, false⟩) s = .next s) ∧
      (∀ fitted, s.aon.presence = false → exec (.rearm ⟨v, fitted⟩) s =
        .next (recordBreach 0x12 0 255 255 255 0 0x34 { s with aon.sense := s.aon.sense || fitted }))) ∧
    (writable s .pf0 = false →
      exec (.modCtrClr v) s = .next s ∧ exec (.arbClrClearAll v) s = .next s ∧ exec (.arbClrClear v) s = .next s ∧
      (∀ io, exec (.scrClr io v) s = .next s) ∧
      (∀ fitted, exec (.rearm ⟨v, fitted⟩) s = .next { s with aon.sense := s.aon.sense || fitted })) ∧
    (∀ p, writable s (.vf p) = false → exec (.vfCtrClr p v) s = .next s) ∧
    (∀ p, writable s (.vf p) = true → exec (.vfCtrClr p v) s = .next (modPolder s p fun x =>
      { x with
        arithExc := if v.getLsbD 0 then 0 else x.arithExc
        ceSram := if v.getLsbD 1 then 0 else x.ceSram
        ceHbm := if v.getLsbD 2 then 0 else x.ceHbm
        ceSpill := if v.getLsbD 3 then 0 else x.ceSpill
        codecSkip := if v.getLsbD 4 then 0 else x.codecSkip }))

/-- DORMANT is requested by writing 1 to PWR_SLEEP while the module is awake, and withdrawn by writing 0; a write of 0 in
DORMANT begins the wake, and one during entry the wake after it; a request in DORMANT, or on the way into or out of it, and a
write that cannot be made, change nothing. Rests on the model's choices of log 48. -/
def Obligations.DormantRequested : Prop :=
  ∀ s : State,
    (writable s .pf0 = false → exec .dormantRequest s = .next s ∧ exec .dormantWakeWrite s = .next s) ∧
    (writable s .pf0 = true →
      (s.startup.dormant = false → s.startup.entering = false → s.startup.waking = false →
        exec .dormantRequest s = .next { s with startup.dormantReq := true }) ∧
      (s.startup.dormant = true ∨ s.startup.entering = true ∨ s.startup.waking = true →
        exec .dormantRequest s = .next s) ∧
      (s.startup.dormant = false → s.startup.entering = false →
        exec .dormantWakeWrite s = .next { s with startup.dormantReq := false }) ∧
      (s.startup.dormant = true →
        exec .dormantWakeWrite s = .next { s with startup.dormantReq := false, startup.waking := true }) ∧
      (s.startup.dormant = false → s.startup.entering = true →
        exec .dormantWakeWrite s = .next { s with startup.dormantReq := false, startup.wakeLater := true }))


/-! ## The interrupt hub -/

/-- An event of a source: with the main package unpowered nothing happens; in DORMANT the AON logic latches it, and it wakes the
module if its WAKE bit is set. Otherwise its count rises to at most 255, and at COAL_COUNT it is ready. A ready source of a
control core interrupts it. One of a host target whose priority is above the target's threshold, with the host link up and
neither hold set, is delivered: an MSI-X message, or the pending bit of a masked vector; any other stays pending. Rests on the
model's choices of log 19. -/
def Obligations.EventCountsAndDelivers : Prop :=
  ∀ (hub src : Nat) (s : State), hub < 2 →
    (mainUp s = false → raise hub src s = s) ∧
    (mainUp s = true → s.startup.dormant = true →
      raise hub src s = if (getSource s hub src).wake
        then wakeEvent (setHub s hub { getHub s hub with latched := (getHub s hub).latched ++ [src] })
        else setHub s hub { getHub s hub with latched := (getHub s hub).latched ++ [src] }) ∧
    (mainUp s = true → s.startup.dormant = false →
      (min ((getSource s hub src).count + 1) 255 < (getSource s hub src).coalCount → (getSource s hub src).ready = false →
        raise hub src s = setSource s hub src
          { getSource s hub src with count := min ((getSource s hub src).count + 1) 255, ready := false }) ∧
      (sourceTarget hub src = none → (getSource s hub src).coalCount ≤ min ((getSource s hub src).count + 1) 255 →
        raise hub src s = emit (.coreInterrupt hub src) (setSource s hub src
          { getSource s hub src with count := min ((getSource s hub src).count + 1) 255, ready := true })) ∧
      (∀ fn v, sourceTarget hub src = some (fn, v) →
          (getSource s hub src).ready = true ∨
            (getSource s hub src).coalCount ≤ min ((getSource s hub src).count + 1) 255 →
        (s.host.linkUp = true → hostThreshold s fn < (getSource s hub src).priority → (getHub s hub).hold = false →
            (getHub s hub).fwHold = false →
          (v ∈ (getFunc s fn).unmasked → raise hub src s = emit (.msix fn v) (setSource s hub src
            { getSource s hub src with count := 0, ready := false })) ∧
          (v ∉ (getFunc s fn).unmasked → raise hub src s = setFunc (setSource s hub src
            { getSource s hub src with count := 0, ready := false }) fn
              { getFunc s fn with
                msixPending := if v ∈ (getFunc s fn).msixPending then (getFunc s fn).msixPending
                  else v :: (getFunc s fn).msixPending })) ∧
        (s.host.linkUp = false ∨ (getSource s hub src).priority ≤ hostThreshold s fn ∨ (getHub s hub).hold = true ∨
            (getHub s hub).fwHold = true →
          raise hub src s = setSource s hub src
            { getSource s hub src with count := min ((getSource s hub src).count + 1) 255, ready := true })))

/-- A claim by a control core: the source returned is ready and above the core's threshold and the top of its stack; no other
such source has a higher priority, nor the same priority and a higher number; its priority is pushed, and the end of the
interrupt pops it, so that the stack is as it was. With nothing to claim, nothing changes; an end of interrupt pops the top, and
one with an empty stack is ignored and counted. Rests on the model's choices of log 19. -/
def Obligations.ClaimTakesHighest : Prop :=
  ∀ (hub core : Nat) (s : State), hub < 2 →
    ((tget (getHub s hub).running core).getD [] = [] → exec (.endOfInterrupt hub core) s =
      .next (setHub s hub { getHub s hub with eoiIgnored := (getHub s hub).eoiIgnored + 1 })) ∧
    (∀ p r, (tget (getHub s hub).running core).getD [] = p :: r → exec (.endOfInterrupt hub core) s =
      .next (setHub s hub { getHub s hub with running := tset (getHub s hub).running core r })) ∧
    (claimable s hub core = [] → exec (.interruptClaim hub core) s = .next s) ∧
    (∀ k r, claimable s hub core = k :: r → ∃ t, exec (.interruptClaim hub core) s = .next t ∧
      t.out = .coreInterrupt hub k :: s.out ∧ getSource t hub k = { getSource s hub k with count := 0, ready := false } ∧
      tget (getHub t hub).running core =
        some ((getSource s hub k).priority :: (tget (getHub s hub).running core).getD []) ∧
      max ((tget (getHub s hub).coreThr core).getD 0) (((tget (getHub s hub).running core).getD []).headD 0)
        < (getSource s hub k).priority ∧
      (∀ j ∈ claimable s hub core, (getSource s hub j).priority ≤ (getSource s hub k).priority ∧
        ((getSource s hub j).priority = (getSource s hub k).priority → j ≤ k)) ∧
      (∃ u, exec (.endOfInterrupt hub core) t = .next u ∧
        tget (getHub u hub).running core = some ((tget (getHub s hub).running core).getD [])))

/-- HOLD and masks: IH_GLOBAL.HOLD set holds every delivery of its hub, and released delivers what is ready in order; unmasking
a vector whose pending bit is set sends its message and clears the bit; the coalescing timer makes a counted source ready, which
then interrupts its control core or may be delivered. A write that cannot be made, a vector of a locked table or beyond it, and
a timer with nothing to time, change nothing. Rests on the model's choices of logs 11, 19. -/
def Obligations.HoldAndMask : Prop :=
  ∀ s : State,
    (∀ hub, writable s .pf0 = true →
      exec (.holdSet hub) s = .next (setHub s hub { getHub s hub with hold := true }) ∧
      exec (.holdRelease hub) s = .next (deliverAll hub (setHub s hub { getHub s hub with hold := false })) ∧
      (∀ t src, exec (.holdSet hub) s = .next t → hub < 2 → deliver hub src t = t)) ∧
    (∀ hub, writable s .pf0 = false → exec (.holdSet hub) s = .next s ∧ exec (.holdRelease hub) s = .next s) ∧
    (∀ fn v, writable s fn = true → tdiLocked s fn = false → v < 18 →
      (v ∈ (getFunc s fn).msixPending → exec (.msixUnmask fn v) s = .next (emit (.msix fn v) (setFunc s fn
        { getFunc s fn with
          unmasked := if v ∈ (getFunc s fn).unmasked then (getFunc s fn).unmasked else v :: (getFunc s fn).unmasked
          msixPending := (getFunc s fn).msixPending.filter (· ≠ v) }))) ∧
      (v ∉ (getFunc s fn).msixPending → exec (.msixUnmask fn v) s = .next (setFunc s fn
        { getFunc s fn with
          unmasked := if v ∈ (getFunc s fn).unmasked then (getFunc s fn).unmasked else v :: (getFunc s fn).unmasked
          msixPending := (getFunc s fn).msixPending.filter (· ≠ v) }))) ∧
    (∀ fn v, writable s fn = false ∨ tdiLocked s fn = true ∨ 18 ≤ v → exec (.msixUnmask fn v) s = .next s) ∧
    (∀ hub src, s.startup.dormant = false → (getSource s hub src).count ≠ 0 → (getSource s hub src).ready = false →
      (∀ x, sourceTarget hub src = some x → exec (.coalescingTimer hub src) s = .next (deliver hub src (setSource s hub src
        { getSource s hub src with ready := true }))) ∧
      (sourceTarget hub src = none → exec (.coalescingTimer hub src) s = .next (emit (.coreInterrupt hub src) (setSource s hub src
        { getSource s hub src with ready := true })))) ∧
    (∀ hub src, s.startup.dormant = true ∨ (getSource s hub src).count = 0 ∨ (getSource s hub src).ready = true →
      exec (.coalescingTimer hub src) s = .next s)

/-! ## The host link -/

/-- Bus mastering enabled (the host link is then up) lets the held completions of every function that exists go out in order,
and then what the hubs hold ready; so, for the completions, do virtual functions enabled, at most 64; a conventional reset
clears every function's configuration space and MSI-X table and NumVFs, and nothing else; PF0's function-level reset those of
PF0 (with NumVFs), or of PF0 on the second link where there is one; a virtual function's moves its TDI, unless it is unlocked,
to ERROR, and is a reset of its polder, if it has one, at the next edge; a link that goes down only goes down, and while it is
down no register is reached, no function may use the bus and no interrupt leaves. Rests on the model's choices of logs 11, 24,
68, 69. -/
def Obligations.HostLinkEvents : Prop :=
  ∀ s : State,
    (∀ fn, mainUp s = true → fnEnabled s fn = true → exec (.busMasterEnable fn) s = .next
      (deliverAll 1 (deliverAll 0 ((allFns s).foldl (fun st f => flushFn f st)
        (setFunc { s with host.linkUp := true } fn { getFunc s fn with busMaster := true }))))) ∧
    (∀ fn, mainUp s = false ∨ fnEnabled s fn = false → exec (.busMasterEnable fn) s = .next s) ∧
    (∀ n, mainUp s = true → n ≤ 64 → exec (.numVfsEnable n) s = .next
      ((allFns { s with host.numVfs := n }).foldl (fun st f => flushFn f st) { s with host.numVfs := n })) ∧
    (∀ n, mainUp s = false ∨ 64 < n → exec (.numVfsEnable n) s = .next s) ∧
    (∃ t, exec .pcieConventionalReset s = .next t ∧ t = { s with host.numVfs := 0, host.funcs := t.host.funcs } ∧
      (∀ fn, getFunc t fn =
        { getFunc s fn with busMaster := false, unmasked := [], msixTable := [], msixPending := [] })) ∧
    exec (.pf0FunctionLevelReset 0) s = .next (setFunc { s with host.numVfs := 0 } .pf0
      { getFunc s .pf0 with busMaster := false, unmasked := [], msixTable := [], msixPending := [] }) ∧
    (∀ link, link ≠ 0 → s.host.bifurcated = true → exec (.pf0FunctionLevelReset link) s = .next (setFunc s .pf0b
      { getFunc s .pf0b with busMaster := false, unmasked := [], msixTable := [], msixPending := [] })) ∧
    (∀ link, link ≠ 0 → s.host.bifurcated = false → exec (.pf0FunctionLevelReset link) s = .next s) ∧
    (∀ p, getPolder s p = none →
      exec (.vfFunctionLevelReset p) s = .next (if getTdi s p = 0 then s else setTdi s p 3)) ∧
    (∀ p x, getPolder s p = some x → ∃ q, q.cmd = .vfFunctionLevelReset p ∧ q.intakeIx = s.tide.ix ∧ q.dueIx = s.tide.ix + 1 ∧
      exec (.vfFunctionLevelReset p) s = .next
        { (if getTdi s p = 0 then s else setTdi s p 3) with tide.queued := s.tide.queued ++ [q] }) ∧
    exec .hostLinkDown s = .next { s with host.linkUp := false } ∧
    (s.host.linkUp = false → ∀ fn hub src, reachable s fn = false ∧ busOk s fn = false ∧ deliverable s hub src = false)

/-! ## Presence, the seal and the secure parts -/

/-- Presence: a held command whose 120 s have passed completes with ST_PRESENCE_REQUIRED and PRESENCE_TIMEOUT; the jumper of a V
fit asserts and deasserts it; on a C fit the button asserts it, after breaking a seal that is whole, and its release starts the
window of 60 s, at whose end presence goes; a button stuck for 30 s takes presence away until it is released, with an entry in
the log. Presence asserted releases the held command, if there is one, which goes on as one fetched in the tide in progress.
Nothing is asserted while the AON logic is unpowered or the button is locked out; an event of the button on a V fit, of a stuck
button that is not held, or of a timeout with nothing held, changes nothing. Rests on the model's choices of logs 61, 69. -/
def Obligations.PresenceAndButton : Prop :=
  ∀ s : State,
    (s.aon.held = none → exec .presenceHoldTimeout s = .next s) ∧
    (∀ o h, s.aon.held = some o → hdrOf o.cmd = some h →
      exec .presenceHoldTimeout s = .next (finish h .presenceRequired .presenceTimeout [] { s with aon.held := none })) ∧
    (s.aon.up = false → exec .presenceAssert s = .next s) ∧
    (s.aon.up = true → s.ident.cabinet = false →
      exec .presenceAssert s = .next (releaseHeld (pinLevel 1 { s with aon.presence := true }))) ∧
    (s.ident.cabinet = false → exec .presenceDeassert s =
      .next (pinLevel 1 { s with aon.presence := false, aon.window := 0, aon.windowQ := 0 })) ∧
    (s.aon.up = true → s.ident.cabinet = true → s.aon.buttonLockout = true → exec .presenceAssert s = .next s) ∧
    (s.aon.up = true → s.ident.cabinet = true → s.aon.buttonLockout = false → exec .presenceAssert s = .next (releaseHeld
      (pinLevel 2 { breakSeal s with aon.presence := true, aon.buttonHeld := true, aon.window := 60, aon.windowQ := 0 }))) ∧
    (s.aon.sense = false → breakSeal s = s) ∧
    (s.aon.held = none → releaseHeld s = s) ∧
    (∀ o h i, s.aon.held = some o → hdrOf o.cmd = some h → opInfo o.cmd = some i →
      releaseHeld s = proceed o.cmd i h true (gatedArrival o.cmd) (markApplied h (setSluice { s with aon.held := none }
        h.fn h.sluice { getSluice s h.fn h.sluice with
          owed := (getSluice s h.fn h.sluice).owed.map fun e =>
            if e.seq = h.seq then { e with intakeIx := s.tide.ix } else e }))) ∧
    (s.ident.cabinet = true → s.aon.buttonHeld = false → exec .presenceDeassert s =
      .next { s with aon.presence := false, aon.window := 0, aon.windowQ := 0 }) ∧
    (s.ident.cabinet = true → s.aon.buttonHeld = true → exec .presenceDeassert s = .next s) ∧
    (s.ident.cabinet = true → exec .buttonRelease s = .next (pinLevel 2 { s with
      aon.buttonHeld := false
      aon.buttonLockout := false
      aon.windowQ := if s.aon.presence then 60 * 4000 else s.aon.windowQ })) ∧
    (s.ident.cabinet = false → exec .buttonRelease s = .next s) ∧
    (s.ident.cabinet = true → s.aon.buttonHeld = true → exec .buttonStuck s = .next (recordBreach 0x18 0 255 255 255 0 0
      { s with aon.presence := false, aon.window := 0, aon.windowQ := 0, aon.buttonLockout := true })) ∧
    (s.ident.cabinet = false ∨ s.aon.buttonHeld = false → exec .buttonStuck s = .next s)

/-- A seal that breaks and a glitch of voltage or clock, with the main package powered, make both secure parts read zero,
deassert presence and end every session; a whole seal that breaks sets BROKEN and counts, powered or not; the secure part is
reachable again once its wipe is done. A broken seal breaks no further, and an unpowered package detects no glitch. Rests on the
model's choices of log 52. -/
def Obligations.WipesReadZero : Prop :=
  ∀ s : State,
    (mainUp s = true → ∀ c, (c = .sealBreak ∧ s.aon.sense = true ∨ c = .glitchDetect true ∨ c = .glitchDetect false) →
      ∃ t, exec c s = .next t ∧ t.aon.presence = false ∧ t.mem.scr0.wiping = true ∧ t.mem.scr1.wiping = true ∧
        (∀ fn ∈ everyFn, (getFunc t fn).session = false) ∧
        (∀ io a, io < 2 → 7864320 ≤ a → a < 8388608 → readByte t.mem.cells (scrBase io + a) = 0)) ∧
    (mainUp s = false → ∀ clock, exec (.glitchDetect clock) s = .next s) ∧
    (s.aon.sense = true → ∃ t, exec .sealBreak s = .next t ∧ t.aon.presence = false ∧ t.aon.sense = false ∧
      t.aon.broken = true ∧ t.aon.breaks = min 65535 (s.aon.breaks + 1)) ∧
    (s.aon.sense = false → exec .sealBreak s = .next s) ∧
    (∀ io, io < 2 → exec (.wipeDone io) s = .next (setScr s io { getScr s io with wiping := false })) ∧
    (∀ io, 2 ≤ io → exec (.wipeDone io) s = .next s)


/-! ## Tide-launched commands at their edge -/

/-- What becomes visible at an edge: the inputs that are visible and the queued commands that are due, each once and nothing
else, ordered by tide, rank and source, and no entry's SEQ coming before that of the entry just ahead of it from the same. Rests
on the model's choices of logs 14, 15. -/
def Obligations.EdgeMergesInOrder : Prop :=
  ∀ s : State,
    (visibleAt s).Perm ((s.tide.waiting.filter fun w => w.visibleIx ≤ s.tide.ix).map Visible.input ++
      (s.tide.queued.filter fun q => q.dueIx ≤ s.tide.ix).map Visible.command) ∧
    (visibleAt s).Pairwise (fun a b => tagBefore { visibleTag b with seq := 0 } { visibleTag a with seq := 0 } = false) ∧
    (∀ i a b, (visibleAt s)[i]? = some a → (visibleAt s)[i + 1]? = some b → tagBefore (visibleTag b) (visibleTag a) = false)

/-- At the applying edge, budgets, groups, preferences, caps, profiles, golden digests and bindings take their new values and
their commands complete with ST_OK: SET_POWER_CAP ends the lease it replaces and stays open; a token budget of zeros is none, a
new one starts full, and a changed one keeps its level up to the new BURST; a profile is refused while work is admitted or a
tide change is pending, and where the new costs do not fit; an input port takes one source, a session's own input has port 0,
and an unbinding takes away the binding that it names. -/
def Obligations.EdgeSettings : Prop :=
  ∀ (q : Queued) (h : Hdr) (s : State), AppliesAt q h s →
    (∀ refill burst x, q.cmd = .setTokenBudget h refill burst → getPolder s h.polder = some x →
      (refill = 0 → burst = 0 →
        applyQueued q s = finish h .ok .none [] (setPolder (atEdge q h s) h.polder { x with budget := none })) ∧
      (refill ≠ 0 ∨ burst ≠ 0 → x.budget = none →
        applyQueued q s = finish h .ok .none []
          (setPolder (atEdge q h s) h.polder { x with budget := some ⟨refill, burst, 4000 * burst⟩ })) ∧
      (∀ o, refill ≠ 0 ∨ burst ≠ 0 → x.budget = some o →
        applyQueued q s = finish h .ok .none []
          (setPolder (atEdge q h s) h.polder { x with budget := some ⟨refill, burst, min o.level (4000 * burst)⟩ }))) ∧
    (∀ group x, q.cmd = .commonsJoin h group → getPolder s h.polder = some x →
      applyQueued q s = finish h .ok .none [] (setPolder (atEdge q h s) h.polder { x with group := group })) ∧
    (∀ ops, q.cmd = .setPhaseOp h ops →
      applyQueued q s = finish h .ok .none [] { atEdge q h s with power.prefs := ops }) ∧
    (∀ capW windowS leaseS orphanW, q.cmd = .setPowerCap h capW windowS leaseS orphanW →
      ∃ t, applyQueued q s = t ∧ t.power = { s.power with
          capW := capW, windowS := windowS, orphanW := if orphanW = 0 then s.power.orphanW else orphanW,
          lease := some ⟨q.cmd, s.tide.nowQ + 4000 * leaseS⟩ } ∧
        (s.power.lease = none → t.host = (atEdge q h s).host) ∧
        (∀ l, s.power.lease = some l → t.host = (finishCmd l.cmd .ok .none [] (atEdge q h s)).host)) ∧
    (∀ share op, q.cmd = .safetyProfileSet h share op →
      (workAdmitted s = true ∨ s.tide.change.isSome = true →
        applyQueued q s = finish h .notPermitted .busyAdmitted [] (atEdge q h s)) ∧
      (∀ x, workAdmitted s = false → s.tide.change = none →
        recost (atEdge q h s) { envNow (atEdge q h s) with sShare := share, qOp := op } = some x →
        applyQueued q s = finish h .overrunRisk x.2.2 (recostPayload x) (atEdge q h s)) ∧
      (workAdmitted s = false → s.tide.change = none →
        recost (atEdge q h s) { envNow (atEdge q h s) with sShare := share, qOp := op } = none →
        ∃ t, applyQueued q s = t ∧ t.work.sShare = share ∧ t.work.qAdmitOp = op ∧
          t.flash.recSafety = ⟨s.flash.settingsFormat, share, op⟩)) ∧
    (∀ handle digest g, q.cmd = .goldenSet h handle digest → getGraph s (polderOf h) handle = some g →
      applyQueued q s = finish h .ok .none [] (setGraph (atEdge q h s) (polderOf h) handle
        { g with golden := g.golden.map fun y => { y with expected := digest, learning := true } })) ∧
    (∀ rank port src handle unbind srcMod, q.cmd = .streamBind h rank port src handle unbind srcMod →
      (∀ r, bindFault s (polderOf h) rank src handle = some r →
        applyQueued q s = finish h .badParam r [] (atEdge q h s)) ∧
      (bindFault s (polderOf h) rank src handle = none → ∃ t, applyQueued q s = t ∧
        (unbind ≠ 1 → t.work.binds =
          (s.work.binds.filter fun x => !(x.polder = polderOf h && x.handle = handle &&
              x.port = if handle < 64 then port else 0)) ++
            [⟨rank, srcMod, src, polderOf h, handle, if handle < 64 then port else 0⟩]) ∧
        (unbind = 1 → t.work.binds =
          s.work.binds.filter fun x => x ≠ ⟨rank, srcMod, src, polderOf h, handle, if handle < 64 then port else 0⟩)))

/-- At the applying edge, RUN_AT_TIDE and RUN_PERIODIC with a loaded graph, no pending tide change, the deadline and period that
admission gave, a run number that is free and output buffers that their ports' results fit store the run, whose origin is that
edge and whose recurrent state is the image's, and, for Class S, send its schedule record; each fault is answered by its own
status and reason, the first in that order. RUN_STOP of a run of the graph in progress ends it with ST_CANCELLED; otherwise it
answers ST_ALREADY_DONE. Rests on the model's choices of log 68. -/
def Obligations.RunsAtTheirEdge : Prop :=
  ∀ (q : Queued) (h : Hdr) (s : State), AppliesAt q h s →
    (∀ handle run period deadline n count descs fault periodic,
      (q.cmd = .runPeriodic h handle run period deadline n count descs fault ∧ periodic = true ∨
        q.cmd = .runAtTide h handle run deadline n descs fault ∧ periodic = false ∧ period = deadline ∧ count = 1) →
      (getGraph s (polderOf h) handle = none → applyQueued q s = finish h .badParam .noGraph [] (atEdge q h s)) ∧
      (∀ g, getGraph s (polderOf h) handle = some g →
        (s.tide.change.isSome = true → applyQueued q s = finish h .notPermitted .busyAdmitted [] (atEdge q h s)) ∧
        (s.tide.change = none → g.copyBad = true → applyQueued q s = finish h .dataError .none [] (atEdge q h s)) ∧
        (s.tide.change = none → g.copyBad = false →
          (deadline < g.d ∨ periodic = true ∧ period < g.t →
            applyQueued q s = finish h .badParam .timingRange [] (atEdge q h s)) ∧
          (g.d ≤ deadline → (periodic = true → g.t ≤ period) →
            ((getRun s (polderOf h) run).isSome = true →
              applyQueued q s = finish h .badParam .fieldRange [] (atEdge q h s)) ∧
            (getRun s (polderOf h) run = none → fault = true →
              applyQueued q s = finish h .badParam .bufferFault [] (atEdge q h s)) ∧
            (getRun s (polderOf h) run = none → fault = false →
              (∃ o ∈ g.img.outPorts, ∃ e ∈ descs, e.output = true ∧ e.port = o.port ∧ e.len < o.bytes) →
              applyQueued q s = finish h .badParam .bufferShort [] (atEdge q h s)) ∧
            (getRun s (polderOf h) run = none → fault = false →
              (∀ o ∈ g.img.outPorts, ∀ e ∈ descs, e.output = true → e.port = o.port → o.bytes ≤ e.len) →
              applyQueued q s =
                (let y : Run :=
                  { handle := handle, cmd := q.cmd, intakeIx := s.tide.ix, periodic := periodic, period := period,
                    deadline := deadline, countLimit := count, descs := descs, originIx := s.tide.ix,
                    recurrent := g.img.initState }
                 sendSchedule (polderOf h) run y (setRun (atEdge q h s) (polderOf h) run y))))))) ∧
    (∀ handle run, q.cmd = .runStop h handle run →
      (getGraph s (polderOf h) handle = none → applyQueued q s = finish h .badParam .noGraph [] (atEdge q h s)) ∧
      (∀ g, getGraph s (polderOf h) handle = some g →
        (getRun s (polderOf h) run = none → applyQueued q s = finish h .alreadyDone .none [] (atEdge q h s)) ∧
        (∀ y, getRun s (polderOf h) run = some y → y.handle ≠ handle →
          applyQueued q s = finish h .alreadyDone .none [] (atEdge q h s)) ∧
        (∀ y, getRun s (polderOf h) run = some y → y.handle = handle →
          applyQueued q s = finish h .ok .none [] (endRun (polderOf h) run .cancelled .none false (atEdge q h s)))))

/-- Requests and codec pictures at the applying edge: a request of a serving graph (not of a Class S polder, nor while a tide
change is pending) that passes its checks waits behind older ones, or while there is none and a slot is free is handled by the
admission at once; REQUEST_CANCEL ends the request that it names with ST_CANCELLED; a picture of a session that takes host
buffers is refused by its first fault, or with NO_FIT while its session is shed or the module stopped, and otherwise becomes
visible no sooner than the session's interval after the one before; a session that closes is gone, and so are its bindings.
Rests on the model's choices of logs 22, 33. -/
def Obligations.QueuesAtTheirEdge : Prop :=
  ∀ (q : Queued) (h : Hdr) (s : State), AppliesAt q h s →
    (∀ handle variant deadline len d g v x, q.cmd = .requestSubmit h handle variant deadline len d →
      getPolder s (polderOf h) = some x → tget x.graphs handle = some g → servingOf g = some v →
      (isClassS s (polderOf h) = true → applyQueued q s = finish h .badParam .fieldRange [] (atEdge q h s)) ∧
      (isClassS s (polderOf h) = false → s.tide.change.isSome = true →
        applyQueued q s = finish h .notPermitted .busyAdmitted [] (atEdge q h s)) ∧
      (isClassS s (polderOf h) = false → s.tide.change = none →
      (∀ r, requestFault g v variant deadline len d = some r → applyQueued q s = finish h .badParam r [] (atEdge q h s)) ∧
      (requestFault g v variant deadline len d = none →
        let r : Request :=
          { cmd := q.cmd, tag := q.tag, intakeIx := q.intakeIx, handle := handle, variant := variant, desc := d,
            deadlineIx := if deadline = 0 then none else some (q.intakeIx + deadline), blockFrames := blockFramesOf g.img }
        let ins (z : Polder) : Polder := { z with requests := insertRequest r z.requests }
        (v.active ≤ activeCount (ins x) handle → applyQueued q s = modPolder (atEdge q h s) (polderOf h) ins) ∧
        (activeCount (ins x) handle < v.active →
          (∀ z ∈ (ins x).requests, z.handle = handle → reserves z = false → reqKey z = reqKey r) →
          applyQueued q s = admitRequest (polderOf h) (reqKey r) (modPolder (atEdge q h s) (polderOf h) ins)) ∧
        (∀ z ∈ (ins x).requests, z.handle = handle → reserves z = false → reqKey z ≠ reqKey r →
          applyQueued q s = modPolder (atEdge q h s) (polderOf h) ins)))) ∧
    (∀ seq n x, q.cmd = .requestCancel h seq n → getPolder s (polderOf h) = some x → n < x.sluices →
      (∀ r, x.requests.find? (namesRequest n seq) = some r →
        applyQueued q s = finish h .ok .none [] (endRequest (polderOf h) r .cancelled (atEdge q h s))) ∧
      (x.requests.find? (namesRequest n seq) = none →
        applyQueued q s = finish h .alreadyDone .none [] (atEdge q h s))) ∧
    (∀ n inLen inBuf outBuf outLen fault x, q.cmd = .codecPicture h n inLen inBuf outBuf ⟨outLen, fault⟩ →
      sessionFor s (polderOf h) n = some x →
      (x.cfg.source ≠ 0 → applyQueued q s = finish h .badParam .fieldRange [] (atEdge q h s)) ∧
      (∀ r, x.cfg.source = 0 → pictureFault s h n inLen outLen = some r →
        applyQueued q s = finish h .badParam r [] (atEdge q h s)) ∧
      (x.cfg.source = 0 → pictureFault s h n inLen outLen = none →
      (fault = true → applyQueued q s = finish h .badParam .bufferFault [] (atEdge q h s)) ∧
      (fault = false → sessionShed s x = true ∨ s.power.stop = true → applyQueued q s = answer q.cmd .noFit true .none false true [] (atEdge q h s)) ∧
      (fault = false → sessionShed s x = false → s.power.stop = false → ∃ t ix, applyQueued q s = t ∧
        t.codec.queue = s.codec.queue ++ [{ session := n, cmd := some q.cmd, visibleIx := ix, notBefore := ix, tag := q.tag }] ∧
        s.tide.ix ≤ ix ∧ (∀ j, x.lastVisibleIx = some j → j + x.interval ≤ ix) ∧ t.host = (atEdge q h s).host))) ∧
    (∀ n x, q.cmd = .codecSessionClose h n → sessionFor s (polderOf h) n = some x →
      ∃ t, applyQueued q s = t ∧ tget t.codec.sessions n = none ∧
        (∀ b ∈ t.work.binds, ¬ (b.rank = 6 ∧ b.srcLocal = n) ∧ ¬ (b.polder = x.polder ∧ b.handle = 64 + n)))

/-- Resources at the applying edge: POLDER_CREATE, GRAPH_LOAD, MODEL_VARIANT_ADD and CODEC_SESSION_OPEN that pass their checks
wait for their decision, and those that fail complete with the status and reason of the first check that fails, in the stated
order; GRAPH_UNLOAD of a graph without runs and requests takes it and its bindings away and starts the scrub of its frames, at
whose end it completes, and is refused otherwise; the placement report goes to the buffer if it fits there. Rests on the model's
choices of logs 68, 70. -/
def Obligations.ResourcesAtTheirEdge : Prop :=
  ∀ (q : Queued) (h : Hdr) (s : State), AppliesAt q h s →
    (∀ cls n w sr hb sp, q.cmd = .polderCreate h cls n w sr hb sp →
      (createFault s h = none → applyQueued q s = awaitDecision q.cmd (atEdge q h s)) ∧
      (∀ st r, createFault s h = some (st, r) → applyQueued q s = finish h st r [] (atEdge q h s))) ∧
    (∀ handle a v len img x, q.cmd = .graphLoad h handle a v len img → getPolder s (polderOf h) = some x →
      (activationBlocks s = true → applyQueued q s = finish h .notPermitted .none [] (atEdge q h s)) ∧
      (activationBlocks s = false → (tget x.graphs handle).isSome = true → applyQueued q s = finish h .badParam .handleInUse [] (atEdge q h s)) ∧
      (activationBlocks s = false → tget x.graphs handle = none → img.fault = true →
        applyQueued q s = finish h .badParam .bufferFault [] (atEdge q h s)) ∧
      (activationBlocks s = false → tget x.graphs handle = none → img.fault = false →
        (∀ r, imageFault s x.cls len img = some r → applyQueued q s = finish h .badParam r [] (atEdge q h s)) ∧
        (∀ pay, imageFault s x.cls len img = none → limitFault s (polderOf h) false img = some pay →
          applyQueued q s = finish h .badParam .operatorLimit pay (atEdge q h s)) ∧
        (imageFault s x.cls len img = none → limitFault s (polderOf h) false img = none →
          (x.cls ≠ .S ∨ wardensVote s = true → applyQueued q s = awaitDecision q.cmd (atEdge q h s)) ∧
          (x.cls = .S → wardensVote s = false → applyQueued q s = finish h .notPermitted .none [] (atEdge q h s))))) ∧
    (∀ handle v len img x g, q.cmd = .modelVariantAdd h handle v len img → getPolder s (polderOf h) = some x →
      tget x.graphs handle = some g →
      (activationBlocks s = true → applyQueued q s = finish h .notPermitted .none [] (atEdge q h s)) ∧
      (activationBlocks s = false → (tget g.variants v).isSome = true →
        applyQueued q s = finish h .badParam .handleInUse [] (atEdge q h s)) ∧
      (activationBlocks s = false → tget g.variants v = none → img.fault = true →
        applyQueued q s = finish h .badParam .bufferFault [] (atEdge q h s)) ∧
      (activationBlocks s = false → tget g.variants v = none → img.fault = false →
        (∀ r, imageFault s x.cls len img = some r → applyQueued q s = finish h .badParam r [] (atEdge q h s)) ∧
        (∀ pay, imageFault s x.cls len img = none → limitFault s (polderOf h) true img = some pay →
          applyQueued q s = finish h .badParam .operatorLimit pay (atEdge q h s)) ∧
        (imageFault s x.cls len img = none → limitFault s (polderOf h) true img = none →
          (variantMatch g.img img = false → ∃ pay t, applyQueued q s = finish h .badParam .operatorLimit pay t) ∧
          (variantMatch g.img img = true → x.cls = .S → wardensVote s = false →
            applyQueued q s = finish h .notPermitted .none [] (atEdge q h s)) ∧
          (variantMatch g.img img = true → x.cls ≠ .S ∨ wardensVote s = true →
            applyQueued q s = awaitDecision q.cmd (atEdge q h s))))) ∧
    (∀ kind profile width height interval k, q.cmd = .codecSessionOpen h kind profile width height interval k →
      (isClassS s (polderOf h) = true → applyQueued q s = finish h .notPermitted .wrongFunction [] (atEdge q h s)) ∧
      (isClassS s (polderOf h) = false → s.tide.change.isSome = true →
        applyQueued q s = finish h .notPermitted .busyAdmitted [] (atEdge q h s)) ∧
      (isClassS s (polderOf h) = false → s.tide.change = none →
        (activationBlocks s = true → applyQueued q s = finish h .notPermitted .none [] (atEdge q h s)) ∧
        (activationBlocks s = false → k.fault = true → applyQueued q s = finish h .badParam .bufferFault [] (atEdge q h s)) ∧
        (activationBlocks s = false → k.fault = false →
          (codecRange kind profile width height interval k = false ∨
              k.source = 2 ∧ graphSource s (newSession (polderOf h) kind profile width height interval k) = false →
            applyQueued q s = finish h .badParam .fieldRange [] (atEdge q h s)) ∧
          (codecRange kind profile width height interval k = true →
              (k.source = 2 → graphSource s (newSession (polderOf h) kind profile width height interval k) = true) →
            (s.codec.sessions.length < 64 → applyQueued q s = awaitDecision q.cmd (atEdge q h s)) ∧
            (64 ≤ s.codec.sessions.length → applyQueued q s = finish h .quota .none [] (atEdge q h s)))))) ∧
    (∀ handle x g, q.cmd = .graphUnload h handle → getPolder s (polderOf h) = some x → tget x.graphs handle = some g →
      ((∃ r ∈ x.runs, r.2.handle = handle) ∨ (∃ r ∈ x.requests, r.handle = handle) →
        applyQueued q s = finish h .notPermitted .runsActive [] (atEdge q h s)) ∧
      ((∀ r ∈ x.runs, r.2.handle ≠ handle) → (∀ r ∈ x.requests, r.handle ≠ handle) →
        ∃ t, applyQueued q s = t ∧ getGraph t (polderOf h) handle = none ∧ t.host = (atEdge q h s).host ∧
          (∀ b ∈ t.work.binds, ¬ (b.polder = polderOf h ∧ b.handle = handle)) ∧
          t.work.scrubs = s.work.scrubs ++
            [⟨s.work.nextScrub, polderOf h, .frames, some q.cmd, false, graphFrames g, s.tide.nowQ⟩])) ∧
    (∀ handle buf x g, q.cmd = .graphQueryPlacement h handle buf → getPolder s (polderOf h) = some x →
      tget x.graphs handle = some g →
      (buf.len < (placementReport s (isPf0 h.fn) handle x g).length → applyQueued q s =
        finish h .badParam .bufferShort (le 4 (placementReport s (isPf0 h.fn) handle x g).length) (atEdge q h s)) ∧
      ((placementReport s (isPf0 h.fn) handle x g).length ≤ buf.len → buf.fault = true →
        applyQueued q s = finish h .badParam .bufferFault [] (atEdge q h s)) ∧
      ((placementReport s (isPf0 h.fn) handle x g).length ≤ buf.len → buf.fault = false → applyQueued q s =
        finish h .ok .none (le 4 (placementReport s (isPf0 h.fn) handle x g).length)
          (hostWrite h.fn buf.addr (placementReport s (isPf0 h.fn) handle x g) (atEdge q h s))))

/-- Keys and firmware at the applying edge: a memory-key rotation advances the polder's counter, keeps the present generation as
the previous one and makes the new one current while it sweeps, or waits for the rotation in progress; a link-key rotation, with
none in progress and a live association, advances the link counter and is announced 16 tides ahead; a counter that is used up
refuses; FW_ACTIVATE of a verified image under the module's condition, with no activation in progress and no overrun found,
boots warden B, if it has power, on trial, and is otherwise refused. Rests on the model's choices of logs 25, 47. -/
def Obligations.KeysAndFirmwareAtTheirEdge : Prop :=
  ∀ (q : Queued) (h : Hdr) (s : State), AppliesAt q h s →
    (∀ x, q.cmd = .keyRotateMemory h → getPolder s (polderOf h) = some x →
      (65535 < keyCounter s (polderOf h) + x.rotationsWaiting.length + 1 →
        applyQueued q s = finish h .notPermitted .counterExhausted [] (atEdge q h s)) ∧
      (keyCounter s (polderOf h) + x.rotationsWaiting.length + 1 ≤ 65535 → x.rotation = none →
        ∃ t, applyQueued q s = t ∧ keyCounter t (polderOf h) = keyCounter s (polderOf h) + 1 ∧
          t.host = (atEdge q h s).host ∧ getPolder t (polderOf h) = some
            { x with
              keyGen := keyCounter s (polderOf h) + 1, prevGen := some x.keyGen, rotation := some { cmd := q.cmd } }) ∧
      (∀ o, keyCounter s (polderOf h) + x.rotationsWaiting.length + 1 ≤ 65535 → x.rotation = some o →
        applyQueued q s = setPolder (atEdge q h s) (polderOf h)
          { x with rotationsWaiting := x.rotationsWaiting ++ [q.cmd] })) ∧
    (∀ k, q.cmd = .keyRotateLink h k →
      (65535 ≤ keyCounter s 64 → applyQueued q s = finish h .notPermitted .counterExhausted [] (atEdge q h s)) ∧
      (∀ m a, keyCounter s 64 < 65535 → s.links.rotations = [] → (m, a) ∈ s.links.assocs → a.live = true →
        ∃ t, applyQueued q s = t ∧ keyCounter t 64 = keyCounter s 64 + 1 ∧
          t.links.rotations = [(q.cmd, keyCounter s 64 + 1)] ∧ t.host = (atEdge q h s).host ∧
          (m, { a with switchAt := some (s.tide.ix + 16), switched := false }) ∈ t.links.assocs)) ∧
    (∀ condition x, q.cmd = .fwActivate h condition x →
      (conditionOk s condition = false → applyQueued q s = finish h .notPermitted .noCondition [] (atEdge q h s)) ∧
      (conditionOk s condition = true → s.startup.activation.isSome = true →
        applyQueued q s = finish h .notPermitted .none [] (atEdge q h s)) ∧
      (conditionOk s condition = true → s.startup.activation = none → s.flash.staged = none ∨ s.flash.verified = false →
        applyQueued q s = finish h .notPermitted .none [] (atEdge q h s)) ∧
      (∀ i, conditionOk s condition = true → s.startup.activation = none → s.flash.staged = some i →
        s.flash.verified = true →
        (∀ code p, x = some (code, p) → applyQueued q s = finish h .overrunRisk (reasonOf code) (le 2 p) (atEdge q h s)) ∧
        (x = none → s.wardens.b.state ≠ .off → ∃ t, applyQueued q s = t ∧ t.host = (atEdge q h s).host ∧
          t.startup.activation = some { cmd := q.cmd, image := i, oldFormat := s.flash.settingsFormat } ∧
          t.wardens.a = s.wardens.a ∧ t.wardens.b.state = .boot ∧ t.wardens.b.switched = true)))

/-- A polder that is reset or destroyed at an edge, by its command, by its virtual function's reset or by
STOP_INTERFACE_REQUEST, keeps its class, quotas and key generation: no graph, run, request, rotation, binding, session or
waiting command of it is left, other polders stay, and it stays resetting until its scrub ends. While it is resetting already, a
reset of the function or interface only waits for that scrub; a destruction of one that is being destroyed is refused. Rests on
the model's choices of log 68. -/
def Obligations.ResetEmptiesPolder : Prop :=
  ∀ (q : Queued) (s : State) (p : Nat) (x : Polder), getPolder s p = some x →
    (x.resetting = true → (q.cmd = .vfFunctionLevelReset p → applyQueued q s = awaitScrub p false s) ∧
      (q.cmd = .stopInterfaceRequest p → applyQueued q s = awaitScrub p true s)) ∧
    (∀ h, AppliesAt q h s → h.polder = p → q.cmd = .polderDestroy h → x.destroying = true →
      applyQueued q s = finish h .notPermitted .wrongPolder [] (atEdge q h s)) ∧
    ((∃ h, AppliesAt q h s ∧ polderOf h = p ∧ q.cmd = .polderReset h ∧ x.resetting = false) ∨
      (∃ h, AppliesAt q h s ∧ h.polder = p ∧ q.cmd = .polderDestroy h ∧ x.destroying = false) ∨
      (q.cmd = .vfFunctionLevelReset p ∨ q.cmd = .stopInterfaceRequest p) ∧ x.resetting = false →
    ∃ t y, applyQueued q s = t ∧ getPolder t p = some y ∧ y.graphs = [] ∧ y.runs = [] ∧ y.requests = [] ∧
      y.rotation = none ∧ y.rotationsWaiting = [] ∧ y.budget = none ∧ y.resetting = true ∧
      y.cls = x.cls ∧ y.sluices = x.sluices ∧ y.sramQuota = x.sramQuota ∧ y.hbmQuota = x.hbmQuota ∧
      y.spillQuota = x.spillQuota ∧ y.keyGen = x.keyGen ∧ (x.destroying = true → y.destroying = true) ∧
      ((∃ h, q.cmd = .polderDestroy h) → y.destroying = true) ∧
      (∀ k ∈ t.tide.queued, ofPolder p k.cmd = false) ∧ (∀ d ∈ t.work.decisions, ofPolder p d.cmd = false) ∧
      (∀ b ∈ t.work.binds, b.polder ≠ p) ∧ (∀ c ∈ t.codec.sessions, c.2.polder ≠ p) ∧
      (∀ r, r ≠ p → (getPolder t r).isSome = (getPolder s r).isSome))

/-- The life cycle and the debug ports at their edge: a transition that the state allows moves it, to SEALED, to SERVICE
(counting the entry) or to DECOMMISSIONED; one that it does not allow is refused with its reason, and either command while an
activation is in progress; decommissioning and DEBUG_UNLOCK, of which 32 are possible, start a scrub of all memory, and stay
open for its end. Rests on the model's choices of log 25. -/
def Obligations.LifecycleAtItsEdge : Prop :=
  ∀ (q : Queued) (h : Hdr) (s : State), AppliesAt q h s →
    (∀ target, q.cmd = .lifecycleAdvance h target →
      (activationBlocks s = true → applyQueued q s = finish h .notPermitted .none [] (atEdge q h s)) ∧
      (∀ r, activationBlocks s = false → transitionFault s target = some r →
        applyQueued q s = finish h .notPermitted r [] (atEdge q h s)) ∧
      (activationBlocks s = false → transitionFault s target = none → ∃ t, applyQueued q s = t ∧
        (target = 1 → t.ident.lifecycle = .sealed ∧ t.ident.serviceEntries = s.ident.serviceEntries) ∧
        (target = 2 → t.ident.lifecycle = .service ∧ t.ident.serviceEntries = s.ident.serviceEntries + 1) ∧
        (target = 3 → t.ident.lifecycle = .decommissioned ∧ t.startup.decommissioning = some q.cmd ∧
          (∃ n e b, ⟨n, 64, .decommission, none, false, e, b⟩ ∈ t.work.scrubs)))) ∧
    (∀ a, q.cmd = .debugUnlock h a →
      (activationBlocks s = true → applyQueued q s = finish h .notPermitted .none [] (atEdge q h s)) ∧
      (activationBlocks s = false → 32 ≤ s.ident.debugUnlocks →
        applyQueued q s = finish h .notPermitted .counterExhausted [] (atEdge q h s)) ∧
      (activationBlocks s = false → s.ident.debugUnlocks < 32 → ∃ t, applyQueued q s = t ∧
        t.startup.unlocking = some q.cmd ∧ t.ident = s.ident ∧ t.work.pfx = [] ∧
        (∃ n e b, ⟨n, 64, .debug, none, false, e, b⟩ ∈ t.work.scrubs)))

/-! ## Supplies, mating and the brake -/

/-- Mating and the 48 V input: a mate pin that opens opens the switch, and no tide commits; the switch closes, and the cold
start begins, with 38 V to 60 V on a module that was inserted anew or shut down by its mate pins; below 42 V the first sag is
counted and drops a powered module to OP0, and above 43 V it ends; outside 38 V to 60 V the switch opens, and 1 s inside 43 V to
58 V starts the module again, as 10 s of enough flow with every hotspot below 60 do after a stop for heat. Where an event's
conditions do not hold nothing changes, but a sag that goes on keeps the newest voltage. Rests on the model's choices of logs 7,
46, 69. -/
def Obligations.InputSupplyEvents : Prop :=
  ∀ s : State,
    (∀ pin, pin < 2 → ∃ t, exec (.mateSenseOpen pin) s = .next t ∧ t.aon.mated = false ∧ t.aon.switchClosed = false ∧
      (s.aon.switchClosed = true → t.tide.running = false ∧ t.tide.discard = true ∧ t.host.linkUp = false)) ∧
    (∀ pin, 2 ≤ pin → exec (.mateSenseOpen pin) s = .next s) ∧
    (∀ boot, s.aon.up = true → s.aon.switchClosed = false →
      s.aon.mated = false ∨ s.aon.downRow = none ∨ s.aon.downRow = some 9 →
      ∃ v, 3800 ≤ v ∧ v ≤ 6000 ∧ (3800 ≤ s.aon.vin48 → s.aon.vin48 ≤ 6000 → v = s.aon.vin48) ∧
        exec (.switch48vClose boot) s =
          .next (coldStart boot { s with aon.mated := true, aon.vin48 := v, fresh := s.fresh + 1 })) ∧
    (∀ boot, s.aon.up = false ∨ s.aon.switchClosed = true ∨
        (s.aon.mated = true ∧ s.aon.downRow ≠ none ∧ s.aon.downRow ≠ some 9) →
      exec (.switch48vClose boot) s = .next s) ∧
    (∀ v, 4200 ≤ v → exec (.sagWarn v) s = .next s) ∧
    (∀ v, v < 4200 → s.aon.sagWarn = true → exec (.sagWarn v) s = .next { s with aon.vin48 := v }) ∧
    (∀ v, v < 4200 → s.aon.sagWarn = false → ∃ t, exec (.sagWarn v) s = .next t ∧ t.aon = { s.aon with
      vin48 := v, sagWarn := true, sagSeen := true, sagCount := min 65535 (s.aon.sagCount + 1) } ∧
      (mainUp s = true → t.power.op = 0 ∧ t.power.forced = true ∧ t.power.raising = false) ∧
      (mainUp s = false → t.power = s.power)) ∧
    (∀ v, s.aon.sagWarn = true → 4300 < v → exec (.sagWarnEnd v) s =
      .next { s with aon.vin48 := v, aon.sagWarn := false, power.sinceRise := 0 }) ∧
    (∀ v, s.aon.sagWarn = false ∨ v ≤ 4300 → exec (.sagWarnEnd v) s = .next s) ∧
    (∀ v, 3800 ≤ v → v ≤ 6000 → exec (.trip48 v) s = .next s) ∧
    (∀ v, v < 3800 ∨ 6000 < v → ∃ t, exec (.trip48 v) s = .next t ∧ t.aon.vin48 = v ∧
      t.aon.trip48Seen = true ∧ t.aon.switchClosed = false ∧
      (s.aon.switchClosed = true → t.aon.downRow = some 10 ∧ t.tide.running = false)) ∧
    (∀ boot, s.aon.up = true → s.aon.mated = true → s.aon.switchClosed = false → s.aon.downRow = some 10 →
      ∃ v, 4300 ≤ v ∧ v ≤ 5800 ∧ exec (.supplyRestart boot) s =
        .next (coldStart boot { s with fresh := s.fresh + 1, aon.vin48 := v, aon.sagWarn := false })) ∧
    (∀ boot, s.aon.up = false ∨ s.aon.mated = false ∨ s.aon.switchClosed = true ∨ s.aon.downRow ≠ some 10 →
      exec (.supplyRestart boot) s = .next s) ∧
    (∀ boot, s.aon.up = true → s.aon.mated = true → s.aon.switchClosed = false →
      s.aon.downRow = some 6 ∨ s.aon.downRow = some 8 → 10000 ≤ s.power.above.2.2.2 →
      (∀ i, i < 146 → (getHotspot s i).reading < 60) → exec (.coolantRestart boot) s = .next (coldStart boot s)) ∧
    (∀ boot, s.aon.up = false ∨ s.aon.mated = false ∨ s.aon.switchClosed = true ∨
        (s.aon.downRow ≠ some 6 ∧ s.aon.downRow ≠ some 8) ∨ s.power.above.2.2.2 < 10000 ∨
        (∃ i, i < 146 ∧ 60 ≤ (getHotspot s i).reading) →
      exec (.coolantRestart boot) s = .next s)

/-- Auxiliary inputs, one for each warden: a warning below 9.5 V and its end above 10 V; below 8 V the warden is off, and with
both inputs gone so is the AON logic, with presence; above 9.5 V a warden that was off boots; the first input that rises, or the
clock that returns, resets the AON logic, which keeps the seal's record. Where an event's conditions do not hold nothing
changes. Rests on the model's choices of logs 7, 46. -/
def Obligations.AuxiliarySupplyEvents : Prop :=
  ∀ s : State,
    (∀ v, s.aon.auxAOn = true → v < 950 →
      exec (.auxWarn .A v) s = .next { s with aon.auxA := v, aon.auxAOn := true, aon.auxAWarn := true }) ∧
    (∀ v, s.aon.auxBOn = true → v < 950 →
      exec (.auxWarn .B v) s = .next { s with aon.auxB := v, aon.auxBOn := true, aon.auxBWarn := true }) ∧
    (∀ v, s.aon.auxAOn = true → 1000 < v →
      exec (.auxWarnEnd .A v) s = .next { s with aon.auxA := v, aon.auxAOn := true, aon.auxAWarn := false }) ∧
    (∀ v, s.aon.auxBOn = true → 1000 < v →
      exec (.auxWarnEnd .B v) s = .next { s with aon.auxB := v, aon.auxBOn := true, aon.auxBWarn := false }) ∧
    (∀ w v, (auxOn s w = false ∨ 950 ≤ v → exec (.auxWarn w v) s = .next s) ∧
      (auxOn s w = false ∨ v ≤ 1000 → exec (.auxWarnEnd w v) s = .next s)) ∧
    (s.aon.auxAOn = true → ∃ t, exec (.auxOff .A) s = .next t ∧ t.wardens.a = wardenOff s.wardens.a ∧
      t.wardens.b = s.wardens.b ∧ t.aon.auxA < 800 ∧ t.aon.auxAOn = false ∧ t.aon.auxAOffSeen = true ∧
      (s.aon.auxBOn = true → t.aon.up = s.aon.up ∧ t.aon.presence = s.aon.presence) ∧
      (s.aon.auxBOn = false → t.aon.up = false ∧ t.aon.presence = false)) ∧
    (s.aon.auxBOn = true → ∃ t, exec (.auxOff .B) s = .next t ∧ t.wardens.b = wardenOff s.wardens.b ∧
      t.wardens.a = s.wardens.a ∧ t.aon.auxB < 800 ∧ t.aon.auxBOn = false ∧ t.aon.auxBOffSeen = true ∧
      (s.aon.auxAOn = true → t.aon.up = s.aon.up ∧ t.aon.presence = s.aon.presence) ∧
      (s.aon.auxAOn = false → t.aon.up = false ∧ t.aon.presence = false)) ∧
    (∀ w, auxOn s w = false → exec (.auxOff w) s = .next s) ∧
    (∀ w v, s.aon.up = true → auxOn s w = false → 950 < v →
      ∃ t, exec (.auxRise w v) s = .next t ∧ auxOn t w = true ∧
        ((getWarden s w).state = .off → getWarden t w = { getWarden s w with state := .boot }) ∧
        ((getWarden s w).state ≠ .off → getWarden t w = getWarden s w) ∧
        getWarden t (otherWarden w) = getWarden s (otherWarden w)) ∧
    (∀ w v, s.aon.up = false ∨ auxOn s w = true ∨ v ≤ 950 → exec (.auxRise w v) s = .next s) ∧
    (∀ w slot, s.aon.up = false ∨ s.aon.clockLost = true →
      ∃ t, exec (.aonPowerOn w slot) s = .next t ∧ t.aon.up = true ∧ auxOn t w = true ∧ t.aon.slotId = slot % 32 ∧
        t.aon.presence = false ∧ t.aon.broken = s.aon.broken ∧ t.aon.breaks = s.aon.breaks ∧ t.aon.clockLost = false ∧
        t.startup.tap = 0x01 ∧ t.power.hotspots = [] ∧
        ((getWarden s w).state = .off → (getWarden t w).state = .boot) ∧
        (s.aon.clockLost = false → (getWarden s w).state = .off →
          getWarden t w = { getWarden s w with state := .boot })) ∧
    (∀ w slot, s.aon.up = true → s.aon.clockLost = false → exec (.aonPowerOn w slot) s = .next s)

/-! ## Power and coolant -/

/-- The coolant: a sample takes its four values and counts consecutive samples; ten below 70% of the flow the fit needs warn,
and ten below 40% shed Class B, until 1,000 samples above 75% and 45%; two below 15%, or a hotspot that rises too fast, ask for
a coolant stop, which ends after 1,000 samples above 40% with every forecast inside its pace limit. The three conditions wake a
module in or entering DORMANT. Where an event's conditions do not hold nothing changes. Rests on the model's choices of log 5.
-/
def Obligations.CoolantEvents : Prop :=
  ∀ s : State,
    (∀ flow inlet outlet rise, exec (.coolantSample flow inlet outlet rise) s = .next { s with
      power.flow := flow, power.inlet := inlet, power.outlet := outlet, power.hotRise := rise
      power.below := (if flowBelow s flow 70 then s.power.below.1 + 1 else 0,
        if flowBelow s flow 40 then s.power.below.2.1 + 1 else 0, if flowBelow s flow 15 then s.power.below.2.2 + 1 else 0)
      power.above := (if flowBelow s flow 75 then 0 else s.power.above.1 + 1,
        if flowBelow s flow 45 then 0 else s.power.above.2.1 + 1, if flowBelow s flow 40 then 0 else s.power.above.2.2.1 + 1,
        if flowBelow s flow 70 then 0 else s.power.above.2.2.2 + 1) }) ∧
    (10 ≤ s.power.below.1 → s.power.flowWarn = false →
      exec .flowWarning s = .next (wakeEvent (raisePf0 17 { s with power.flowWarn := true }))) ∧
    (s.power.below.1 < 10 ∨ s.power.flowWarn = true → exec .flowWarning s = .next s) ∧
    (1000 ≤ s.power.above.1 → exec .flowWarningEnd s = .next { s with power.flowWarn := false }) ∧
    (s.power.above.1 < 1000 → exec .flowWarningEnd s = .next s) ∧
    (10 ≤ s.power.below.2.1 → s.power.flowShed = false → ∃ t, exec .flowBShed s = .next t ∧
      t = wakeEvent (shedClassB { s with power.flowShed := true }) ∧ t.power = { s.power with flowShed := true }) ∧
    (s.power.below.2.1 < 10 ∨ s.power.flowShed = true → exec .flowBShed s = .next s) ∧
    (1000 ≤ s.power.above.2.1 → exec .flowBShedEnd s = .next { s with power.flowShed := false }) ∧
    (s.power.above.2.1 < 1000 → exec .flowBShedEnd s = .next s) ∧
    (2 ≤ s.power.below.2.2 ∨ s.power.hotRise = true → s.power.stop = false →
      exec .coolantStop s = .next (wakeEvent { s with power.stopPending := true })) ∧
    ((s.power.below.2.2 < 2 ∧ s.power.hotRise = false) ∨ s.power.stop = true → exec .coolantStop s = .next s) ∧
    (s.power.stop = true → 1000 ≤ s.power.above.2.2.1 → (∀ i, i < 146 → forecastOf s i ≤ paceLimit i) →
      exec .coolantStopEnd s = .next { s with power.stop := false, power.sinceRise := 0 }) ∧
    (s.power.stop = false ∨ s.power.above.2.2.1 < 1000 ∨ (∃ i, i < 146 ∧ paceLimit i < forecastOf s i) →
      exec .coolantStopEnd s = .next s)

/-- The power ladder, the model's check, a suspect sensor, the lease, the comparators and the brake: a rung climbs after four
tides, up to the third, and lifts after sixteen; a model 64 tides out of range is flagged, with vector 17 and a refit of 10 s,
repeated until it is 64 tides inside; an expired lease leaves the orphan cap; two hot diodes of one place below 130 power the
main package down; the brake forces OP0. Where an event's conditions do not hold nothing changes. Rests on the model's choices
of logs 5, 41. -/
def Obligations.PowerEvents : Prop :=
  ∀ s : State,
    (4 ≤ s.power.climbTides → s.power.rung < 3 → ∃ t, exec .rungClimb s = .next t ∧ t.power = { s.power with
      rung := s.power.rung + 1, climbTides := 0, liftTides := 0, rung3Tides := 0, reported3 := false } ∧
      (s.power.rung = 2 → t = { s with power := t.power })) ∧
    (s.power.climbTides < 4 ∨ 3 ≤ s.power.rung → exec .rungClimb s = .next s) ∧
    (16 ≤ s.power.liftTides → s.power.rung ≠ 0 → exec .rungLift s = .next { s with
      power.rung := s.power.rung - 1, power.climbTides := 0, power.liftTides := 0, power.rung3Tides := 0, power.reported3 := false }) ∧
    (s.power.liftTides < 16 ∨ s.power.rung = 0 → exec .rungLift s = .next s) ∧
    (s.power.mismatch = false →
      (64 ≤ s.power.ratioOut ∨ 64 ≤ s.power.missingTides → exec .powerModelMismatch s =
        .next (raisePf0 17 { s with power.mismatch := true, power.refitEndQ := some (s.tide.nowQ + 40000) })) ∧
      (s.power.ratioOut < 64 → s.power.missingTides < 64 → exec .powerModelMismatch s = .next s)) ∧
    (s.power.mismatch = true →
      (s.power.refitEndQ = none → exec .powerModelMismatch s = .next s) ∧
      (∀ q, s.power.refitEndQ = some q →
        (s.tide.nowQ < q → exec .powerModelMismatch s = .next s) ∧
        (q ≤ s.tide.nowQ → 64 ≤ s.power.ratioIn → exec .powerModelMismatch s =
          .next { s with power.mismatch := false, power.refitEndQ := none }) ∧
        (q ≤ s.tide.nowQ → s.power.ratioIn < 64 → exec .powerModelMismatch s =
          .next { s with power.refitEndQ := some (s.tide.nowQ + 40000) }))) ∧
    (∀ i, (getHotspot s i).suspect = false →
      (50 ≤ (getHotspot s i).differ → exec (.sensorSuspect i) s =
        .next (raisePf0 17 (setHotspot s i { getHotspot s i with suspect := true }))) ∧
      ((getHotspot s i).differ < 50 → exec (.sensorSuspect i) s = .next s)) ∧
    (∀ i, (getHotspot s i).suspect = true →
      (1000 ≤ (getHotspot s i).agree → exec (.sensorSuspect i) s =
        .next (setHotspot s i { getHotspot s i with suspect := false })) ∧
      ((getHotspot s i).agree < 1000 → exec (.sensorSuspect i) s = .next s)) ∧
    (s.power.lease = none → exec .leaseExpiry s = .next s) ∧
    (∀ l h, s.power.lease = some l → hdrOf l.cmd = some h →
      (l.expiresQ ≤ s.tide.nowQ → exec .leaseExpiry s =
        .next (finish h .ok .none [0, 0, 1] { s with power.capW := s.power.orphanW, power.lease := none })) ∧
      (s.tide.nowQ < l.expiresQ → exec .leaseExpiry s = .next s)) ∧
    (∀ i a b, mainUp s = true → i < 130 → 118 ≤ a → a ≤ 150 → 118 ≤ b → b ≤ 150 →
      ∃ t, exec (.thermalComparatorTrip i a b) s = .next t ∧ t.aon.switchClosed = false ∧ t.aon.downRow = some 8 ∧
        t.tide.running = false ∧ t.safety.hold.isSome = true) ∧
    (∀ i a b, mainUp s = false ∨ 130 ≤ i ∨ a < 118 ∨ 150 < a ∨ b < 118 ∨ 150 < b →
      exec (.thermalComparatorTrip i a b) s = .next s) ∧
    (∃ t, exec .brakeAssert s = .next t ∧ t.aon = { s.aon with brakeLow := true } ∧ t.power.brake = true ∧
      t.power.brakeHighIx = none ∧ (mainUp s = true → t.power.op = 0 ∧ t.power.forced = true)) ∧
    (s.aon.brakeLow = true → exec .brakeRelease s =
      .next (pinLevel 0 { s with aon.brakeLow := false, power.brakeHighIx := some s.tide.ix })) ∧
    (s.aon.brakeLow = false → exec .brakeRelease s = .next s)


/-! ## Time -/

/-- A tide edge: votes and breaches of the closing tide are decided first, unless it is discarded or the module restarts, and no
edge falls if they stop the tides; the label then advances by one tide, transfers, relabels and the period change that are due
take effect, the wardens get their marks, the tide commits, is discarded, or in a restart does neither, the next one opens, and
what was gathered goes out; the edge after the last count ends the tides instead. While the tides do not run, an edge opens the
first; none falls while the main package is down, TIME has no clock, the module is decommissioned or its counts are used up.
Rests on the model's choices of logs 14, 17, 69. -/
def Obligations.TideEdgeFalls : Prop :=
  ∀ (e : EdgeIn) (s : State),
    (∀ x : State, (advanceLabel x).tide.ix = x.tide.ix + 1 ∧ (advanceLabel x).tide.nowQ = x.tide.nowQ + x.tide.periodQ ∧
      (x.tide.count + 1 < 281474976710656 → (advanceLabel x).tide.count = x.tide.count + 1)) ∧
    (mainUp s = true → timeLost s = false → s.tide.running = true →
      ∀ s0, s0 = (if restarting s || s.tide.discard then s else decideClosing s) →
      (s0.tide.running = false → exec (.tideEdge e) s = .next s0) ∧
      (s0.tide.running = true → ∀ (close : State → State) (u : State),
        close = (if s0.tide.discard then discardTide s.tide.ix
          else if restarting s && !s.tide.discard then id else commitTide s.tide.ix) →
        u = settleTransfers (repace (beginGather (recordEnergy e (advanceLabel (runTraffic e.traffic s0))))) →
        (s.tide.count + 1 ≠ 281474976710656 → exec (.tideEdge e) s = .next (endGather (openNext e (beginPause (notePorts e
          (countWindow (close (sendMarks (decide (dueRelabels u ≠ [])) (changePeriod (applyRelabels u))))))))) ) ∧
        (s.tide.count + 1 = 281474976710656 → exec (.tideEdge e) s =
          .next (endGather (exhaust (beginPause (notePorts e (countWindow (close u))))))))) ∧
    (mainUp s = false ∨ timeLost s = true → exec (.tideEdge e) s = .next s) ∧
    (s.tide.running = false → s.ident.lifecycle = .decommissioned ∨ s.tide.exhausted = true →
      exec (.tideEdge e) s = .next s) ∧
    (mainUp s = true → timeLost s = false → s.tide.running = false → s.ident.lifecycle ≠ .decommissioned →
      s.tide.exhausted = false → exec (.tideEdge e) s = .next (openFirst e s))

/-- Time sources: a Sync of the selected port and domain sets the offset and counts good intervals, and the sixteenth in a row
locks from ACQUIRE or HOLDOVER; others change nothing; a second without one while locked is HOLDOVER, and ends the count of good
intervals in any state; the alignment fault is set after 16 tides out and cleared after 16 in; a member that does not answer
counts as failed, with ST_NOT_PERMITTED, for every forwarded command that awaits it, which is settled when no other member is
awaited. Rests on the model's choices of logs 54, 69. -/
def Obligations.TimeEvents : Prop :=
  ∀ s : State,
    (∀ (port domain : Nat) (off : Int), s.time.source = 1 ∨ s.time.source = 2 → port = s.time.source → domain = s.time.domain →
      ∃ t g, exec (.gptpSync port domain off) s = .next t ∧
        g = (if off.natAbs ≤ 100 then min 16 (s.time.goodSyncs + 1) else 0) ∧ t.time.goodSyncs = g ∧ t.time.offsetNs = off ∧
        (g = 16 → s.time.state = .acquire ∨ s.time.state = .holdover → t.time.state = .locked) ∧
        (g ≠ 16 ∨ (s.time.state ≠ .acquire ∧ s.time.state ≠ .holdover) → t.time.state = s.time.state) ∧
        t = { s with time := t.time }) ∧
    (∀ (port domain : Nat) (off : Int), (s.time.source ≠ 1 ∧ s.time.source ≠ 2) ∨ port ≠ s.time.source ∨ domain ≠ s.time.domain →
      exec (.gptpSync port domain off) s = .next s) ∧
    (s.time.source = 1 ∨ s.time.source = 2 → s.time.state = .locked →
      exec .syncTimeout s = .next { s with time.state := .holdover, time.goodSyncs := 0 }) ∧
    ((s.time.source ≠ 1 ∧ s.time.source ≠ 2) ∨ s.time.state ≠ .locked →
      exec .syncTimeout s = .next { s with time.goodSyncs := 0 }) ∧
    (16 ≤ s.time.outTides → exec .timeAlignFault s = .next { s with time.alignFault := true }) ∧
    (s.time.outTides < 16 → 16 ≤ s.time.inTides → exec .timeAlignFault s = .next { s with time.alignFault := false }) ∧
    (s.time.outTides < 16 → s.time.inTides < 16 → exec .timeAlignFault s = .next s) ∧
    (∀ m, exec (.peerFailed m) s =
      .next (s.links.forwards.foldl (fun st f => memberStatus m f.seq (statusCode .notPermitted) 0 st) s)) ∧
    (∀ m, (∀ f ∈ s.links.forwards, m ∉ f.waiting) → exec (.peerFailed m) s = .next s) ∧
    (∀ m f, s.links.forwards = [f] → m ∈ f.waiting →
      (f.waiting.filter (· ≠ m) ≠ [] → exec (.peerFailed m) s = .next { s with links.forwards := [{ f with
        waiting := f.waiting.filter (· ≠ m), failed := f.failed ++ [(m, statusCode .notPermitted, 0)] }] }) ∧
      (f.waiting.filter (· ≠ m) = [] → exec (.peerFailed m) s = .next (settleForward { f with
        waiting := [], failed := f.failed ++ [(m, statusCode .notPermitted, 0)] } s)))

/-! ## Clocks -/

/-- Clocks: a monitor of a powered domain flags it, once, and where there is one raises its source on the domain's hub; the time
base then holds over, and a domain without fallback is lost; a watchdog that expires on a flagged domain moves it to its
fallback, for good but for REFSEL, is a breach, and has the domain's effect; three windows within 200 ppm make an oscillator
stable; two outside in a row drop a selected one, or a warden's, which waits 1 s, and one drops any other; a lost recovered
clock is dropped, and is judged anew when it returns; a control core's watchdog begins SAFE_HOLD while the tides run. Where an
event's conditions do not hold nothing changes. Rests on the model's choices of log 49. -/
def Obligations.ClockEvents : Prop :=
  ∀ s : State,
    (∀ d b, 100 ≤ d ∨ isAphy d = true ∨ d = 91 ∨ domainPowered s d = false ∨ (getDomain s d).flagged = true →
      exec (.clockMonitorFlag d b) s = .next s) ∧
    (∀ d b r, d < 100 → isAphy d = false → d ≠ 91 → domainPowered s d = true → (getDomain s d).flagged = false →
      r = (if hasMonitor d then raise (domainHub d) (1568 + d)
          (setDomain s d { getDomain s d with flagged := true, duringSwitch := b })
        else setDomain s d { getDomain s d with flagged := true, duringSwitch := b }) →
      (d = 93 → exec (.clockMonitorFlag d b) s = .next { r with clocks.holdover := true }) ∧
      (d ≠ 93 → noFallback d = false → exec (.clockMonitorFlag d b) s = .next r) ∧
      (d ≠ 93 → noFallback d = true → exec (.clockMonitorFlag d b) s = .next (loseDomain d r)) ∧
      (getDomain r d).flagged = true) ∧
    (∀ d, 100 ≤ d ∨ (getDomain s d).flagged = false ∨ noFallback d = true ∨ (watchdogDie d).any (clusterHalted s) = true →
      exec (.clockWatchdogExpiry d) s = .next s) ∧
    (∀ d u, d < 100 → (getDomain s d).flagged = true → noFallback d = false → (watchdogDie d).any (clusterHalted s) = false →
      u = setDomain s d { getDomain s d with flagged := false, fallback := (getDomain s d).fallback || decide (d ≠ 93) } →
      (∀ w k, domainPlace d = .warden w k → exec (.clockWatchdogExpiry d) s = .next (hangEffect d
        (wardenBreach w 0x17 2 255 255 d (bit (getDomain s d).duringSwitch) u))) ∧
      ((∀ w k, domainPlace d ≠ .warden w k) → exec (.clockWatchdogExpiry d) s = .next (hangEffect d
        (recordBreach 0x17 2 255 (hangPlace d) 255 d (bit (getDomain s d).duringSwitch) u)))) ∧
    (∀ (osc : Nat) (ppm : Int), 13 ≤ osc ∨ (getJudge s osc).waiting = true → exec (.judgeWindow osc ppm) s = .next s) ∧
    (∀ (osc : Nat) (ppm : Int), osc < 13 → (getJudge s osc).waiting = false → ∃ t j, exec (.judgeWindow osc ppm) s = .next t ∧
      getJudge t osc = j ∧
      (osc < 11 → t = chooseRef (setJudge s osc j)) ∧
      (osc = 11 → t = { setJudge s osc j with wardens.a.oscBad := decide (20 < ppm.natAbs) }) ∧
      (osc = 12 → t = { setJudge s osc j with wardens.b.oscBad := decide (20 < ppm.natAbs) }) ∧
      (ppm.natAbs ≤ 200 → j.passes = (getJudge s osc).passes + 1 ∧ j.fails = 0 ∧
        (j.stable = true ↔ (getJudge s osc).stable = true ∨ 2 ≤ (getJudge s osc).passes)) ∧
      (200 < ppm.natAbs → (s.clocks.refsel = osc ∨ 11 ≤ osc) → (getJudge s osc).stable = true →
        (1 ≤ (getJudge s osc).fails → j.waiting = true ∧ j.stable = false) ∧
        ((getJudge s osc).fails = 0 → j.passes = 0 ∧ j.fails = 1 ∧ j.stable = true)) ∧
      (200 < ppm.natAbs → (s.clocks.refsel ≠ osc ∧ osc < 11) ∨ (getJudge s osc).stable = false →
        j.passes = 0 ∧ j.fails = (getJudge s osc).fails + 1 ∧ j.stable = false)) ∧
    (∀ osc, osc < 13 → (getJudge s osc).waiting = true → exec (.rejudgeTimer osc) s = .next (setJudge s osc {})) ∧
    (∀ osc, 13 ≤ osc ∨ (getJudge s osc).waiting = false → exec (.rejudgeTimer osc) s = .next s) ∧
    (∀ io core, mainUp s = true → io < 2 → core < 4 → coreHalted s io core = false → s.tide.running = true →
      exec (.controlCoreWatchdog io core) s = .next (enterHold 3 s)) ∧
    (∀ io core, mainUp s = false ∨ 2 ≤ io ∨ 4 ≤ core ∨ coreHalted s io core = true ∨ s.tide.running = false →
      exec (.controlCoreWatchdog io core) s = .next s) ∧
    (∀ d, isRecovered d = false ∨ domainPowered s d = false → exec (.lossOfSignal d) s = .next s) ∧
    (∀ d, isRecovered d = true → domainPowered s d = true →
      (recoveredOsc d = none → exec (.lossOfSignal d) s = .next (setDomain s d { getDomain s d with lost := true })) ∧
      (∀ k, recoveredOsc d = some k → exec (.lossOfSignal d) s = .next (chooseRef (setJudge
          (setDomain s d { getDomain s d with lost := true }) k (if s.clocks.refsel = k then { waiting := true } else {}))) ∧
        (s.clocks.refsel = k → k ≠ 0 → wantedRef s = k → ∀ t, exec (.lossOfSignal d) s = .next t → t.clocks.refsel = 0))) ∧
    (∀ d, isRecovered d = false ∨ (getDomain s d).lost = false → exec (.signalReturn d) s = .next s) ∧
    (∀ d, isRecovered d = true → (getDomain s d).lost = true →
      (recoveredOsc d = none → exec (.signalReturn d) s = .next (setDomain s d { getDomain s d with lost := false })) ∧
      (∀ k, recoveredOsc d = some k → exec (.signalReturn d) s = .next (chooseRef (setJudge
        (setDomain s d { getDomain s d with lost := false }) k { waiting := (getJudge s k).waiting }))))


/-! ## Inputs, errors, arbiters, scratchpads and scrubs -/

/-- An input datum while tides run: its source's SEQ advances, it is forwarded where a linked module takes it, and each consumer
bound here awaits it, with its tag, for the next edge, or the one after for a datum in the cycle of an edge; without a binding
nothing waits. Outside the tides, or from no source, nothing changes. Rests on the model's choices of logs 39, 69. -/
def Obligations.InputsWaitForTheirEdge : Prop :=
  ∀ (d : Datum) (s : State),
    (mainUp s = true → s.tide.running = true → 3 ≤ d.rank → d.rank ≤ 5 → srcLocalOk d.rank d.srcLocal = true →
      ∀ (key : Nat) (q : Word) (s1 : State), key = sourceKey d.rank (ownIndex s) d.srcLocal → q = nextSeq s key →
        s1 = bumpSeq key (d.forward.foldl (forwardInput (arrivalTag s d q) { d with seq := q }) s) →
      (∃ t, exec (.inputArrival d) s = .next t ∧
        t = (s.work.binds.filter fun b => b.rank = d.rank && b.srcMod = ownIndex s && b.srcLocal = d.srcLocal).foldl
          (fun st b => awaitInput ⟨arrivalTag s d q, s.tide.count + bit d.atEdge, s.tide.ix + bit d.atEdge + 1,
            ⟨b.polder, b.handle, b.port, false⟩, { d with seq := q }⟩ st) s1) ∧
      (∀ b, (s.work.binds.filter fun b => b.rank = d.rank && b.srcMod = ownIndex s && b.srcLocal = d.srcLocal) = [b] →
        (∀ w ∈ s.tide.waiting, w.tag ≠ arrivalTag s d q) → d.forward = [] →
        exec (.inputArrival d) s = .next { bumpSeq key s with
          tide.waiting := s.tide.waiting ++ [⟨arrivalTag s d q, s.tide.count + bit d.atEdge,
            s.tide.ix + bit d.atEdge + 1, ⟨b.polder, b.handle, b.port, false⟩, { d with seq := q }⟩] }) ∧
      ((∀ b ∈ s.work.binds, ¬ (b.rank = d.rank ∧ b.srcMod = ownIndex s ∧ b.srcLocal = d.srcLocal)) →
        exec (.inputArrival d) s = .next s1)) ∧
    (mainUp s = false ∨ s.tide.running = false ∨ d.rank < 3 ∨ 5 < d.rank ∨ srcLocalOk d.rank d.srcLocal = false →
      exec (.inputArrival d) s = .next s)

/-- Errors: an arithmetic check failure is a breach, marks the channel of Class S work as faulty, or withholds the tide of a
polder of another class, which fails its invocations of that tide, and makes the items of its array or vector unit due on its
tile, whose third in 10,000 tides removes the stack; a correctable error counts for its polder, and the sixteenth of a memory
row marks the row for repair; an uncorrectable one is a breach, marks its memory row, or counts for its tile, whose second
removes the stack, and then has the outcome of its role, at once or, in a transfer, at the next edge (a page's: its request
fails; firmware: SAFE_HOLD); a starved input sets its flag, and is a breach where the traffic was admitted. Nothing of this
happens in an unpowered package, but that a correctable error counts, nor to a masked input. Rests on the model's choices of
logs 31, 67, 74. -/
def Obligations.ErrorEvents : Prop :=
  ∀ s : State,
    (∀ p run inv stack tile unit, mainUp s = false → exec (.arithCheck p run inv stack tile unit) s = .next s) ∧
    (∀ p run inv stack tile unit, mainUp s = true →
      ∃ u v t, u = recordBreach 0x01 0 p stack tile unit inv s ∧
        (clsOf s p = some .S → ∀ c, channelOf s stack = some c → v = faultS p run (fun q _ => q = p) c u) ∧
        (clsOf s p = some .S → channelOf s stack = none → v = u) ∧
        (clsOf s p ≠ some .S → v = withholdTide p u) ∧
        t = setTile v stack tile { getTile v stack tile with
          arith := recentTides v (getTile v stack tile).arith, due := if unit = 0 then [1, 2, 5] else [3, 4, 6, 7] } ∧
        exec (.arithCheck p run inv stack tile unit) s =
          .next (if 3 ≤ (recentTides v (getTile v stack tile).arith).length then removeStack stack 2 t else t)) ∧
    (∀ p u, ∃ y, getPolder (withholdTide p u) p = (getPolder u p).map y ∧
      ∀ z, (y z).withheld = true ∧
        ∀ r ∈ (y z).runs, ∀ i ∈ r.2.invs, i.finished = none ∨ i.finished = some u.tide.ix → i.fail.isSome = true) ∧
    (∀ p row addr rmw, exec (.correctableError p .sram ⟨row, addr, rmw⟩) s =
      .next (noteFlaw .sram addr rmw (modPolder s p fun x => { x with ceSram := sat32 (x.ceSram + 1) }))) ∧
    (∀ p tier row addr rmw key u, tier = .hbm ∨ tier = .spill → key = rowKey (deviceOf tier addr) row →
      u = noteFlaw tier addr rmw (modPolder s p fun x =>
        if tier = .hbm then { x with ceHbm := sat32 (x.ceHbm + 1) } else { x with ceSpill := sat32 (x.ceSpill + 1) }) →
      ∃ t, exec (.correctableError p tier ⟨row, addr, rmw⟩) s = .next t ∧
        t = { u with flash.rowErrors := t.flash.rowErrors, flash.repairRows := t.flash.repairRows } ∧
        tget t.flash.rowErrors key = some ((tget s.flash.rowErrors key).getD 0 + 1) ∧
        (15 ≤ (tget s.flash.rowErrors key).getD 0 → key ∈ t.flash.repairRows) ∧
        ((tget s.flash.rowErrors key).getD 0 < 15 → t.flash.repairRows = s.flash.repairRows)) ∧
    (∀ p tier tensor stack tile row transfer role, mainUp s = false →
      exec (.uncorrectable p tier tensor stack tile row ⟨role, transfer⟩) s = .next s) ∧
    (∀ p tier tensor stack tile row transfer role, mainUp s = true →
      ∃ v, exec (.uncorrectable p tier tensor stack tile row ⟨role, transfer⟩) s = .next
          (if transfer then { v with work.transferErrors := v.work.transferErrors ++ [(p, role)] } else errorOutcome p role v) ∧
        v.safety.nextIndex = s.safety.nextIndex + 1 ∧
        (tier = .hbm → rowKey stack row ∈ v.flash.repairRows) ∧ (tier = .spill → rowKey (8 + stack) row ∈ v.flash.repairRows) ∧
        (tier = .sram → (getTile v stack tile).sramErrs = recentTides s (getTile s stack tile).sramErrs ∧
          (2 ≤ (recentTides s (getTile s stack tile).sramErrs).length → s.work.stackOk.getD stack false = true →
            ∃ c, (stack, c) ∈ v.work.removals))) ∧
    (∀ p sluice seq v x, getPolder v p = some x → ∃ y, getPolder (errorOutcome p (.kv sluice seq) v) p = some y ∧
      y.requests = x.requests.map fun r => if namesRequest sluice seq r then { r with dataError := true } else r) ∧
    (∀ p v, errorOutcome p .firmware v = enterHold 3 v) ∧
    (∀ inst input, mainUp s = true → inst ≤ 1057 → input ≤ 15 → inputMasked s inst input = false →
      ∃ t, exec (.arbiterStarvation inst input) s = .next t ∧ input ∈ (getArbiter t inst).flags ∧
        (inst, input) ∈ t.work.starving ∧
        (12 ≤ input ∧ input ≤ 14 → t.safety.nextIndex = s.safety.nextIndex + 1) ∧
        (input < 12 ∨ input = 15 → t.safety.log = s.safety.log)) ∧
    (∀ inst input, mainUp s = false ∨ 1057 < inst ∨ 15 < input ∨ inputMasked s inst input = true →
      exec (.arbiterStarvation inst input) s = .next s)

/-- The scratchpads, scrubs, sweeps and copies: accesses are served, reads first, after those that wait: one that is served
reads the bytes or writes them, zeros or nothing in a secure part that is being wiped, and one that is not waits, collides or is
refused, and counts; a scrub that is complete completes its command and, after a reset, lets the polder go on, after a
destruction takes it away, and after an unlocking or decommissioning ends that; a command that has waited 2 s for a scrub ends
with ST_QUOTA and SCRUB_PENDING; a sweep goes over the rest of the polder's pages, and is marked as done when none is left; a
page's copy, once made, is marked as done. An event with nothing to end changes nothing. Rests on the model's choices of log 70.
-/
def Obligations.StoreEvents : Prop :=
  ∀ s : State,
    (∀ io as, mainUp s = false ∨ 2 ≤ io → exec (.scratchpadAccess io as) s = .next s) ∧
    (∀ io as all, mainUp s = true → io < 2 →
      all = (getScr s io).retry ++ (as.filter fun a => !(getScr s io).retry.any (·.port = a.port)) →
      exec (.scratchpadAccess io as) s =
        .next ((readsFirst all).foldl (serveAccess io all) (setScr s io { getScr s io with retry := [], responses := [] }))) ∧
    (∀ io all a x, io < 2 → x = getScr s io →
      (scrOutcome x all a = .served → a.write = false → ∃ t, serveAccess io all s a = t ∧ t.mem.cells = s.mem.cells ∧
        (getScr t io).responses = x.responses ++ [(a.port, 0, if wiped x a then List.replicate a.size 0
          else readBytes s.mem.cells (scrBase io + a.addr) a.size)]) ∧
      (scrOutcome x all a = .served → a.write = true → ∃ t, serveAccess io all s a = t ∧
        (getScr t io).responses = x.responses ++ [(a.port, 0, [])] ∧
        t.mem.cells = if wiped x a then s.mem.cells
          else writeBytes s.mem.cells (scrBase io + a.addr) (padTo a.size a.data)) ∧
      (scrOutcome x all a = .wait → serveAccess io all s a = setScr s io { x with
        conflicts := tset x.conflicts a.port (sat32 ((tget x.conflicts a.port).getD 0 + 1)), retry := x.retry ++ [a] }) ∧
      (scrOutcome x all a = .collision → serveAccess io all s a = setScr s io { x with
        collisions := tset x.collisions a.port (sat32 ((tget x.collisions a.port).getD 0 + 1))
        responses := x.responses ++ [(a.port, 2, [])] }) ∧
      (scrOutcome x all a = .error → serveAccess io all s a = setScr s io { x with
        deny := if inSecure a && !secureAccess a then sat32 (x.deny + 1) else x.deny
        responses := x.responses ++ [(a.port, 1, List.replicate (if a.write then 0 else a.size) 0)] })) ∧
    (∀ n, s.work.scrubs.find? (·.id = n) = none → exec (.scrubDone n) s = .next s) ∧
    (∀ n j, s.work.scrubs.find? (·.id = n) = some j →
      (scrubReady s j = false → exec (.scrubDone n) s = .next s) ∧
      (scrubReady s j = true → ∀ u, u = scrubbed j { s with work.scrubs := s.work.scrubs.filter (·.id ≠ n) } →
        (j.kind = .frames → (j.cmd = none → exec (.scrubDone n) s = .next u) ∧
          (∀ c h, j.cmd = some c → hdrOf c = some h → exec (.scrubDone n) s = .next (finish h .ok .none [] u))) ∧
        (∀ x, j.kind = .reset → getPolder u j.polder = some x → ∃ t, exec (.scrubDone n) s = .next t ∧
          getPolder t j.polder =
            some { x with resetting := false, prevGen := none, rotation := none, rotationsWaiting := [] } ∧
          (j.tdisp = true → getTdi t j.polder = 0)) ∧
        (j.kind = .destroy → ∃ t, exec (.scrubDone n) s = .next t ∧ getPolder t j.polder = none ∧ getTdi t j.polder = 0) ∧
        (j.kind = .debug → exec (.scrubDone n) s = .next (unlocked u)) ∧
        (j.kind = .decommission → exec (.scrubDone n) s = .next (decommissioned u)))) ∧
    (∀ fn n seq, (∀ d ∈ s.work.decisions, ∀ h, hdrOf d.cmd = some h → ¬ (h.fn = fn ∧ h.sluice = n ∧ h.seq = seq)) ∨
        s.work.scrubs = [] → exec (.scrubPending fn n seq) s = .next s) ∧
    (∀ fn n seq d h, s.work.decisions = [d] → hdrOf d.cmd = some h → h.fn = fn → h.sluice = n → h.seq = seq →
      s.work.scrubs ≠ [] → exec (.scrubPending fn n seq) s =
        .next (finish h .quota .scrubPending [] { s with work.decisions := [], work.released := [] })) ∧
    (∀ p, mainUp s = false ∨ (getPolder s p).bind (·.rotation) = none → exec (.keySweepDone p) s = .next s) ∧
    (∀ p x r, mainUp s = true → getPolder s p = some x → x.rotation = some r →
      ∃ t r', exec (.keySweepDone p) s = .next t ∧ getPolder t p = some { x with rotation := some r' } ∧ r'.cmd = r.cmd ∧
        (r'.swept = true ↔ 3 ≤ r'.pos.1) ∧ (r'.swept = true → r'.buffer = none)) ∧
    (∀ p n seq k, (∀ r e, getReq s p (4294967296 * n + seq.toNat) = some r → r.pages[k]? = some e →
        (e.state ≠ 2 ∧ e.state ≠ 3) ∨ e.copied = true ∨ mainUp s = false) →
      exec (.kvCopyDone p n seq k) s = .next s) ∧
    (∀ p n seq k r e, mainUp s = true → getReq s p (4294967296 * n + seq.toNat) = some r → r.pages[k]? = some e →
      e.state = 2 ∨ e.state = 3 → e.copied = false →
      exec (.kvCopyDone p n seq k) s = .next (setPage p (4294967296 * n + seq.toNat) k (fun g => { g with copied := true })
        (extCopy e.tier e.frame (3 - e.tier) e.shadow r.blockFrames s))) ∧
    (∀ p k j r e f, getReq s p k = some r → r.pages[j]? = some e → e.shared = false →
      getReq (setPage p k j f s) p k = some { r with pages := r.pages.set j (f e) })

/-! ## Quanta, slices and decisions -/

/-- Quanta and slices: a quantum that may end where and when it does computes its results; one of a run puts them into its
invocation, the last one ends an invocation that is not Class S in this tide, one whose check fails is an arithmetic failure,
and with nothing due within 0.5 µs a slice begins; the edge band begins, and after a forced drop stops what still runs; a passed
slice notes its time, a first failure repeats it, a repeat that passes is a breach, and one that fails asks for the stack's
removal, or outside the stacks is a breach; a quantum preempts a slice. Events of other quanta, tiles and items change nothing.
Rests on the model's choices of logs 37, 54, 67, 74. -/
def Obligations.TileEvents : Prop :=
  ∀ s : State,
    (∀ q, quantumValid s q = false → exec (.quantumEnd q) s = .next s) ∧
    (∀ q, quantumValid s q = true → exec (.quantumEnd q) s = .next
      (if q.nextDueNs = 0 || 500 < q.nextDueNs then startSlice q.stack q.tile (quantumEffect q s) else quantumEffect q s)) ∧
    (∀ q p r no c u, q.who = .run p r no → c = computeQuantum s q →
      u = touchOutput q c.out (memoryWork q (countExc p c.out.exc (leaveUnits q c (grantRead q s)))) →
      ∃ v, v.work.polders = (runQuantum p r no (isClassS u p) q.last q.tideLast (outputInto s q c.out) q.work u).work.polders ∧
        tget v.work.tileLast (32 * q.stack + q.tile) ≠ none ∧
        (c.ok = true → quantumEffect q s = v) ∧
        (c.ok = false → quantumEffect q s = arithFailure p r no q.stack q.tile (bit (arrayWork q.work).isNone) v)) ∧
    (∀ p r no isS last tideLast f w y, getRun s p r = some y →
      getRun (runQuantum p r no isS last tideLast f w s) p r = some { y with invs := y.invs.map fun i =>
        if i.no = no then
          { keepNew w { i with tensors := f i.tensors } with
            finished := if last && !isS then some s.tide.ix else i.finished
            running := if isS then i.running else !last && !tideLast }
        else i }) ∧
    (mainUp s = false ∨ s.tide.running = false ∨ s.tide.inBand = true → exec .edgeBand s = .next s) ∧
    (mainUp s = true → s.tide.running = true → s.tide.inBand = false →
      (s.power.forcedIx ≠ some s.tide.ix → exec .edgeBand s = .next { s with tide.inBand := true }) ∧
      (s.power.forcedIx = some s.tide.ix → exec .edgeBand s = .next (stopQuanta { s with tide.inBand := true }))) ∧
    (∀ stack tile item n ok, mainUp s = false ∨ (item < 16 ∧ (4 ≤ stack ∨ 32 ≤ tile ∨ 16 ≤ n ∨ 16 * item + n ∉ sliceKeys)) ∨
        (16 ≤ item ∧ outsideInstances item ≤ n) → exec (.selftestSliceEnd stack tile item n ok) s = .next s) ∧
    (∀ stack tile item n, mainUp s = true → stack < 4 → tile < 32 → item < 16 → n < 16 → 16 * item + n ∈ sliceKeys →
      (∃ t, exec (.selftestSliceEnd stack tile item n true) s = .next t ∧
        (16 * item + n ∉ (getTile s stack tile).repeating → t.safety.nextIndex = s.safety.nextIndex ∧
          tget (getTile t stack tile).results (16 * item + n) = some ⟨0, some s.tide.nowQ⟩) ∧
        (16 * item + n ∈ (getTile s stack tile).repeating → t.safety.nextIndex = s.safety.nextIndex + 1 ∧
          tget (getTile t stack tile).results (16 * item + n) = some ⟨1, some s.tide.nowQ⟩)) ∧
      (∃ t, exec (.selftestSliceEnd stack tile item n false) s = .next t ∧
        (16 * item + n ∉ (getTile s stack tile).repeating → t.work = s.work ∧
          (getTile t stack tile).repeating = (getTile s stack tile).repeating ++ [16 * item + n]) ∧
        (16 * item + n ∈ (getTile s stack tile).repeating → s.work.stackOk.getD stack false = true →
          ∃ c, (stack, c) ∈ t.work.removals))) ∧
    (∀ stack tile item n, mainUp s = true → 16 ≤ item → n < outsideInstances item →
      (32 * item + n ∉ s.safety.itemsRepeating →
        exec (.selftestSliceEnd stack tile item n true) s = .next { s with
          safety.items := tset s.safety.items (32 * item + n) ⟨0, some s.tide.nowQ⟩
          safety.itemsRepeating := s.safety.itemsRepeating.filter (· ≠ 32 * item + n) } ∧
        exec (.selftestSliceEnd stack tile item n false) s =
          .next { s with safety.itemsRepeating := s.safety.itemsRepeating ++ [32 * item + n] }) ∧
      (32 * item + n ∈ s.safety.itemsRepeating →
        (∃ t, exec (.selftestSliceEnd stack tile item n true) s = .next t ∧ t.safety.nextIndex = s.safety.nextIndex + 1 ∧
          tget t.safety.items (32 * item + n) = some ⟨1, some s.tide.nowQ⟩ ∧ 32 * item + n ∉ t.safety.itemsRepeating) ∧
        (∃ t, exec (.selftestSliceEnd stack tile item n false) s = .next t ∧
          (outsideStack item n = none → t.safety.nextIndex = s.safety.nextIndex + 1) ∧
          (∀ j, outsideStack item n = some j → s.work.stackOk.getD j false = true → ∃ c, (j, c) ∈ t.work.removals)))) ∧
    (∀ stack tile, s.tide.inBand = false → stack < 4 → tile < 32 → exec (.slicePreempt stack tile) s =
      .next (setTile s stack tile { getTile s stack tile with slice := none })) ∧
    (∀ stack tile, s.tide.inBand = true ∨ 4 ≤ stack ∨ 32 ≤ tile → exec (.slicePreempt stack tile) s = .next s)

/-- Promotions and decisions: the copies of a promotion that has switched are noted; while a promotion or a move runs, or no
tide commits, or nothing waits, nothing is decided; else the command that waits first is, or goes on waiting: a POLDER_CREATE
whose quotas fit makes its polder, one whose quotas would fit nowhere ends with ST_QUOTA, and one that a scrub will make room
for waits. Rests on the model's choices of log 22. -/
def Obligations.DecisionEvents : Prop :=
  ∀ s : State,
    (∀ m ok, s.work.promotion = some m → m.switched = true →
      exec (.promotionCopyDone ok) s = .next { s with work.promotion := some { m with copied := ok } }) ∧
    (∀ ok, (∀ m, s.work.promotion = some m → m.switched = false) → exec (.promotionCopyDone ok) s = .next s) ∧
    (∀ plans, decisionsWait s = true ∨ s.work.decisions = [] → exec (.admissionDecision plans) s = .next s) ∧
    (∀ plans d rest, decisionsWait s = false → s.work.decisions = d :: rest →
      (∀ t, decideCommand d.cmd d.no plans { s with work.decisions := rest } = some t →
        exec (.admissionDecision plans) s = .next (dropReleased t)) ∧
      (decideCommand d.cmd d.no plans { s with work.decisions := rest } = none →
        exec (.admissionDecision plans) s = .next s)) ∧
    (∀ (d : Decision) h cls n w sr hb sp plans, d.cmd = .polderCreate h cls n w sr hb sp →
      (∀ st r, createFault s h = some (st, r) → decideCommand d.cmd d.no plans s = some (finish h st r [] s)) ∧
      (createFault s h = none →
        (quotaFault s false d.no (classOfCode cls) sr hb sp = none →
          decideCommand d.cmd d.no plans s = some (makePolder h cls n w sr hb sp s)) ∧
        (∀ r, quotaFault s false d.no (classOfCode cls) sr hb sp = some r →
          (quotaFault s true d.no (classOfCode cls) sr hb sp ≠ none →
            decideCommand d.cmd d.no plans s = some (finish h .quota r [] s)) ∧
          (quotaFault s true d.no (classOfCode cls) sr hb sp = none → decideCommand d.cmd d.no plans s = none))))


/-! ## Votes and wardens -/

/-- The vote: the complete result of a Class S run on a live channel, once in the tide, sends a frame with its digest to each
warden and ends the invocation, and nothing is sent where the run yields none; a warden that votes discards and counts a frame
that fails its check or that names no expected result, ignores one from a stack without a channel, after its cut-off, or of a
channel that it has, and keeps every other: the first of a result emits nothing; one with which two live channels agree, and
that is no fault marker, gives the payload and begins its emission, where none has begun: a payload whose digest, computed
again, does not fit is a breach, and one that fits is queued in segments for each port; the cut-off ends the vote and sends the
verdict over the cross-link where that works; and a verdict that arrives over it is kept. Rests on the model's choices of logs
29, 56, 64, 74. -/
def Obligations.VoteEvents : Prop :=
  ∀ s : State,
    (∀ p r c bs, (∀ y, getRun s p r = some y → isClassS s p = false ∨ c ∉ liveChannels s ∨ sentResult s p r c = true ∨
        4096 < bs.length ∨ bs = [] ∨ s.tide.discard = true ∨ resultInv y = none) →
      exec (.resultReady p r c bs) s = .next s) ∧
    (∀ p r c y i bs, isClassS s p = true → c ∈ liveChannels s → sentResult s p r c = false → bs ≠ [] → bs.length ≤ 4096 →
      s.tide.discard = false → getRun s p r = some y → resultInv y = some i →
      ∃ t f, exec (.resultReady p r c bs) s = .next t ∧ t.out = .voteFrame .B f (voteFrameBytes f) :: .voteFrame .A f (voteFrameBytes f) :: s.out ∧
        f.tag = resultTag s p r ∧ f.channel = c ∧ f.payload = channelResult s p y i c bs ∧
        f.digest = resultDigest f.tag f.payload ∧ f.marker = false ∧ sentResult t p r c = true ∧
        getRun t p r = some { y with invs := y.invs.map fun j =>
          if j.no = i.no && j.finished.isNone then
            { j with finished := some s.tide.ix, running := false, result := some (channelResult s p y i c bs) }
          else j }) ∧
    (∀ w f, f.testFrame = true ∨ canVote s w = false ∨ f.stack ∉ channelStacks s → exec (.voteFrame w f) s = .next s) ∧
    (∀ w f, f.testFrame = false → canVote s w = true → f.stack ∈ channelStacks s →
      f.crcOk = false ∨ expectedTag s f.tag = false → ∃ t, exec (.voteFrame w f) s = .next t ∧
        tget (getWarden t w).discards (laneOf w f.stack) =
          some ((tget (getWarden s w).discards (laneOf w f.stack)).getD 0 + 1) ∧
        (getWarden t w).votes = (getWarden s w).votes ∧
        (f.crcOk = true → (getWarden t w).badLanes = (getWarden s w).badLanes) ∧
        (f.crcOk = false → (laneOf w f.stack, s.tide.ix) ∈ (getWarden t w).badLanes)) ∧
    (∀ w f, f.testFrame = false → canVote s w = true → f.stack ∈ channelStacks s → f.crcOk = true →
      expectedTag s f.tag = true → ∀ old, old = (getWarden s w).votes.find? (fun u =>
        u.polder = f.tag.srcLocal / 64 && u.run = f.tag.srcLocal % 64) →
      ((getWarden s w).cut = true ∨ (old.any fun v => v.frames.any (·.1 = f.channel)) = true →
        exec (.voteFrame w f) s = .next s) ∧
      ((getWarden s w).cut = false → old = none → exec (.voteFrame w f) s =
        .next (setWarden s w { getWarden s w with votes := (getWarden s w).votes ++
          [{ polder := f.tag.srcLocal / 64, run := f.tag.srcLocal % 64, tag := f.tag,
             frames := [(f.channel, if f.marker then none else some f.digest)] }] })) ∧
      (∀ v fs, (getWarden s w).cut = false → old = some v → (v.frames.any (·.1 = f.channel)) = false →
        fs = v.frames ++ [(f.channel, if f.marker then none else some f.digest)] →
        ∃ v' u, u = setWarden s w { getWarden s w with
            votes := ((getWarden s w).votes.filter fun u =>
              !(u.polder = f.tag.srcLocal / 64 && u.run = f.tag.srcLocal % 64)) ++ [v'] } ∧
          v'.frames = fs ∧ v'.emitted = v.emitted ∧
          (agreed s fs = some f.digest → f.marker = false → v.payload = [] →
            v'.payload = f.payload ∧ v'.trajectory = f.trajectory) ∧
          (agreed s fs = some f.digest → f.marker = false → v.emitted = none →
            exec (.voteFrame w f) s = .next (emitVoted w v' f.digest u)) ∧
          (agreed s fs ≠ some f.digest ∨ f.marker = true ∨ v.emitted ≠ none →
            exec (.voteFrame w f) s = .next u))) ∧
    (∀ w v d,
      (canEmit s w = false → emitVoted w v d s = s) ∧
      (canEmit s w = true → resultDigest v.tag v.payload ≠ d →
        emitVoted w v d s = wardenBreach w 0x16 0 v.polder 255 v.run v.tag.seq.toNat s) ∧
      (canEmit s w = true → resultDigest v.tag v.payload = d → (getWarden (emitVoted w v d s) w).queue =
        (getWarden s w).queue ++ (portsFor s false v.polder v.run).flatMap (resultSegments s w v d))) ∧
    (∀ frames d, (frames.filter fun x => x.1 ∈ liveChannels s).length ≤ 3 →
      (agreed s frames = some d ↔
        2 ≤ ((frames.filter fun x => x.1 ∈ liveChannels s).filter fun x => x.2 = some d).length)) ∧
    (∀ w, (canVote s w = false → exec (.voteCutoff w) s = .next s) ∧
      (canVote s w = true → s.wardens.crossLink = true → exec (.voteCutoff w) s = .next
        (emit (.verdict w ((getWarden s w).votes.map (lineOf s))) (setWarden s w { getWarden s w with cut := true }))) ∧
      (canVote s w = true → s.wardens.crossLink = false → exec (.voteCutoff w) s =
        .next (setWarden s w { getWarden s w with cut := true }))) ∧
    (∀ w lines, (canVote s w = true → s.wardens.crossLink = true → exec (.verdict w lines) s =
        .next (setWarden s w { getWarden s w with peer := some lines, peerSilent := 0 })) ∧
      (canVote s w = false ∨ s.wardens.crossLink = false → exec (.verdict w lines) s = .next s))

/-- The wardens: a port's segment leaves first in, first out; in HOLD a warden that is not muted releases the trajectory's
points in order and repeats the last. A mark first ends a span without marks, with one breach, and a wait of SAFE_HOLD for
marks; then a good one counts, or gives the warden its count, and the third in ARMED with a passed injection begins to vote; a
late or wrong one is a breach and restarts the count. A missing mark counts in the warden's own count and begins or continues a
span, and the third, outside ARMED, begins SAFE_HOLD by row 4, on the wardens' side alone where the main package is down. A boot
that is done reaches ARMED, or HOLD while SAFE_HOLD lasts, and a passed injection unmutes; a failed one is a breach; a lockstep
mismatch leads to BOOT; a trial boot that votes leads to the next stage, and one that fails ends the activation. Where an event
finds nothing to act on, nothing changes. Rests on the model's choices of log 54. -/
def Obligations.WardenEvents : Prop :=
  ∀ (w : Warden) (s : State),
    (∀ port, (∀ g, (getWarden s w).queue.find? (·.port = port) = some g → exec (.segmentSent w port) s =
        .next (emit (.segment g (segmentBytes g)) (setWarden s w { getWarden s w with queue := (getWarden s w).queue.erase g }))) ∧
      ((getWarden s w).queue.find? (·.port = port) = none → exec (.segmentSent w port) s = .next s)) ∧
    (∀ j, (getWarden s w).trajectory = some j → (getWarden s w).state = .hold → (getWarden s w).muted = false →
      exec (.fallbackPointRelease w) s = .next (setWarden s w { getWarden s w with
        nextPoint := (getWarden s w).nextPoint + 1
        queue := (getWarden s w).queue ++ pointSegments s w j (min (getWarden s w).nextPoint (j.points.length - 1))
          (j.points.length - 1 < (getWarden s w).nextPoint) })) ∧
    ((getWarden s w).trajectory = none ∨ (getWarden s w).state ≠ .hold ∨ (getWarden s w).muted = true →
      exec (.fallbackPointRelease w) s = .next s) ∧
    (∀ c relabel late, (getWarden s w).state = .off ∨ (getWarden s w).state = .boot →
      exec (.wardenTideMark w c relabel late) s = .next s) ∧
    (∀ c relabel late, (getWarden s w).state ≠ .off → (getWarden s w).state ≠ .boot →
      ∀ first u x, (first = true ↔ (getWarden s w).stopped = true ∨
          ((getWarden s w).goodMarks = 0 ∧ (getWarden s w).state = .armed)) →
        u = marksReturn (marksResumed w s) → x = getWarden u w →
      (first = true ∨ (late = false ∧ (c = x.count + 1 ∨ relabel = true)) → exec (.wardenTideMark w c relabel late) s =
        .next (setWarden u w (unmute u w (armedNext u
          { x with count := c, goodMarks := x.goodMarks + 1, peerSilent := x.peerSilent + 1 })))) ∧
      (first = false → late = true ∨ (c ≠ x.count + 1 ∧ relabel = false) → ∃ v y,
        v = wardenBreach w 0x0E 0 255 255 (if late then 0 else 1) 0 u ∧ y = getWarden v w ∧
        exec (.wardenTideMark w c relabel late) s = .next (setWarden v w (unmute v w
          { y with
            count := y.count + 1, goodMarks := 0, peerSilent := y.peerSilent + 1
            badMarks := v.tide.ix :: y.badMarks.filter fun i => v.tide.ix < i + 1000 })))) ∧
    ((getWarden s w).stopped = false → marksResumed w s = setWarden s w { getWarden s w with stopped := false, missing := 0 }) ∧
    ((getWarden s w).stopped = true → mainUp s = true →
      (marksResumed w s).safety.nextIndex = s.safety.nextIndex + 1 ∧
      getWarden (marksResumed w s) w = { getWarden s w with stopped := false, missing := 0 }) ∧
    ((∀ h, s.safety.hold = some h → h.waitMarks = false) → marksReturn s = s) ∧
    (∀ h, s.safety.hold = some h → h.waitMarks = true →
      marksReturn s = startRestart { s with safety.hold := some { h with waitMarks := false } }) ∧
    ((getWarden s w).state = .voting → (getWarden s w).muted = false → (getWarden s w).stopped = false → s.safety.hold = none →
      (exec (.wardenTideMark w ((getWarden s w).count + 1) false false) s = .next (setWarden s w { getWarden s w with
        count := (getWarden s w).count + 1, goodMarks := (getWarden s w).goodMarks + 1, missing := 0
        peerSilent := (getWarden s w).peerSilent + 1 })) ∧
      (∀ c relabel, mainUp s = true → ∃ t, exec (.wardenTideMark w c relabel true) s = .next t ∧
        (getWarden t w).goodMarks = 0 ∧ (getWarden t w).count = (getWarden s w).count + 1 ∧
        t.safety.nextIndex = s.safety.nextIndex + 1)) ∧
    ((getWarden s w).state = .armed → (getWarden s w).goodMarks = 2 → (getWarden s w).injectionOk = true →
      (getWarden s w).muted = false → (getWarden s w).stopped = false → s.safety.hold = none → s.ident.wardenDebug = false →
      ∃ t, exec (.wardenTideMark w ((getWarden s w).count + 1) false false) s = .next t ∧ (getWarden t w).state = .voting) ∧
    (awaitsMarks (getWarden s w) = false → exec (.tideMarkMissing w) s = .next s) ∧
    (awaitsMarks (getWarden s w) = true → ∃ u v, ((getWarden s w).stopped = true → u = s) ∧
      ((getWarden s w).stopped = false → u = wardenBreach w 0x0E 0 255 255 2 0 s) ∧
      v = setWarden u w (unmute u w { getWarden u w with
        missing := (getWarden s w).missing + 1, stopped := true, goodMarks := 0
        count := (getWarden u w).count + 1, peerSilent := (getWarden u w).peerSilent + 1 }) ∧
      ((getWarden s w).missing ≠ 2 ∨ (getWarden s w).state = .armed ∨ s.safety.hold ≠ none →
        exec (.tideMarkMissing w) s = .next v) ∧
      ((getWarden s w).missing = 2 → (getWarden s w).state ≠ .armed → s.safety.hold = none →
        (mainUp s = true → exec (.tideMarkMissing w) s = .next (enterHold 4 v)) ∧
        (mainUp s = false → exec (.tideMarkMissing w) s = .next (wardenHold w v)))) ∧
    ((enterHold 4 s).safety.hold = some ⟨4, false, true⟩ ∧ (enterHold 4 s).tide.discard = true ∧
      (wardenHold w s).safety.hold = some ⟨4, false, false⟩) ∧
    (∀ ok, (getWarden s w).state ≠ .boot → exec (.wardenBootDone w ok) s = .next s) ∧
    (∀ ok, (getWarden s w).state = .boot → ∃ u y, (ok = true → u = s) ∧
      (ok = false → u = wardenBreach w 0x08 2 255 255 0x61 0 s) ∧
      y = { getWarden u w with
        state := .armed, injectionOk := ok, goodMarks := 0, muted := (getWarden u w).muted && !ok
        conflicts := 0, votes := [], peer := none } ∧
      (s.safety.hold = none → exec (.wardenBootDone w ok) s = .next (setWarden u w y)) ∧
      (s.safety.hold ≠ none → exec (.wardenBootDone w ok) s = .next (setWarden u w (toHold s.tide.nowQ y)))) ∧
    ((getWarden s w).state ≠ .off → exec (.wardenLockstepMismatch w) s = .next (setWarden s w { getWarden s w with
      state := .boot, injectionOk := false, goodMarks := 0, votes := [], peer := none, queue := [],
      switched := (getWarden s w).switched && (getWarden s w).trial, trial := false })) ∧
    ((getWarden s w).state = .off → exec (.wardenLockstepMismatch w) s = .next s) ∧
    (∀ voted, (∀ a, s.startup.activation = some a → a.paused = true ∨ trialWarden a.stage ≠ some w ∨
        (voted = true ∧ (canVote s w = false ∨ (getWarden s w).switched = false))) →
      exec (.wardenTrialBoot w voted) s = .next s) ∧
    (∀ a, s.startup.activation = some a → a.paused = false → trialWarden a.stage = some w →
      (canVote s w = true → (getWarden s w).switched = true → ∃ u t, u = { s with startup.activation := some { a with stage := a.stage + 1 } } ∧
        t = (if a.stage = 0 then trialBoot .A u else u) ∧ exec (.wardenTrialBoot w true) s = .next t ∧
        t.startup.activation = some { a with stage := a.stage + 1 }) ∧
      exec (.wardenTrialBoot w false) s = .next (failActivation (wardenPart w)
        (toBoot w (setWarden s w { getWarden s w with switched := false }))))


/-! ## The codec, firmware staging and DORMANT -/

/-- A slice that fits the picture being coded, and that it lacks, joins it with its rows' bits, and the rows begun after it take
their QP from them; with LOW_LATENCY the slices that are next in bitstream order leave at once and a later one waits. A picture
that is done keeps its results, and the next one that may start does. A fault of a codec core is a breach, and no picture it was
coding stays started. A staged chunk and a verified bank are answered in order; a chunk staged meanwhile leaves the bank
unverified. Entering DORMANT ends in self-refresh; a wake event during entry waits for its end; the wake leaves self-refresh,
merges what both hubs latched, and every tile in service passes. An event with nothing to end changes nothing. Rests on the
model's choices of logs 43, 47, 48, 54, 73. -/
def Obligations.CodecAndStartup : Prop :=
  ∀ s : State,
    (∀ n index payload rows, (∀ q c, codingPicture s = some q → getSession s n = some c → q.session ≠ n ∨
        sliceOk c q index payload rows = false ∨ s.tide.discard = true ∨ s.tide.inBand = true) →
      exec (.codecSliceDone n index payload rows) s = .next s) ∧
    (∀ q c index payload rows r, codingPicture s = some q → getSession s q.session = some c →
      sliceOk c q index payload rows = true → s.tide.discard = false → s.tide.inBand = false →
      r = { q with
        slices := q.slices ++ [(index, payload)], rows := rows
        qp := rowQp c { q with slices := q.slices ++ [(index, payload)], rows := rows } (nextRow c index).1 (nextRow c index).2 } →
      (c.cfg.lowLatency ≠ 1 ∨ (index ≠ q.emitted ∧ ∀ x ∈ q.slices, x.1 ≠ q.emitted) →
        exec (.codecSliceDone q.session index payload rows) s = .next (putPicture r s)) ∧
      (c.cfg.lowLatency = 1 → ∃ e, e = emitSlices q.session s.tide.count (sliceCount c) (s, r) ∧
        exec (.codecSliceDone q.session index payload rows) s = .next (putPicture e.2 e.1) ∧ e.2.slices = r.slices ∧
        (index = q.emitted → q.emitted < e.2.emitted))) ∧
    (∀ n planes found refs order head, (∀ q, codingPicture s = some q → s.tide.discard = true ∨ s.tide.inBand = true ∨
        ∀ c, getSession s q.session = some c → pictureOk c q n = false) →
      exec (.codecPictureDone n planes found refs order head) s = .next s) ∧
    (∀ q c n planes found refs order head, codingPicture s = some q → s.tide.discard = false → s.tide.inBand = false →
      getSession s q.session = some c → pictureOk c q n = true →
      exec (.codecPictureDone n planes found refs order head) s = .next (startNext (putPicture
        { q with done := true, codedBytes := n, decoded := some ⟨found, head, planes, refs, order⟩ } s))) ∧
    (s.power.stop = true ∨ mayLaunch s = false ∨ s.tide.inBand = true ∨ codingPicture s ≠ none ∨ nextPicture s = none →
      startNext s = s) ∧
    (∀ q c, s.power.stop = false → mayLaunch s = true → s.tide.inBand = false → codingPicture s = none →
      nextPicture s = some q → getSession s q.session = some c →
      ∃ r, startNext s = putPicture r { s with codec.used := s.codec.used + pictureCost c } ∧ r.started = true ∧
        r.session = q.session ∧ r.tag = q.tag ∧ r.firstSeq = c.recordSeq ∧ r.slices = []) ∧
    (∀ core, mainUp s = true → ∃ t, exec (.codecCore core) s = .next (startNext t) ∧
      t.safety.nextIndex = s.safety.nextIndex + 1 ∧ (∀ q ∈ t.codec.queue, q.started = false) ∧
      t.codec.queue.map (fun q => (q.session, q.tag)) = s.codec.queue.map (fun q => (q.session, q.tag))) ∧
    (∀ core, mainUp s = false → exec (.codecCore core) s = .next s) ∧
    (s.startup.staging = [] → exec .fwStageDone s = .next s) ∧
    (∀ c rest, s.startup.staging = c :: rest →
      (∀ h offset len last buf image, c = .fwStage h offset len last buf image →
        exec .fwStageDone s =
          .next (finish h .ok .none [] (writeChunk offset len last image { s with startup.staging := rest }))) ∧
      ((∀ h offset len last buf image, c ≠ .fwStage h offset len last buf image) →
        exec .fwStageDone s = .next { s with startup.staging := rest })) ∧
    (s.startup.verifying = [] → exec .fwVerifyDone s = .next s) ∧
    (∀ c rest, s.startup.verifying = c :: rest →
      (∀ st n, verifyOutcome s = some (st, n) →
        exec .fwVerifyDone s = .next (finishCmd c st .none (le 2 n) { s with startup.verifying := rest })) ∧
      (verifyOutcome s = none → exec .fwVerifyDone s = .next (finishCmd c .ok .none []
        { s with startup.verifying := rest, flash.verified := decide (s.startup.staging = []) }))) ∧
    (s.startup.entering = true →
      exec .dormantWake s = .next { s with startup.wakeLater := true, startup.dormantReq := false } ∧
      exec .dormantEntryDone s = .next
        { s with
          power.staging := none, power.raising := false
          startup.entering := false, startup.dormant := true, startup.waking := s.startup.wakeLater
          startup.wakeLater := false, mem.selfRefresh := true }) ∧
    (s.startup.entering = false → exec .dormantEntryDone s = .next s ∧
      (s.startup.dormant = false → exec .dormantWake s = .next s)) ∧
    (s.startup.entering = false → s.startup.dormant = true → ∃ t, exec .dormantWake s = .next t ∧
      t.startup.dormant = false ∧ t.startup.waking = false ∧ t.mem.selfRefresh = false ∧
      t.host.hub0.latched = [] ∧ t.host.hub1.latched = [] ∧
      (∀ k ∈ s.host.hub0.latched, (getSource t 0 k).count ≠ 0) ∧
      (∀ k ∈ s.host.hub1.latched, (getSource t 1 k).count ≠ 0) ∧
      (∀ stack tile, stack < 4 → tile < 32 → s.work.stackOk.getD stack false = true →
        (getTile t stack tile).results = (passedTile s.tide.nowQ).results))


/-! ## The Levee -/

/-- The Levee's ports and associations, with the main package powered and a port below 8; else each of these events changes
nothing. A cable whose list is read begins training, where the port may train, and leads to step 2, and one whose list is not
read takes the port down; each step leads to the next, and the last to a port that is up and sends its AUTH frame; a time-out
without an association waits 1 s, or 10 s from the third in a row; a lost signal and a lost lane take the port down with their
causes, and the port trains again at the widest set of lanes, unless lane 0 is lost; a codeword that is not corrected resends
the frames that no acknowledgement took out of the retry buffer. An authentication that does not hold is refused with its cause;
one that holds is live over its port, and its period is adopted where the rules say so; a refused one is tried again. A frame
without a live association is ignored, a repeated counter and a failed tag are discarded and counted; an accepted input waits
for its edge, is late, or has an invalid tag, and counts as the rules say; an accepted tensor joins its job; an accepted control
frame is remembered, gives the time, and then its announcements and records take effect. A key switch that is not made ends the
association. Rests on the model's choices of logs 28, 56, 62, 69. -/
def Obligations.LeveeEvents : Prop :=
  ∀ (port : Nat) (s : State),
    (mainUp s = false ∨ 8 ≤ port →
      (∀ c, exec (.cableDetect port c) s = .next s) ∧ exec (.trainingStepDone port) s = .next s ∧
      exec (.trainingTimeout port) s = .next s ∧ (∀ lane, exec (.laneFailure port lane) s = .next s) ∧
      exec (.portDown port) s = .next s ∧ exec (.codewordUncorrectable port) s = .next s ∧
      (∀ n, exec (.hopAcknowledgement port n) s = .next s) ∧ (∀ f, f.port = port → exec (.authFrame f) s = .next s) ∧
      (∀ f, f.port = port → exec (.dataFrame f) s = .next s) ∧ (∀ f, f.port = port → exec (.controlFrame f) s = .next s)) ∧
    (mainUp s = false → ∀ peer, exec (.authRetry peer) s = .next s ∧ exec (.keySwitchTimeout peer) s = .next s) ∧
    (port < 8 → mainUp s = true →
    (∀ c, (c.cmisOk = false ∨ c.app106 = false → ∃ t, exec (.cableDetect port c) s = .next t ∧ (getPort t port).state = 0 ∧
        (getPort t port).cause = 4 ∧ (getPort t port).cable = false ∧ assocsOver t port = []) ∧
      (c.cmisOk = true → c.app106 = true → ∃ u, u = trainPort port (setPort s port { getPort s port with cable := true }) ∧
        exec (.cableDetect port c) s =
          .next (if (getPort u port).state = 1 then setPort u port { getPort u port with step := 2 } else u))) ∧
    (∀ u : State, ((getPort u port).enabled = false ∨ u.ident.lifecycle = .decommissioned →
        trainPort port u = setPort u port { getPort u port with cause := 1 }) ∧
      ((getPort u port).enabled = true → u.ident.lifecycle ≠ .decommissioned →
        (u.flash.index = none → trainPort port u = setPort u port { getPort u port with cause := 11 }) ∧
        (u.flash.index ≠ none →
          (widest (getPort u port).failed = 0 → trainPort port u = setPort u port { getPort u port with cause := 8 }) ∧
          (widest (getPort u port).failed ≠ 0 →
            ((getPort u port).cable = false → trainPort port u = setPort u port { getPort u port with cause := 2 }) ∧
            ((getPort u port).cable = true →
              trainPort port u = setPort u port { getPort u port with state := 1, step := 1, lanes := 0 }))))) ∧
    ((getPort s port).state = 1 →
      ((getPort s port).step < 4 → exec (.trainingStepDone port) s =
        .next (setPort s port { getPort s port with step := (getPort s port).step + 1, waitS := 0 })) ∧
      (4 ≤ (getPort s port).step → exec (.trainingStepDone port) s =
        .next (sendAuth port (setPort s port { getPort s port with
          step := 5, state := 2, lanes := widest (getPort s port).failed, attempts := 0, waitS := 0 })))) ∧
    ((getPort s port).state ≠ 1 → exec (.trainingStepDone port) s = .next s) ∧
    (∃ nonce, (sendAuth port s).out =
      .leveeAuth port (s.flash.index.getD 0) s.ident.fleet s.ident.fwVersion s.tide.periodQ nonce :: s.out ∧
      (getPort (sendAuth port s) port).nonce = nonce) ∧
    ((getPort s port).state ≠ 0 → assocsOver s port = [] → exec (.trainingTimeout port) s =
      .next (setPort s port { getPort s port with
        state := 1, step := 1, lanes := 0, cause := 3, attempts := (getPort s port).attempts + 1
        waitS := if 2 ≤ (getPort s port).attempts then 10 else 1 })) ∧
    ((getPort s port).state = 0 ∨ assocsOver s port ≠ [] → exec (.trainingTimeout port) s = .next s) ∧
    (∀ cause, (getPort (takePortDown port cause s) port).state = 0 ∧ (getPort (takePortDown port cause s) port).cause = cause ∧
      (getPort (takePortDown port cause s) port).lanes = 0 ∧ assocsOver (takePortDown port cause s) port = []) ∧
    ((getPort s port).state ≠ 0 → exec (.portDown port) s = .next (takePortDown port 2 s)) ∧
    ((getPort s port).state = 0 → exec (.portDown port) s = .next s) ∧
    (∀ lane, 4 ≤ lane → exec (.laneFailure port lane) s = .next s) ∧
    (∀ lane v, lane < 4 → v = setPort s port { getPort s port with
        failed := if lane ∈ (getPort s port).failed then (getPort s port).failed else lane :: (getPort s port).failed } →
      ((getPort s port).state = 0 → exec (.laneFailure port lane) s = .next v) ∧
      ((getPort s port).state ≠ 0 → exec (.laneFailure port lane) s = .next (trainPort port (takePortDown port 8 v)))) ∧
    ((getPort s port).state ≠ 0 → ∃ u, exec (.laneFailure port 0) s = .next u ∧ (getPort u port).state = 0 ∧
      (s.ident.lifecycle ≠ .decommissioned → s.flash.index.isSome = true → (getPort s port).enabled = true →
        (getPort u port).cause = 8)) ∧
    ((getPort s port).retry ≠ [] → exec (.codewordUncorrectable port) s =
      .next (emit (.leveeResend port (getPort s port).retry.length) s)) ∧
    ((getPort s port).retry = [] → exec (.codewordUncorrectable port) s = .next s) ∧
    (∀ count, exec (.hopAcknowledgement port count) s =
      .next (setPort s port { getPort s port with retry := (getPort s port).retry.drop count })) ∧
    (∀ f, f.port = port → ((getPort s port).state ≠ 2 ∧ (getPort s port).state ≠ 3) ∨ s.ident.debugOpen = true ∨
        s.startup.unlocking ≠ none → exec (.authFrame f) s = .next s) ∧
    (∀ f, f.port = port → (getPort s port).state = 2 ∨ (getPort s port).state = 3 → s.ident.debugOpen = false →
        s.startup.unlocking = none →
      (f.fleet ≠ s.ident.fleet ∨ f.macOk = false → exec (.authFrame f) s = .next (refuseAssoc f 5 s)) ∧
      (f.fleet = s.ident.fleet → f.macOk = true →
        (s.flash.index = some f.peer ∨ (∃ a, getAssoc s f.peer = some a ∧ a.live = true ∧ a.nonce ≠ f.nonce) →
          exec (.authFrame f) s = .next (refuseAssoc f 6 s)) ∧
        (s.flash.index ≠ some f.peer → (∀ a, getAssoc s f.peer = some a → a.live = true → a.nonce = f.nonce) →
          (samePeer f s = false → periodClash f s = true → exec (.authFrame f) s = .next (refuseAssoc f 7 s)) ∧
          (samePeer f s = true ∨ periodClash f s = false → ∃ u a, u = formAssoc f s ∧
            getAssoc u f.peer = some a ∧ a.live = true ∧ f.port ∈ a.ports ∧ (getPort u port).state = 2 ∧
            ((∀ b, getAssoc s f.peer = some b → b.live = false) → a.nonce = f.nonce ∧ a.rxSeen = [] ∧ a.txCounter = 1) ∧
            exec (.authFrame f) s = .next (
              if f.periodQ ≠ u.tide.periodQ && !busyAdmitted u && u.tide.change.isNone && (f.busy || ownLower u f.peer)
              then acceptTide f.periodQ u.tide.swellLen none true u else u))))) ∧
    (∀ f cause, f.port = port → (getPort (refuseAssoc f cause s) port).cause = cause) ∧
    (∀ peer, (∀ a, getAssoc s peer = some a → a.live = true) → exec (.authRetry peer) s = .next s) ∧
    (∀ peer a, getAssoc s peer = some a → a.live = false →
      exec (.authRetry peer) s = .next (a.ports.foldl (fun st n => sendAuth n st) s)) ∧
    (∀ p tagOk, (getPort (dropFrame p tagOk s) p).replayDrops = sat32 ((getPort s p).replayDrops + 1) ∧
      (getPort (dropFrame p tagOk s) p).frameErrors =
        if tagOk then (getPort s p).frameErrors else sat32 ((getPort s p).frameErrors + 1)) ∧
    (∀ f, f.port = port → ∀ g, g.port = port →
      ((∀ a, getAssoc s f.src = some a → a.live = false) → exec (.dataFrame f) s = .next s) ∧
      ((∀ a, getAssoc s g.src = some a → a.live = false) → exec (.controlFrame g) s = .next s) ∧
      (∀ a, getAssoc s f.src = some a → a.live = true →
        (freshCounter a f.counter = false → exec (.dataFrame f) s = .next (dropFrame port true s)) ∧
        (freshCounter a f.counter = true → f.tagOk = false ∨ keptGen s a f.keyGen = false →
          exec (.dataFrame f) s = .next (dropFrame port false s)) ∧
        (freshCounter a f.counter = true → f.tagOk = true → keptGen s a f.keyGen = true →
          ∀ u, u = settleRotations (setAssoc s f.src (noteFrame s a f.counter f.keyGen)) →
          (∀ c intake d, f.payload = .input c intake d →
            (epochOf intake = 0 →
              exec (.dataFrame f) s = .next { u with tide.ordInvalid := sat32 (u.tide.ordInvalid + 1) }) ∧
            (epochOf intake ≠ 0 → getPolder u c.polder = none → exec (.dataFrame f) s = .next u) ∧
            (epochOf intake ≠ 0 → getPolder u c.polder ≠ none → ∀ due, due = ixOfLabel u intake + 2 →
              (due ≤ u.tide.ix → exec (.dataFrame f) s = .next (lateInput c due u)) ∧
              (u.tide.ix < due → exec (.dataFrame f) s =
                .next (awaitInput ⟨datumTag intake d d.seq, intake, due, { c with linked := true }, d⟩ u)))) ∧
          (∀ p run bs, f.payload = .tensor p run bs → exec (.dataFrame f) s = .next
            (if (p, run, f.src) ∈ u.links.jobs then u else { u with links.jobs := u.links.jobs ++ [(p, run, f.src)] })))) ∧
      (∀ a, getAssoc s g.src = some a → a.live = true →
        (freshCounter a g.counter = false → exec (.controlFrame g) s = .next (dropFrame port true s)) ∧
        (freshCounter a g.counter = true → g.tagOk = false ∨ keptGen s a g.keyGen = false →
          exec (.controlFrame g) s = .next (dropFrame port false s)) ∧
        (freshCounter a g.counter = true → g.tagOk = true → keptGen s a g.keyGen = true → ∃ z u v w x b,
          z = noteControl g (settleRotations (setAssoc s g.src (noteFrame s a g.counter g.keyGen))) ∧ u = followTime g z ∧
          getAssoc u g.src = some b ∧ b.lastTide = some g.tide ∧ b.keeper = g.keeper ∧ b.hops = g.hops ∧
          b.rxHigh = max a.rxHigh g.counter ∧ u.time.keeper = some (keeperIndex z) ∧
          v = (if u.tide.running then advanceEpoch g.epochNext u else { u with tide.join := some (joinOf g) }) ∧
          w = (if g.announceRelabel then announcedRelabel g.atTide g.relabelTo v else v) ∧
          x = (if g.announcePeriod then announcedPeriod g.atTide w else w) ∧
          exec (.controlFrame g) s = .next (g.records.foldl takeRecord x)))) ∧
    (∀ peer, (∀ a, getAssoc s peer = some a → a.live = false ∨ a.switchAt = none ∨ a.switched = true) →
      exec (.keySwitchTimeout peer) s = .next s) ∧
    (∀ peer a, getAssoc s peer = some a → a.live = true → a.switchAt.isSome = true → a.switched = false →
      ∃ t b, exec (.keySwitchTimeout peer) s = .next t ∧ getAssoc t peer = some b ∧ b.live = false ∧ b.cause = 9))

/-! ## Attestation, SPDM, IDE and TDISP -/

/-- The security engine, with the main package powered, signs one message of a function at a time: it answers ATTEST with its
report, or with BUFFER_FAULT, and an SPDM request with its message, and is busy meanwhile. Over a function that the host can
reach, KEY_EXCHANGE opens a session, whose end closes it; IDE_KM needs a session and takes a stream it has not, at most 8, and 4
of a x4 link; a TDI locks from UNLOCKED, runs from LOCKED, reports in both, and its stop is refused in UNLOCKED, resets its
polder at the next edge, or waits for the scrub that runs; an integrity failure leads a locked or running one to ERROR; the
breach log goes to flash when it is flushed, unless a core of that cluster is halted. Else nothing changes. Rests on the model's
choices of logs 6, 7, 25, 68. -/
def Obligations.SecurityEvents : Prop :=
  ∀ (fn : Fn) (s : State),
    (mainUp s = false ∨ ((getFunc s fn).signing = none ∧ (getFunc s fn).spdmSigning = false) →
      exec (.attestSigned fn) s = .next s) ∧
    (∀ o, mainUp s = true → (getFunc s fn).signing = some o →
      (∀ h nonce buf, o.cmd = .attest h nonce buf →
        (buf.fault = false → exec (.attestSigned fn) s = .next (finish h .ok .none (le 4 (getFunc s fn).captured.length)
          (hostWrite fn buf.addr (getFunc s fn).captured
            (setFunc s fn { getFunc s fn with signing := none, captured := [] })))) ∧
        (buf.fault = true → exec (.attestSigned fn) s = .next (finish h .badParam .bufferFault []
          (setFunc s fn { getFunc s fn with signing := none, captured := [] })))) ∧
      ((∀ h nonce buf, o.cmd ≠ .attest h nonce buf) → exec (.attestSigned fn) s = .next s)) ∧
    (mainUp s = true → (getFunc s fn).signing = none → (getFunc s fn).spdmSigning = true →
      exec (.attestSigned fn) s = .next (emit (.spdm fn false (getFunc s fn).captured)
        (setFunc s fn { getFunc s fn with spdmSigning := false, captured := [] }))) ∧
    (∀ nonce stream, reachable s fn = false → exec (.challenge fn nonce) s = .next s ∧
      exec (.getMeasurements fn nonce) s = .next s ∧ exec (.keyExchange fn) s = .next s ∧
      exec (.ideKm fn stream) s = .next s) ∧
    (reachable s fn = true → ∀ nonce,
      (signingBusy s fn = true →
        exec (.challenge fn nonce) s = .next (emit (.spdm fn true []) s) ∧
        exec (.getMeasurements fn nonce) s = .next (emit (.spdm fn true []) s)) ∧
      (signingBusy s fn = false →
        exec (.challenge fn nonce) s = .next (setFunc s fn { getFunc s fn with
          spdmSigning := true
          captured := padTo 384 (Config.rsaSign (le 32 nonce.toNat ++ measurementBlocks s fn)) }) ∧
        ∃ m, exec (.getMeasurements fn nonce) s = .next (setFunc s fn { getFunc s fn with
            spdmSigning := true, captured := m }) ∧
          measurementBlocks s fn <+: m)) ∧
    (reachable s fn = true → exec (.keyExchange fn) s = .next (setFunc s fn { getFunc s fn with session := true })) ∧
    (∃ t, exec (.spdmSessionEnd fn) s = .next t ∧ (getFunc t fn).session = false ∧
      (∀ g, g ≠ fn → getFunc t g = getFunc s g) ∧ ((getFunc s fn).session = false → t = s)) ∧
    (∀ stream, reachable s fn = true →
      ((getFunc s fn).session = true → stream ∉ (getFunc s fn).ideStreams → streamCount s none < 8 →
        (s.host.bifurcated = true → streamCount s (some (linkOf fn)) < 4) →
        exec (.ideKm fn stream) s = .next (setFunc s fn { getFunc s fn with
          ideStreams := stream :: (getFunc s fn).ideStreams })) ∧
      ((getFunc s fn).session = false ∨ stream ∈ (getFunc s fn).ideStreams ∨ 8 ≤ streamCount s none ∨
          (s.host.bifurcated = true ∧ 4 ≤ streamCount s (some (linkOf fn))) →
        exec (.ideKm fn stream) s = .next s)) ∧
    (∀ p, reachable s (.vf p) = false → exec (.lockInterfaceRequest p) s = .next s ∧
      exec (.startInterfaceRequest p) s = .next s ∧ exec (.getDeviceInterfaceReport p) s = .next s ∧
      exec (.stopInterfaceRequest p) s = .next s) ∧
    (∀ p, reachable s (.vf p) = true →
      (getTdi s p = 0 → exec (.lockInterfaceRequest p) s = .next (emit (.tdisp p true []) (setTdi s p 1))) ∧
      (getTdi s p ≠ 0 → exec (.lockInterfaceRequest p) s = .next (emit (.tdisp p false []) s)) ∧
      (getTdi s p = 1 → exec (.startInterfaceRequest p) s = .next (emit (.tdisp p true []) (setTdi s p 2))) ∧
      (getTdi s p ≠ 1 → exec (.startInterfaceRequest p) s = .next (emit (.tdisp p false []) s)) ∧
      (getTdi s p = 1 ∨ getTdi s p = 2 → exec (.getDeviceInterfaceReport p) s =
        .next (emit (.tdisp p true (le 4 1 ++ le 8 0 ++ le 4 65536)) s)) ∧
      (getTdi s p ≠ 1 → getTdi s p ≠ 2 → exec (.getDeviceInterfaceReport p) s = .next (emit (.tdisp p false []) s)) ∧
      (getTdi s p = 0 → exec (.stopInterfaceRequest p) s = .next (emit (.tdisp p false []) s)) ∧
      (getTdi s p ≠ 0 → getPolder s p = none →
        exec (.stopInterfaceRequest p) s = .next (emit (.tdisp p true []) (setTdi s p 0))) ∧
      (∀ x, getTdi s p ≠ 0 → getPolder s p = some x →
        (x.resetting = false → ∃ q, exec (.stopInterfaceRequest p) s =
          .next { s with tide.queued := s.tide.queued ++ [q] } ∧ q.cmd = .stopInterfaceRequest p ∧
            q.dueIx = s.tide.ix + 1) ∧
        (x.resetting = true → exec (.stopInterfaceRequest p) s = .next { s with
          work.scrubs := s.work.scrubs.map fun j =>
            if j.polder = p && j.kind ≠ .frames then { j with tdisp := true } else j }))) ∧
    (∀ p, (getTdi s p = 1 ∨ getTdi s p = 2 → exec (.ideIntegrityFailure p) s = .next (setTdi s p 3)) ∧
      (getTdi s p ≠ 1 → getTdi s p ≠ 2 → exec (.ideIntegrityFailure p) s = .next s)) ∧
    (mainUp s = true → clusterHalted s 0 = false →
      exec .breachLogFlush s = .next { s with flash.breachCopied := s.safety.nextIndex }) ∧
    (mainUp s = false ∨ clusterHalted s 0 = true → exec .breachLogFlush s = .next s)

/-! ## The debug transport and the management bus -/

/-- The TAP and its transport: an instruction that is not permitted selects BYPASS, and IDCODE shows its value; while DTRANS is
not in force no request is answered. A request is answered with a denial where the target is out of reach and with a bad target
where none is selected, or the one named is none. A halted unit keeps its program counter, a running one halts; a resumed one
runs; a step runs a number of instructions, one outside 1 to 65,535 has a RESULT that the spec does not state; breakpoints are
set and cleared in eight slots, and halt a running unit where they are armed, and a step where it ends. The pointer is set
inside its space only; a read and a write there move it on, and in a scratchpad a word written is the word read; outside a space
the answer is BAD_ADDRESS. STATUS reports the halt. The management bus answers at its address only, with the readings of the
last edge while tides run. Rests on the model's choices of logs 5, 50, 51. -/
def Obligations.DebugAndPmbus : Prop :=
  ∀ (seq : Byte) (s : State),
    (∀ code, (s.aon.up = false → exec (.tapInstruction code) s = .next s) ∧
      (s.aon.up = true →
        (tapPermits s code = true → code ≠ 0x01 → exec (.tapInstruction code) s = .next { s with startup.tap := code }) ∧
        (tapPermits s code = false → exec (.tapInstruction code) s = .next { s with startup.tap := 0xFF }) ∧
        (code = 0x01 → exec (.tapInstruction code) s = .next (emit (.idcode 0x09640A5D) { s with startup.tap := 0x01 }))) ∧
      (s.ident.lifecycle = .decommissioned → tapPermits s 0x20 = false)) ∧
    (dtransOn s = false → (∀ t, exec (.dbgSelect seq t) s = .next s) ∧ exec (.dbgHalt seq) s = .next s ∧
      exec (.dbgResume seq) s = .next s ∧ (∀ n, exec (.dbgStep seq n) s = .next s) ∧
      (∀ n a, exec (.dbgBreakSet seq n a) s = .next s) ∧ (∀ n, exec (.dbgBreakClear seq n) s = .next s) ∧
      (∀ p a, exec (.dbgSetAddr seq p a) s = .next s) ∧ exec (.dbgRead seq) s = .next s ∧
      (∀ w, exec (.dbgWrite seq w) s = .next s) ∧ exec (.dbgStatus seq) s = .next s) ∧
    (∀ t, dtransOn s = true →
      (isTarget t = false → exec (.dbgSelect seq t) s = .next (emit (.dtrans 1 seq 3 0 0) s)) ∧
      (isTarget t = true → targetReach s t = true → exec (.dbgSelect seq t) s =
        .next (emit (.dtrans 1 seq 0 0 0) { s with startup.target := some t })) ∧
      (isTarget t = true → targetReach s t = false → exec (.dbgSelect seq t) s = .next (emit (.dtrans 1 seq 2 0 0) s))) ∧
    (dtransOn s = true → ∀ r, (s.startup.target = none ∧ r = 3) ∨
        (∃ t, s.startup.target = some t ∧ targetReach s t = false ∧ r = 2) →
      exec (.dbgHalt seq) s = .next (emit (.dtrans 2 seq r 0 0) s) ∧
      exec (.dbgResume seq) s = .next (emit (.dtrans 3 seq r 0 0) s) ∧
      (∀ n, exec (.dbgStep seq n) s = .next (emit (.dtrans 4 seq r 0 0) s)) ∧
      (∀ n a, exec (.dbgBreakSet seq n a) s = .next (emit (.dtrans 5 seq r 0 0) s)) ∧
      (∀ n, exec (.dbgBreakClear seq n) s = .next (emit (.dtrans 6 seq r 0 0) s)) ∧
      (∀ p a, exec (.dbgSetAddr seq p a) s = .next (emit (.dtrans 7 seq r 0 0) s)) ∧
      exec (.dbgRead seq) s = .next (emit (.dtrans 8 seq r 0 0) s) ∧
      (∀ w, exec (.dbgWrite seq w) s = .next (emit (.dtrans 9 seq r 0 0) s)) ∧
      exec (.dbgStatus seq) s = .next (emit (.dtrans 10 seq r 0 0) s)) ∧
    (∀ t, dtransOn s = true → s.startup.target = some t → targetReach s t = true →
        ((getUnit s t).halted = true → exec (.dbgHalt seq) s = .next (emit (.dtrans 2 seq 0 0 0) s)) ∧
        ((getUnit s t).halted = false → ∃ u, exec (.dbgHalt seq) s = .next u ∧ (getUnit u t).halted = true ∧
          (getUnit u t).atBreak = false ∧ (getUnit u t).steps = 0 ∧ (getUnit u t).breaks = (getUnit s t).breaks) ∧
        (∃ u, exec (.dbgResume seq) s = .next u ∧ (getUnit u t).halted = false ∧ (getUnit u t).steps = 0 ∧
          u.mem = s.mem ∧ u.out = .dtrans 3 seq 0 0 0 :: s.out) ∧
        (∀ n, 1 ≤ n → n ≤ 65535 → ∃ u, exec (.dbgStep seq n) s = .next u ∧ (getUnit u t).halted = false ∧
          (getUnit u t).steps = n ∧ u.out = .dtrans 4 seq 0 0 0 :: s.out) ∧
        (∀ n, n = 0 ∨ 65535 < n → ∃ r, exec (.dbgStep seq n) s =
          .next (emit (.dtrans 4 seq r 0 0) { s with fresh := s.fresh + 1 })) ∧
        (∀ slot a, exec (.dbgBreakSet seq slot a) s = .next (emit (.dtrans 5 seq 0 0 0)
            (setUnit s t { getUnit s t with breaks := tset (getUnit s t).breaks (slot % 8) a })) ∧
          exec (.dbgBreakClear seq slot) s = .next (emit (.dtrans 6 seq 0 0 0)
            (setUnit s t { getUnit s t with breaks := tdel (getUnit s t).breaks (slot % 8) }))) ∧
        (∀ space (a : Word64),
          (dbgPlace s t (space % 256) a.toNat ≠ none → exec (.dbgSetAddr seq space a) s = .next (emit (.dtrans 7 seq 0 0 0)
            { s with startup.space := space % 256, startup.pointer := a.toNat })) ∧
          (dbgPlace s t (space % 256) a.toNat = none →
            exec (.dbgSetAddr seq space a) s = .next (emit (.dtrans 7 seq 4 0 0) s))) ∧
        (dbgPlace s t s.startup.space s.startup.pointer = none →
          exec (.dbgRead seq) s = .next (emit (.dtrans 8 seq 4 0 0) s) ∧
          (∀ w, exec (.dbgWrite seq w) s = .next (emit (.dtrans 9 seq 4 0 0) s))) ∧
        (∀ pl, dbgPlace s t s.startup.space s.startup.pointer = some pl →
          (∀ w : Word64, ∃ u, exec (.dbgWrite seq w) s = .next u ∧ u = emit (.dtrans 9 seq 0 0 0)
            (dbgStore t pl (le 8 w.toNat) { dbgGrant pl s with startup.pointer := s.startup.pointer + 8 })) ∧
          (∃ u, exec (.dbgRead seq) s = .next u ∧ u.startup.pointer = s.startup.pointer + 8 ∧ u.mem.cells = s.mem.cells ∧
            u.out.head? = some (.dtrans 8 seq 0 (BitVec.ofNat 64 (unle (dbgLoad s t pl))) 0))) ∧
        (∀ a (w : Word64), dbgPlace s t s.startup.space s.startup.pointer = some (.cells a) →
          (∃ u, exec (.dbgWrite seq w) s = .next u ∧ u.startup.pointer = s.startup.pointer + 8 ∧
            (MemoryCanonical s → dbgLoad u t (.cells a) = le 8 w.toNat) ∧
            (∀ y, y < a ∨ a + 8 ≤ y → readByte u.mem.cells y = readByte s.mem.cells y))) ∧
        ((getUnit s t).halted = true → exec (.dbgStatus seq) s = .next (emit
          (.dtrans 10 seq 0 (getUnit s t).pc (1 + if (getUnit s t).atBreak then 2 + 4 * (getUnit s t).slot else 0))
          { s with fresh := s.fresh + 1 })) ∧
        ((getUnit s t).halted = false → ∃ pc, exec (.dbgStatus seq) s = .next (emit (.dtrans 10 seq 0 pc 0)
          { s with fresh := s.fresh + 1 }))) ∧
    (∀ t slot pc, isTarget t = true → (getUnit s t).halted = false →
      (tget (getUnit s t).breaks slot = some pc → exec (.breakpointHit t slot false pc) s = .next (setUnit s t
        { getUnit s t with halted := true, atBreak := true, slot := slot, steps := 0, pc := pc })) ∧
      (tget (getUnit s t).breaks slot ≠ some pc → exec (.breakpointHit t slot false pc) s = .next s) ∧
      ((getUnit s t).steps ≠ 0 → exec (.breakpointHit t slot true pc) s = .next (setUnit s t
        { getUnit s t with halted := true, atBreak := false, steps := 0, pc := pc })) ∧
      ((getUnit s t).steps = 0 → exec (.breakpointHit t slot true pc) s = .next s)) ∧
    (∀ t slot e pc, isTarget t = false ∨ (getUnit s t).halted = true → exec (.breakpointHit t slot e pc) s = .next s) ∧
    (∀ addr, busAnswers s addr = true →
      (perTide s = true → exec (.readVin addr) s = .next (emit (.pmbus 0x88 (linear11 (10 * s.aon.edgeVin))) s) ∧
        exec (.readTemperature1 addr) s = .next (emit (.pmbus 0x8D (linear11 (1000 * (hottest s).1))) s) ∧
        exec (.readTemperature2 addr) s = .next (emit (.pmbus 0x8E (linear11 (1000 * s.power.edgeInlet))) s)) ∧
      (perTide s = false → exec (.readVin addr) s = .next (emit (.pmbus 0x88 (linear11 (10 * s.aon.vin48))) s) ∧
        exec (.readTemperature1 addr) s = .next (emit (.pmbus 0x8D (linear11 (1000 * s.aon.heldHottest))) s) ∧
        exec (.readTemperature2 addr) s = .next (emit (.pmbus 0x8E (linear11 (1000 * s.power.inlet))) s)) ∧
      (∃ m, exec (.readIin addr) s = .next (emit (.pmbus 0x89 m) { s with fresh := s.fresh + 1 })) ∧
      (mainUp s = true → exec (.readPin addr) s = .next (emit (.pmbus 0x97 (linear11 (1000 * s.power.powerW))) s)) ∧
      (mainUp s = false → ∃ m, exec (.readPin addr) s = .next (emit (.pmbus 0x97 m) { s with fresh := s.fresh + 1 }))) ∧
    (∀ addr, busAnswers s addr = false → exec (.readVin addr) s = .next s ∧ exec (.readTemperature1 addr) s = .next s ∧
      exec (.readTemperature2 addr) s = .next s ∧
      exec (.readIin addr) s = .next { s with fresh := s.fresh + 1 } ∧
      (mainUp s = true → exec (.readPin addr) s = .next s) ∧
      (mainUp s = false → exec (.readPin addr) s = .next { s with fresh := s.fresh + 1 }))


/-! ## Arithmetic -/

/-- Conversion and the residue datapath. A conversion rounds to nearest, ties to even; an integer output that fits is exact, one
that does not saturates and counts, and a NaN becomes zero and counts; in a format with a canonical NaN a NaN is that code. The
residue of an aligned product is that of the product shifted left, or shifted right with its dropped part, and the residue of a
48-bit window is that of its value. -/
def Obligations.ConversionsAndResidues : Prop :=
  (∀ (m : Nat) (e u : Int), (u ≤ e → roundUnits m e u = m * 2 ^ (e - u).toNat) ∧
    (e < u → ∃ q, q = roundUnits m e u ∧ 2 * (q * 2 ^ (u - e).toNat) ≤ 2 * m + 2 ^ (u - e).toNat ∧
      2 * m ≤ 2 * (q * 2 ^ (u - e).toNat) + 2 ^ (u - e).toNat ∧
      ((2 * m = 2 * (q * 2 ^ (u - e).toNat) + 2 ^ (u - e).toNat ∨ 2 * (q * 2 ^ (u - e).toNat) = 2 * m + 2 ^ (u - e).toNat) →
        q % 2 = 0))) ∧
  (∀ (c m : Nat), c ≤ 3 →
    (m < 2 ^ (formatBits c - 1) → convertTo c (.fin false m 0) = (m, 0)) ∧
    (2 ^ (formatBits c - 1) ≤ m → convertTo c (.fin false m 0) = (2 ^ (formatBits c - 1) - 1, 1)) ∧
    (0 < m → m ≤ 2 ^ (formatBits c - 1) → convertTo c (.fin true m 0) = (2 ^ formatBits c - m, 0)) ∧
    (2 ^ (formatBits c - 1) < m → convertTo c (.fin true m 0) = (2 ^ (formatBits c - 1), 1)) ∧
    convertTo c .nan = (0, 1)) ∧
  (∀ c k, 3 < c → canonicalNan c = some k → convertTo c .nan = (k, 0)) ∧
  (∀ (m : Nat) (neg : Bool) (k : Nat),
    alignedResidue neg m k = residue (if neg then -((m * 2 ^ k : Nat) : Int) else (m * 2 ^ k : Nat)) ∧
    alignedResidue neg m (-(k : Int)) = residue (if neg then -((m / 2 ^ k : Nat) : Int) else (m / 2 ^ k : Nat))) ∧
  (∀ a : Int, -140737488355328 ≤ a → a < 140737488355328 → windowResidue a = residue a)
end

