-- ==== Sys2Proof/Laws/Memory.lean ====
section
/-! SUPPORT. Laws/Memory.lean: the laws of the sparse tables and of byte memory. -/

namespace Sys2Proof.Laws
open Sys2Proof Sys2Proof.Machine

/-! ## Tables -/

@[simp] theorem tget_tset_same {α : Type} (t : Table α) (k : Nat) (a : α) : tget (tset t k a) k = some a := by
  induction t with
  | nil => simp [tset, tget]
  | cons e t ih =>
    obtain ⟨j, b⟩ := e
    unfold tset
    split
    · simp [tget]
    · split
      · simp [tget]
      · rename_i h; simp [tget, Ne.symm h, ih]

theorem tget_tset_other {α : Type} (t : Table α) (k j : Nat) (a : α) (h : j ≠ k) : tget (tset t k a) j = tget t j := by
  induction t with
  | nil => simp [tset, tget, Ne.symm h]
  | cons e t ih =>
    obtain ⟨i, b⟩ := e
    unfold tset
    split
    · simp [tget, Ne.symm h]
    · split
      · rename_i h1; subst h1; simp [tget, Ne.symm h]
      · simp [tget, ih]

theorem tget_tset {α : Type} (t : Table α) (k j : Nat) (a : α) : tget (tset t k a) j = if j = k then some a else tget t j := by
  by_cases h : j = k
  · simp [h]
  · simp [h, tget_tset_other _ _ _ _ h]

/-! ## The canonical form -/

theorem ascending_cons (a : Nat) (l : List Nat) : ascending (a :: l) = true ↔ (∀ b ∈ l, a < b) ∧ ascending l = true := by
  induction l generalizing a with
  | nil => simp [ascending]
  | cons b l ih =>
    simp only [ascending, Bool.and_eq_true, decide_eq_true_eq, List.mem_cons, forall_eq_or_imp]
    constructor
    · rintro ⟨h, hl⟩
      exact ⟨⟨h, fun c hc => Nat.lt_trans h ((ih b).1 hl |>.1 c hc)⟩, hl⟩
    · rintro ⟨⟨h, _⟩, hl⟩
      exact ⟨h, hl⟩

theorem memWf_nil : memWf [] = true := rfl

theorem memWf_cons (k : Nat) (v : Byte) (m : List Host.Cell) :
    memWf ((k, v) :: m) = true ↔ (∀ c ∈ m, k < c.1) ∧ v ≠ blankByte ∧ memWf m = true := by
  simp only [memWf, List.map_cons, List.all_cons, Bool.and_eq_true, ascending_cons, List.mem_map, forall_exists_index, and_imp,
    forall_apply_eq_imp_iff₂, decide_eq_true_eq]
  tauto

theorem mem_writeByte (m : List Host.Cell) (x : Nat) (b : Byte) (c : Host.Cell) (h : c ∈ writeByte m x b) :
    c.1 = x ∨ c ∈ m := by
  induction m with
  | nil =>
    unfold writeByte at h
    split at h
    · simp at h
    · simp at h; simp [h]
  | cons e m ih =>
    obtain ⟨k, v⟩ := e
    unfold writeByte at h
    split at h
    · split at h
      · exact .inr h
      · rcases List.mem_cons.1 h with h | h
        · simp [h]
        · exact .inr h
    · split at h
      · split at h
        · exact .inr (List.mem_cons_of_mem _ h)
        · rcases List.mem_cons.1 h with h | h
          · simp [h]
          · exact .inr (List.mem_cons_of_mem _ h)
      · rcases List.mem_cons.1 h with h | h
        · simp [h]
        · rcases ih h with h | h
          · exact .inl h
          · exact .inr (List.mem_cons_of_mem _ h)

/-- A write of one byte keeps the canonical form. -/
theorem memWf_writeByte (m : List Host.Cell) (x : Nat) (b : Byte) (h : memWf m = true) : memWf (writeByte m x b) = true := by
  induction m with
  | nil =>
    unfold writeByte
    split
    · rfl
    · rw [memWf_cons]; exact ⟨by simp, by assumption, rfl⟩
  | cons e m ih =>
    obtain ⟨k, v⟩ := e
    have h' := (memWf_cons k v m).1 h
    unfold writeByte
    split
    · rename_i hx
      split
      · exact h
      · rw [memWf_cons]
        refine ⟨fun c hc => ?_, by assumption, h⟩
        rcases List.mem_cons.1 hc with hc | hc
        · simpa [hc] using hx
        · exact Nat.lt_trans hx (h'.1 c hc)
    · split
      · rename_i hx
        split
        · exact h'.2.2
        · rw [memWf_cons]; exact ⟨fun c hc => hx ▸ h'.1 c hc, by assumption, h'.2.2⟩
      · rw [memWf_cons]
        refine ⟨fun c hc => ?_, h'.2.1, ih h'.2.2⟩
        rcases mem_writeByte _ _ _ _ hc with hc | hc
        · omega
        · exact h'.1 c hc

/-- A write of consecutive bytes keeps the canonical form. -/
theorem memWf_writeBytes (m : List Host.Cell) (a : Nat) (bs : List Byte) (h : memWf m = true) :
    memWf (writeBytes m a bs) = true := by
  induction bs generalizing m a with
  | nil => exact h
  | cons b bs ih => exact ih _ _ (memWf_writeByte _ _ _ h)

/-- Clearing a range keeps the canonical form. -/
theorem memWf_clearRange (m : List Host.Cell) (lo hi : Nat) (h : memWf m = true) : memWf (clearRange m lo hi) = true := by
  unfold clearRange
  induction m with
  | nil => rfl
  | cons e m ih =>
    obtain ⟨k, v⟩ := e
    have h' := (memWf_cons k v m).1 h
    rw [List.filter_cons]
    split
    · rw [memWf_cons]
      exact ⟨fun c hc => h'.1 c (List.mem_of_mem_filter hc), h'.2.1, ih h'.2.2⟩
    · exact ih h'.2.2

/-! ## Read after write -/

/-- A byte reads as it was written, in memory of canonical form. -/
theorem readByte_writeByte_same (m : List Host.Cell) (x : Nat) (b : Byte) (h : memWf m = true) :
    readByte (writeByte m x b) x = b := by
  induction m with
  | nil => unfold writeByte; split <;> simp [readByte, *]
  | cons e m ih =>
    obtain ⟨k, v⟩ := e
    have h' := (memWf_cons k v m).1 h
    have absent : ∀ l : List Host.Cell, (∀ c ∈ l, x < c.1) → readByte l x = blankByte := by
      intro l
      induction l with
      | nil => intro _; rfl
      | cons e l il =>
        obtain ⟨j, w⟩ := e
        intro hl
        have : x < j := hl (j, w) (by simp)
        simp only [readByte, Nat.ne_of_gt this, if_false]
        exact il fun c hc => hl c (List.mem_cons_of_mem _ hc)
    unfold writeByte
    split
    · rename_i hx
      split
      · rename_i hb
        rw [hb]
        refine absent _ fun c hc => ?_
        rcases List.mem_cons.1 hc with hc | hc
        · simpa [hc] using hx
        · exact Nat.lt_trans hx (h'.1 c hc)
      · simp [readByte]
    · split
      · rename_i hx
        split
        · rename_i hb; rw [hb]; exact absent _ fun c hc => hx ▸ h'.1 c hc
        · simp [readByte]
      · rename_i hx
        simp [readByte, Ne.symm hx, ih h'.2.2]

/-- Every other byte reads as before. -/
theorem readByte_writeByte_other (m : List Host.Cell) (x y : Nat) (b : Byte) (h : y ≠ x) :
    readByte (writeByte m x b) y = readByte m y := by
  induction m with
  | nil => unfold writeByte; split <;> simp [readByte, Ne.symm h]
  | cons e m ih =>
    obtain ⟨k, v⟩ := e
    unfold writeByte
    split
    · split <;> simp [readByte, Ne.symm h]
    · split
      · rename_i hx
        subst hx
        split <;> simp [readByte, Ne.symm h]
      · simp [readByte, ih]

/-- Every byte outside a written run reads as before. -/
theorem readByte_writeBytes_other (m : List Host.Cell) (a y : Nat) (bs : List Byte) (h : y < a ∨ a + bs.length ≤ y) :
    readByte (writeBytes m a bs) y = readByte m y := by
  induction bs generalizing m a with
  | nil => rfl
  | cons b bs ih =>
    simp only [List.length_cons] at h
    rw [writeBytes, ih _ _ (by omega), readByte_writeByte_other _ _ _ _ (by omega)]

@[simp] theorem readBytes_length (m : List Host.Cell) (a n : Nat) : (readBytes m a n).length = n := by
  induction n generalizing a with
  | zero => rfl
  | succ n ih => simp [readBytes, ih]

/-- Consecutive bytes read as they were written. -/
theorem readBytes_writeBytes (m : List Host.Cell) (a : Nat) (bs : List Byte) (h : memWf m = true) :
    readBytes (writeBytes m a bs) a bs.length = bs := by
  induction bs generalizing m a with
  | nil => rfl
  | cons b bs ih =>
    rw [writeBytes, List.length_cons, readBytes, readByte_writeBytes_other _ _ _ _ (by omega), readByte_writeByte_same _ _ _ h,
      ih _ _ (memWf_writeByte _ _ _ h)]

/-- A cleared range reads as blank, and every other byte as before. -/
theorem readByte_clearRange (m : List Host.Cell) (lo hi y : Nat) :
    readByte (clearRange m lo hi) y = if lo ≤ y ∧ y < hi then blankByte else readByte m y := by
  unfold clearRange
  induction m with
  | nil => simp [readByte]
  | cons e m ih =>
    obtain ⟨k, v⟩ := e
    rw [List.filter_cons]
    split <;> rename_i hk <;> simp only [Bool.or_eq_true, decide_eq_true_eq, not_or, Nat.not_lt, Nat.not_le] at hk
    · simp only [readByte]
      split
      · rename_i h; subst h; rw [if_neg (by omega)]
      · exact ih
    · simp only [readByte]
      rw [ih]
      split
      · rfl
      · rw [if_neg (by intro h; subst h; omega)]

/-! ## Bytes -/

@[simp] theorem le_length (n v : Nat) : (le n v).length = n := by
  induction n generalizing v with
  | zero => rfl
  | succ n ih => simp [le, ih]

@[simp] theorem padTo_length (n : Nat) (bs : List Byte) : (padTo n bs).length = n := by
  simp [padTo]; omega

/-- Little-endian bytes hold the number that they were made from, modulo their width. -/
theorem unle_le (n v : Nat) : unle (le n v) = v % 256 ^ n := by
  induction n generalizing v with
  | zero => simp [le, unle, Nat.mod_one]
  | succ n ih =>
    simp only [le, unle, ih, BitVec.toNat_ofNat]
    rw [show 256 ^ (n + 1) = 256 * 256 ^ n from Nat.pow_succ', Nat.mod_mul]

end Sys2Proof.Laws
end

