-- ==== Sys2Proof/Laws/State.lean ====
section
/-! SUPPORT. Laws/State.lean: of each named update of the state, the fields that it leaves alone and the value that its reader
then gives. -/

namespace Sys2Proof.Laws
open Sys2Proof Sys2Proof.Machine

/-! ## Tables -/

theorem tset_tset {α : Type} (t : Table α) (k : Nat) (a b : α) : tset (tset t k a) k b = tset t k b := by
  induction t with
  | nil => simp [tset]
  | cons p r ih =>
    obtain ⟨j, v⟩ := p
    by_cases h : k < j
    · simp [tset, h]
    · by_cases h2 : k = j
      · simp [tset, h2]
      · simp [tset, h, h2, ih]

theorem tget_tmod {α : Type} (t : Table α) (k : Nat) (f : α → α) : tget (tmod t k f) k = (tget t k).map f := by
  unfold tmod
  induction t with
  | nil => rfl
  | cons p r ih =>
    obtain ⟨j, v⟩ := p
    by_cases h : j = k
    · simp [tget, h]
    · simpa [tget, h] using ih

theorem tget_tmod_other {α : Type} (t : Table α) (k j : Nat) (f : α → α) (h : j ≠ k) : tget (tmod t k f) j = tget t j := by
  unfold tmod
  induction t with
  | nil => rfl
  | cons p r ih =>
    obtain ⟨i, v⟩ := p
    by_cases h1 : i = k
    · subst h1; simpa [tget, Ne.symm h] using ih
    · by_cases h2 : i = j
      · subst h2; simp [tget, h1]
      · simpa [tget, h1, h2] using ih

/-! ## Fields that an update leaves alone -/

@[simp] theorem emit_pending (s : State) (o : Out) : (emit o s).pending = s.pending := rfl
@[simp] theorem emit_ident (s : State) (o : Out) : (emit o s).ident = s.ident := rfl
@[simp] theorem emit_flash (s : State) (o : Out) : (emit o s).flash = s.flash := rfl
@[simp] theorem emit_aon (s : State) (o : Out) : (emit o s).aon = s.aon := rfl
@[simp] theorem emit_tide (s : State) (o : Out) : (emit o s).tide = s.tide := rfl
@[simp] theorem emit_time (s : State) (o : Out) : (emit o s).time = s.time := rfl
@[simp] theorem emit_host (s : State) (o : Out) : (emit o s).host = s.host := rfl
@[simp] theorem emit_work (s : State) (o : Out) : (emit o s).work = s.work := rfl
@[simp] theorem emit_codec (s : State) (o : Out) : (emit o s).codec = s.codec := rfl
@[simp] theorem emit_power (s : State) (o : Out) : (emit o s).power = s.power := rfl
@[simp] theorem emit_mem (s : State) (o : Out) : (emit o s).mem = s.mem := rfl
@[simp] theorem emit_clocks (s : State) (o : Out) : (emit o s).clocks = s.clocks := rfl
@[simp] theorem emit_links (s : State) (o : Out) : (emit o s).links = s.links := rfl
@[simp] theorem emit_wardens (s : State) (o : Out) : (emit o s).wardens = s.wardens := rfl
@[simp] theorem emit_safety (s : State) (o : Out) : (emit o s).safety = s.safety := rfl
@[simp] theorem emit_startup (s : State) (o : Out) : (emit o s).startup = s.startup := rfl
@[simp] theorem emit_fresh (s : State) (o : Out) : (emit o s).fresh = s.fresh := rfl

@[simp] theorem setFunc_pending (s : State) (fn : Fn) (x : Func) : (setFunc s fn x).pending = s.pending := rfl
@[simp] theorem setFunc_ident (s : State) (fn : Fn) (x : Func) : (setFunc s fn x).ident = s.ident := rfl
@[simp] theorem setFunc_flash (s : State) (fn : Fn) (x : Func) : (setFunc s fn x).flash = s.flash := rfl
@[simp] theorem setFunc_aon (s : State) (fn : Fn) (x : Func) : (setFunc s fn x).aon = s.aon := rfl
@[simp] theorem setFunc_tide (s : State) (fn : Fn) (x : Func) : (setFunc s fn x).tide = s.tide := rfl
@[simp] theorem setFunc_time (s : State) (fn : Fn) (x : Func) : (setFunc s fn x).time = s.time := rfl
@[simp] theorem setFunc_work (s : State) (fn : Fn) (x : Func) : (setFunc s fn x).work = s.work := rfl
@[simp] theorem setFunc_codec (s : State) (fn : Fn) (x : Func) : (setFunc s fn x).codec = s.codec := rfl
@[simp] theorem setFunc_power (s : State) (fn : Fn) (x : Func) : (setFunc s fn x).power = s.power := rfl
@[simp] theorem setFunc_mem (s : State) (fn : Fn) (x : Func) : (setFunc s fn x).mem = s.mem := rfl
@[simp] theorem setFunc_clocks (s : State) (fn : Fn) (x : Func) : (setFunc s fn x).clocks = s.clocks := rfl
@[simp] theorem setFunc_links (s : State) (fn : Fn) (x : Func) : (setFunc s fn x).links = s.links := rfl
@[simp] theorem setFunc_wardens (s : State) (fn : Fn) (x : Func) : (setFunc s fn x).wardens = s.wardens := rfl
@[simp] theorem setFunc_safety (s : State) (fn : Fn) (x : Func) : (setFunc s fn x).safety = s.safety := rfl
@[simp] theorem setFunc_startup (s : State) (fn : Fn) (x : Func) : (setFunc s fn x).startup = s.startup := rfl
@[simp] theorem setFunc_out (s : State) (fn : Fn) (x : Func) : (setFunc s fn x).out = s.out := rfl
@[simp] theorem setFunc_fresh (s : State) (fn : Fn) (x : Func) : (setFunc s fn x).fresh = s.fresh := rfl

@[simp] theorem setSluice_pending (s : State) (fn : Fn) (n : Nat) (x : Sluice) : (setSluice s fn n x).pending = s.pending := rfl
@[simp] theorem setSluice_ident (s : State) (fn : Fn) (n : Nat) (x : Sluice) : (setSluice s fn n x).ident = s.ident := rfl
@[simp] theorem setSluice_flash (s : State) (fn : Fn) (n : Nat) (x : Sluice) : (setSluice s fn n x).flash = s.flash := rfl
@[simp] theorem setSluice_aon (s : State) (fn : Fn) (n : Nat) (x : Sluice) : (setSluice s fn n x).aon = s.aon := rfl
@[simp] theorem setSluice_tide (s : State) (fn : Fn) (n : Nat) (x : Sluice) : (setSluice s fn n x).tide = s.tide := rfl
@[simp] theorem setSluice_time (s : State) (fn : Fn) (n : Nat) (x : Sluice) : (setSluice s fn n x).time = s.time := rfl
@[simp] theorem setSluice_work (s : State) (fn : Fn) (n : Nat) (x : Sluice) : (setSluice s fn n x).work = s.work := rfl
@[simp] theorem setSluice_codec (s : State) (fn : Fn) (n : Nat) (x : Sluice) : (setSluice s fn n x).codec = s.codec := rfl
@[simp] theorem setSluice_power (s : State) (fn : Fn) (n : Nat) (x : Sluice) : (setSluice s fn n x).power = s.power := rfl
@[simp] theorem setSluice_mem (s : State) (fn : Fn) (n : Nat) (x : Sluice) : (setSluice s fn n x).mem = s.mem := rfl
@[simp] theorem setSluice_clocks (s : State) (fn : Fn) (n : Nat) (x : Sluice) : (setSluice s fn n x).clocks = s.clocks := rfl
@[simp] theorem setSluice_links (s : State) (fn : Fn) (n : Nat) (x : Sluice) : (setSluice s fn n x).links = s.links := rfl
@[simp] theorem setSluice_wardens (s : State) (fn : Fn) (n : Nat) (x : Sluice) : (setSluice s fn n x).wardens = s.wardens := rfl
@[simp] theorem setSluice_safety (s : State) (fn : Fn) (n : Nat) (x : Sluice) : (setSluice s fn n x).safety = s.safety := rfl
@[simp] theorem setSluice_startup (s : State) (fn : Fn) (n : Nat) (x : Sluice) : (setSluice s fn n x).startup = s.startup := rfl
@[simp] theorem setSluice_out (s : State) (fn : Fn) (n : Nat) (x : Sluice) : (setSluice s fn n x).out = s.out := rfl
@[simp] theorem setSluice_fresh (s : State) (fn : Fn) (n : Nat) (x : Sluice) : (setSluice s fn n x).fresh = s.fresh := rfl

@[simp] theorem setHub_pending (s : State) (h : Nat) (x : Hub) : (setHub s h x).pending = s.pending := by unfold setHub; split <;> rfl
@[simp] theorem setHub_ident (s : State) (h : Nat) (x : Hub) : (setHub s h x).ident = s.ident := by unfold setHub; split <;> rfl
@[simp] theorem setHub_flash (s : State) (h : Nat) (x : Hub) : (setHub s h x).flash = s.flash := by unfold setHub; split <;> rfl
@[simp] theorem setHub_aon (s : State) (h : Nat) (x : Hub) : (setHub s h x).aon = s.aon := by unfold setHub; split <;> rfl
@[simp] theorem setHub_tide (s : State) (h : Nat) (x : Hub) : (setHub s h x).tide = s.tide := by unfold setHub; split <;> rfl
@[simp] theorem setHub_time (s : State) (h : Nat) (x : Hub) : (setHub s h x).time = s.time := by unfold setHub; split <;> rfl
@[simp] theorem setHub_work (s : State) (h : Nat) (x : Hub) : (setHub s h x).work = s.work := by unfold setHub; split <;> rfl
@[simp] theorem setHub_codec (s : State) (h : Nat) (x : Hub) : (setHub s h x).codec = s.codec := by unfold setHub; split <;> rfl
@[simp] theorem setHub_power (s : State) (h : Nat) (x : Hub) : (setHub s h x).power = s.power := by unfold setHub; split <;> rfl
@[simp] theorem setHub_mem (s : State) (h : Nat) (x : Hub) : (setHub s h x).mem = s.mem := by unfold setHub; split <;> rfl
@[simp] theorem setHub_clocks (s : State) (h : Nat) (x : Hub) : (setHub s h x).clocks = s.clocks := by unfold setHub; split <;> rfl
@[simp] theorem setHub_links (s : State) (h : Nat) (x : Hub) : (setHub s h x).links = s.links := by unfold setHub; split <;> rfl
@[simp] theorem setHub_wardens (s : State) (h : Nat) (x : Hub) : (setHub s h x).wardens = s.wardens := by unfold setHub; split <;> rfl
@[simp] theorem setHub_safety (s : State) (h : Nat) (x : Hub) : (setHub s h x).safety = s.safety := by unfold setHub; split <;> rfl
@[simp] theorem setHub_startup (s : State) (h : Nat) (x : Hub) : (setHub s h x).startup = s.startup := by unfold setHub; split <;> rfl
@[simp] theorem setHub_out (s : State) (h : Nat) (x : Hub) : (setHub s h x).out = s.out := by unfold setHub; split <;> rfl
@[simp] theorem setHub_fresh (s : State) (h : Nat) (x : Hub) : (setHub s h x).fresh = s.fresh := by unfold setHub; split <;> rfl

@[simp] theorem setSource_pending (s : State) (h k : Nat) (x : Source) : (setSource s h k x).pending = s.pending := by unfold setSource setHub; dsimp only; split <;> rfl
@[simp] theorem setSource_ident (s : State) (h k : Nat) (x : Source) : (setSource s h k x).ident = s.ident := by unfold setSource setHub; dsimp only; split <;> rfl
@[simp] theorem setSource_flash (s : State) (h k : Nat) (x : Source) : (setSource s h k x).flash = s.flash := by unfold setSource setHub; dsimp only; split <;> rfl
@[simp] theorem setSource_aon (s : State) (h k : Nat) (x : Source) : (setSource s h k x).aon = s.aon := by unfold setSource setHub; dsimp only; split <;> rfl
@[simp] theorem setSource_tide (s : State) (h k : Nat) (x : Source) : (setSource s h k x).tide = s.tide := by unfold setSource setHub; dsimp only; split <;> rfl
@[simp] theorem setSource_time (s : State) (h k : Nat) (x : Source) : (setSource s h k x).time = s.time := by unfold setSource setHub; dsimp only; split <;> rfl
@[simp] theorem setSource_work (s : State) (h k : Nat) (x : Source) : (setSource s h k x).work = s.work := by unfold setSource setHub; dsimp only; split <;> rfl
@[simp] theorem setSource_codec (s : State) (h k : Nat) (x : Source) : (setSource s h k x).codec = s.codec := by unfold setSource setHub; dsimp only; split <;> rfl
@[simp] theorem setSource_power (s : State) (h k : Nat) (x : Source) : (setSource s h k x).power = s.power := by unfold setSource setHub; dsimp only; split <;> rfl
@[simp] theorem setSource_mem (s : State) (h k : Nat) (x : Source) : (setSource s h k x).mem = s.mem := by unfold setSource setHub; dsimp only; split <;> rfl
@[simp] theorem setSource_clocks (s : State) (h k : Nat) (x : Source) : (setSource s h k x).clocks = s.clocks := by unfold setSource setHub; dsimp only; split <;> rfl
@[simp] theorem setSource_links (s : State) (h k : Nat) (x : Source) : (setSource s h k x).links = s.links := by unfold setSource setHub; dsimp only; split <;> rfl
@[simp] theorem setSource_wardens (s : State) (h k : Nat) (x : Source) : (setSource s h k x).wardens = s.wardens := by unfold setSource setHub; dsimp only; split <;> rfl
@[simp] theorem setSource_safety (s : State) (h k : Nat) (x : Source) : (setSource s h k x).safety = s.safety := by unfold setSource setHub; dsimp only; split <;> rfl
@[simp] theorem setSource_startup (s : State) (h k : Nat) (x : Source) : (setSource s h k x).startup = s.startup := by unfold setSource setHub; dsimp only; split <;> rfl
@[simp] theorem setSource_out (s : State) (h k : Nat) (x : Source) : (setSource s h k x).out = s.out := by unfold setSource setHub; dsimp only; split <;> rfl
@[simp] theorem setSource_fresh (s : State) (h k : Nat) (x : Source) : (setSource s h k x).fresh = s.fresh := by unfold setSource setHub; dsimp only; split <;> rfl

@[simp] theorem setPolder_pending (s : State) (p : Nat) (x : Polder) : (setPolder s p x).pending = s.pending := rfl
@[simp] theorem setPolder_ident (s : State) (p : Nat) (x : Polder) : (setPolder s p x).ident = s.ident := rfl
@[simp] theorem setPolder_flash (s : State) (p : Nat) (x : Polder) : (setPolder s p x).flash = s.flash := rfl
@[simp] theorem setPolder_aon (s : State) (p : Nat) (x : Polder) : (setPolder s p x).aon = s.aon := rfl
@[simp] theorem setPolder_tide (s : State) (p : Nat) (x : Polder) : (setPolder s p x).tide = s.tide := rfl
@[simp] theorem setPolder_time (s : State) (p : Nat) (x : Polder) : (setPolder s p x).time = s.time := rfl
@[simp] theorem setPolder_host (s : State) (p : Nat) (x : Polder) : (setPolder s p x).host = s.host := rfl
@[simp] theorem setPolder_codec (s : State) (p : Nat) (x : Polder) : (setPolder s p x).codec = s.codec := rfl
@[simp] theorem setPolder_power (s : State) (p : Nat) (x : Polder) : (setPolder s p x).power = s.power := rfl
@[simp] theorem setPolder_mem (s : State) (p : Nat) (x : Polder) : (setPolder s p x).mem = s.mem := rfl
@[simp] theorem setPolder_clocks (s : State) (p : Nat) (x : Polder) : (setPolder s p x).clocks = s.clocks := rfl
@[simp] theorem setPolder_links (s : State) (p : Nat) (x : Polder) : (setPolder s p x).links = s.links := rfl
@[simp] theorem setPolder_wardens (s : State) (p : Nat) (x : Polder) : (setPolder s p x).wardens = s.wardens := rfl
@[simp] theorem setPolder_safety (s : State) (p : Nat) (x : Polder) : (setPolder s p x).safety = s.safety := rfl
@[simp] theorem setPolder_startup (s : State) (p : Nat) (x : Polder) : (setPolder s p x).startup = s.startup := rfl
@[simp] theorem setPolder_out (s : State) (p : Nat) (x : Polder) : (setPolder s p x).out = s.out := rfl
@[simp] theorem setPolder_fresh (s : State) (p : Nat) (x : Polder) : (setPolder s p x).fresh = s.fresh := rfl

@[simp] theorem modPolder_pending (s : State) (p : Nat) (f : Polder → Polder) : (modPolder s p f).pending = s.pending := rfl
@[simp] theorem modPolder_ident (s : State) (p : Nat) (f : Polder → Polder) : (modPolder s p f).ident = s.ident := rfl
@[simp] theorem modPolder_flash (s : State) (p : Nat) (f : Polder → Polder) : (modPolder s p f).flash = s.flash := rfl
@[simp] theorem modPolder_aon (s : State) (p : Nat) (f : Polder → Polder) : (modPolder s p f).aon = s.aon := rfl
@[simp] theorem modPolder_tide (s : State) (p : Nat) (f : Polder → Polder) : (modPolder s p f).tide = s.tide := rfl
@[simp] theorem modPolder_time (s : State) (p : Nat) (f : Polder → Polder) : (modPolder s p f).time = s.time := rfl
@[simp] theorem modPolder_host (s : State) (p : Nat) (f : Polder → Polder) : (modPolder s p f).host = s.host := rfl
@[simp] theorem modPolder_codec (s : State) (p : Nat) (f : Polder → Polder) : (modPolder s p f).codec = s.codec := rfl
@[simp] theorem modPolder_power (s : State) (p : Nat) (f : Polder → Polder) : (modPolder s p f).power = s.power := rfl
@[simp] theorem modPolder_mem (s : State) (p : Nat) (f : Polder → Polder) : (modPolder s p f).mem = s.mem := rfl
@[simp] theorem modPolder_clocks (s : State) (p : Nat) (f : Polder → Polder) : (modPolder s p f).clocks = s.clocks := rfl
@[simp] theorem modPolder_links (s : State) (p : Nat) (f : Polder → Polder) : (modPolder s p f).links = s.links := rfl
@[simp] theorem modPolder_wardens (s : State) (p : Nat) (f : Polder → Polder) : (modPolder s p f).wardens = s.wardens := rfl
@[simp] theorem modPolder_safety (s : State) (p : Nat) (f : Polder → Polder) : (modPolder s p f).safety = s.safety := rfl
@[simp] theorem modPolder_startup (s : State) (p : Nat) (f : Polder → Polder) : (modPolder s p f).startup = s.startup := rfl
@[simp] theorem modPolder_out (s : State) (p : Nat) (f : Polder → Polder) : (modPolder s p f).out = s.out := rfl
@[simp] theorem modPolder_fresh (s : State) (p : Nat) (f : Polder → Polder) : (modPolder s p f).fresh = s.fresh := rfl

@[simp] theorem setGraph_pending (s : State) (p h : Nat) (g : Graph) : (setGraph s p h g).pending = s.pending := rfl
@[simp] theorem setGraph_ident (s : State) (p h : Nat) (g : Graph) : (setGraph s p h g).ident = s.ident := rfl
@[simp] theorem setGraph_flash (s : State) (p h : Nat) (g : Graph) : (setGraph s p h g).flash = s.flash := rfl
@[simp] theorem setGraph_aon (s : State) (p h : Nat) (g : Graph) : (setGraph s p h g).aon = s.aon := rfl
@[simp] theorem setGraph_tide (s : State) (p h : Nat) (g : Graph) : (setGraph s p h g).tide = s.tide := rfl
@[simp] theorem setGraph_time (s : State) (p h : Nat) (g : Graph) : (setGraph s p h g).time = s.time := rfl
@[simp] theorem setGraph_host (s : State) (p h : Nat) (g : Graph) : (setGraph s p h g).host = s.host := rfl
@[simp] theorem setGraph_codec (s : State) (p h : Nat) (g : Graph) : (setGraph s p h g).codec = s.codec := rfl
@[simp] theorem setGraph_power (s : State) (p h : Nat) (g : Graph) : (setGraph s p h g).power = s.power := rfl
@[simp] theorem setGraph_mem (s : State) (p h : Nat) (g : Graph) : (setGraph s p h g).mem = s.mem := rfl
@[simp] theorem setGraph_clocks (s : State) (p h : Nat) (g : Graph) : (setGraph s p h g).clocks = s.clocks := rfl
@[simp] theorem setGraph_links (s : State) (p h : Nat) (g : Graph) : (setGraph s p h g).links = s.links := rfl
@[simp] theorem setGraph_wardens (s : State) (p h : Nat) (g : Graph) : (setGraph s p h g).wardens = s.wardens := rfl
@[simp] theorem setGraph_safety (s : State) (p h : Nat) (g : Graph) : (setGraph s p h g).safety = s.safety := rfl
@[simp] theorem setGraph_startup (s : State) (p h : Nat) (g : Graph) : (setGraph s p h g).startup = s.startup := rfl
@[simp] theorem setGraph_out (s : State) (p h : Nat) (g : Graph) : (setGraph s p h g).out = s.out := rfl
@[simp] theorem setGraph_fresh (s : State) (p h : Nat) (g : Graph) : (setGraph s p h g).fresh = s.fresh := rfl

@[simp] theorem setRun_pending (s : State) (p r : Nat) (y : Run) : (setRun s p r y).pending = s.pending := rfl
@[simp] theorem setRun_ident (s : State) (p r : Nat) (y : Run) : (setRun s p r y).ident = s.ident := rfl
@[simp] theorem setRun_flash (s : State) (p r : Nat) (y : Run) : (setRun s p r y).flash = s.flash := rfl
@[simp] theorem setRun_aon (s : State) (p r : Nat) (y : Run) : (setRun s p r y).aon = s.aon := rfl
@[simp] theorem setRun_tide (s : State) (p r : Nat) (y : Run) : (setRun s p r y).tide = s.tide := rfl
@[simp] theorem setRun_time (s : State) (p r : Nat) (y : Run) : (setRun s p r y).time = s.time := rfl
@[simp] theorem setRun_host (s : State) (p r : Nat) (y : Run) : (setRun s p r y).host = s.host := rfl
@[simp] theorem setRun_codec (s : State) (p r : Nat) (y : Run) : (setRun s p r y).codec = s.codec := rfl
@[simp] theorem setRun_power (s : State) (p r : Nat) (y : Run) : (setRun s p r y).power = s.power := rfl
@[simp] theorem setRun_mem (s : State) (p r : Nat) (y : Run) : (setRun s p r y).mem = s.mem := rfl
@[simp] theorem setRun_clocks (s : State) (p r : Nat) (y : Run) : (setRun s p r y).clocks = s.clocks := rfl
@[simp] theorem setRun_links (s : State) (p r : Nat) (y : Run) : (setRun s p r y).links = s.links := rfl
@[simp] theorem setRun_wardens (s : State) (p r : Nat) (y : Run) : (setRun s p r y).wardens = s.wardens := rfl
@[simp] theorem setRun_safety (s : State) (p r : Nat) (y : Run) : (setRun s p r y).safety = s.safety := rfl
@[simp] theorem setRun_startup (s : State) (p r : Nat) (y : Run) : (setRun s p r y).startup = s.startup := rfl
@[simp] theorem setRun_out (s : State) (p r : Nat) (y : Run) : (setRun s p r y).out = s.out := rfl
@[simp] theorem setRun_fresh (s : State) (p r : Nat) (y : Run) : (setRun s p r y).fresh = s.fresh := rfl

@[simp] theorem setReq_pending (s : State) (p : Nat) (r : Request) : (setReq p r s).pending = s.pending := rfl
@[simp] theorem setReq_ident (s : State) (p : Nat) (r : Request) : (setReq p r s).ident = s.ident := rfl
@[simp] theorem setReq_flash (s : State) (p : Nat) (r : Request) : (setReq p r s).flash = s.flash := rfl
@[simp] theorem setReq_aon (s : State) (p : Nat) (r : Request) : (setReq p r s).aon = s.aon := rfl
@[simp] theorem setReq_tide (s : State) (p : Nat) (r : Request) : (setReq p r s).tide = s.tide := rfl
@[simp] theorem setReq_time (s : State) (p : Nat) (r : Request) : (setReq p r s).time = s.time := rfl
@[simp] theorem setReq_host (s : State) (p : Nat) (r : Request) : (setReq p r s).host = s.host := rfl
@[simp] theorem setReq_codec (s : State) (p : Nat) (r : Request) : (setReq p r s).codec = s.codec := rfl
@[simp] theorem setReq_power (s : State) (p : Nat) (r : Request) : (setReq p r s).power = s.power := rfl
@[simp] theorem setReq_mem (s : State) (p : Nat) (r : Request) : (setReq p r s).mem = s.mem := rfl
@[simp] theorem setReq_clocks (s : State) (p : Nat) (r : Request) : (setReq p r s).clocks = s.clocks := rfl
@[simp] theorem setReq_links (s : State) (p : Nat) (r : Request) : (setReq p r s).links = s.links := rfl
@[simp] theorem setReq_wardens (s : State) (p : Nat) (r : Request) : (setReq p r s).wardens = s.wardens := rfl
@[simp] theorem setReq_safety (s : State) (p : Nat) (r : Request) : (setReq p r s).safety = s.safety := rfl
@[simp] theorem setReq_startup (s : State) (p : Nat) (r : Request) : (setReq p r s).startup = s.startup := rfl
@[simp] theorem setReq_out (s : State) (p : Nat) (r : Request) : (setReq p r s).out = s.out := rfl
@[simp] theorem setReq_fresh (s : State) (p : Nat) (r : Request) : (setReq p r s).fresh = s.fresh := rfl

@[simp] theorem setTdi_pending (s : State) (p v : Nat) : (setTdi s p v).pending = s.pending := rfl
@[simp] theorem setTdi_ident (s : State) (p v : Nat) : (setTdi s p v).ident = s.ident := rfl
@[simp] theorem setTdi_flash (s : State) (p v : Nat) : (setTdi s p v).flash = s.flash := rfl
@[simp] theorem setTdi_aon (s : State) (p v : Nat) : (setTdi s p v).aon = s.aon := rfl
@[simp] theorem setTdi_tide (s : State) (p v : Nat) : (setTdi s p v).tide = s.tide := rfl
@[simp] theorem setTdi_time (s : State) (p v : Nat) : (setTdi s p v).time = s.time := rfl
@[simp] theorem setTdi_host (s : State) (p v : Nat) : (setTdi s p v).host = s.host := rfl
@[simp] theorem setTdi_work (s : State) (p v : Nat) : (setTdi s p v).work = s.work := rfl
@[simp] theorem setTdi_codec (s : State) (p v : Nat) : (setTdi s p v).codec = s.codec := rfl
@[simp] theorem setTdi_power (s : State) (p v : Nat) : (setTdi s p v).power = s.power := rfl
@[simp] theorem setTdi_mem (s : State) (p v : Nat) : (setTdi s p v).mem = s.mem := rfl
@[simp] theorem setTdi_clocks (s : State) (p v : Nat) : (setTdi s p v).clocks = s.clocks := rfl
@[simp] theorem setTdi_links (s : State) (p v : Nat) : (setTdi s p v).links = s.links := rfl
@[simp] theorem setTdi_wardens (s : State) (p v : Nat) : (setTdi s p v).wardens = s.wardens := rfl
@[simp] theorem setTdi_safety (s : State) (p v : Nat) : (setTdi s p v).safety = s.safety := rfl
@[simp] theorem setTdi_out (s : State) (p v : Nat) : (setTdi s p v).out = s.out := rfl
@[simp] theorem setTdi_fresh (s : State) (p v : Nat) : (setTdi s p v).fresh = s.fresh := rfl

@[simp] theorem setUnit_pending (s : State) (t : Nat) (u : Unit_) : (setUnit s t u).pending = s.pending := rfl
@[simp] theorem setUnit_ident (s : State) (t : Nat) (u : Unit_) : (setUnit s t u).ident = s.ident := rfl
@[simp] theorem setUnit_flash (s : State) (t : Nat) (u : Unit_) : (setUnit s t u).flash = s.flash := rfl
@[simp] theorem setUnit_aon (s : State) (t : Nat) (u : Unit_) : (setUnit s t u).aon = s.aon := rfl
@[simp] theorem setUnit_tide (s : State) (t : Nat) (u : Unit_) : (setUnit s t u).tide = s.tide := rfl
@[simp] theorem setUnit_time (s : State) (t : Nat) (u : Unit_) : (setUnit s t u).time = s.time := rfl
@[simp] theorem setUnit_host (s : State) (t : Nat) (u : Unit_) : (setUnit s t u).host = s.host := rfl
@[simp] theorem setUnit_work (s : State) (t : Nat) (u : Unit_) : (setUnit s t u).work = s.work := rfl
@[simp] theorem setUnit_codec (s : State) (t : Nat) (u : Unit_) : (setUnit s t u).codec = s.codec := rfl
@[simp] theorem setUnit_power (s : State) (t : Nat) (u : Unit_) : (setUnit s t u).power = s.power := rfl
@[simp] theorem setUnit_mem (s : State) (t : Nat) (u : Unit_) : (setUnit s t u).mem = s.mem := rfl
@[simp] theorem setUnit_clocks (s : State) (t : Nat) (u : Unit_) : (setUnit s t u).clocks = s.clocks := rfl
@[simp] theorem setUnit_links (s : State) (t : Nat) (u : Unit_) : (setUnit s t u).links = s.links := rfl
@[simp] theorem setUnit_wardens (s : State) (t : Nat) (u : Unit_) : (setUnit s t u).wardens = s.wardens := rfl
@[simp] theorem setUnit_safety (s : State) (t : Nat) (u : Unit_) : (setUnit s t u).safety = s.safety := rfl
@[simp] theorem setUnit_out (s : State) (t : Nat) (u : Unit_) : (setUnit s t u).out = s.out := rfl
@[simp] theorem setUnit_fresh (s : State) (t : Nat) (u : Unit_) : (setUnit s t u).fresh = s.fresh := rfl

@[simp] theorem setWarden_pending (s : State) (w : Warden) (x : WardenSt) : (setWarden s w x).pending = s.pending := by cases w <;> rfl
@[simp] theorem setWarden_ident (s : State) (w : Warden) (x : WardenSt) : (setWarden s w x).ident = s.ident := by cases w <;> rfl
@[simp] theorem setWarden_flash (s : State) (w : Warden) (x : WardenSt) : (setWarden s w x).flash = s.flash := by cases w <;> rfl
@[simp] theorem setWarden_aon (s : State) (w : Warden) (x : WardenSt) : (setWarden s w x).aon = s.aon := by cases w <;> rfl
@[simp] theorem setWarden_tide (s : State) (w : Warden) (x : WardenSt) : (setWarden s w x).tide = s.tide := by cases w <;> rfl
@[simp] theorem setWarden_time (s : State) (w : Warden) (x : WardenSt) : (setWarden s w x).time = s.time := by cases w <;> rfl
@[simp] theorem setWarden_host (s : State) (w : Warden) (x : WardenSt) : (setWarden s w x).host = s.host := by cases w <;> rfl
@[simp] theorem setWarden_work (s : State) (w : Warden) (x : WardenSt) : (setWarden s w x).work = s.work := by cases w <;> rfl
@[simp] theorem setWarden_codec (s : State) (w : Warden) (x : WardenSt) : (setWarden s w x).codec = s.codec := by cases w <;> rfl
@[simp] theorem setWarden_power (s : State) (w : Warden) (x : WardenSt) : (setWarden s w x).power = s.power := by cases w <;> rfl
@[simp] theorem setWarden_mem (s : State) (w : Warden) (x : WardenSt) : (setWarden s w x).mem = s.mem := by cases w <;> rfl
@[simp] theorem setWarden_clocks (s : State) (w : Warden) (x : WardenSt) : (setWarden s w x).clocks = s.clocks := by cases w <;> rfl
@[simp] theorem setWarden_links (s : State) (w : Warden) (x : WardenSt) : (setWarden s w x).links = s.links := by cases w <;> rfl
@[simp] theorem setWarden_safety (s : State) (w : Warden) (x : WardenSt) : (setWarden s w x).safety = s.safety := by cases w <;> rfl
@[simp] theorem setWarden_startup (s : State) (w : Warden) (x : WardenSt) : (setWarden s w x).startup = s.startup := by cases w <;> rfl
@[simp] theorem setWarden_out (s : State) (w : Warden) (x : WardenSt) : (setWarden s w x).out = s.out := by cases w <;> rfl
@[simp] theorem setWarden_fresh (s : State) (w : Warden) (x : WardenSt) : (setWarden s w x).fresh = s.fresh := by cases w <;> rfl

@[simp] theorem setTile_pending (s : State) (k t : Nat) (x : TileTest) : (setTile s k t x).pending = s.pending := rfl
@[simp] theorem setTile_ident (s : State) (k t : Nat) (x : TileTest) : (setTile s k t x).ident = s.ident := rfl
@[simp] theorem setTile_flash (s : State) (k t : Nat) (x : TileTest) : (setTile s k t x).flash = s.flash := rfl
@[simp] theorem setTile_aon (s : State) (k t : Nat) (x : TileTest) : (setTile s k t x).aon = s.aon := rfl
@[simp] theorem setTile_tide (s : State) (k t : Nat) (x : TileTest) : (setTile s k t x).tide = s.tide := rfl
@[simp] theorem setTile_time (s : State) (k t : Nat) (x : TileTest) : (setTile s k t x).time = s.time := rfl
@[simp] theorem setTile_host (s : State) (k t : Nat) (x : TileTest) : (setTile s k t x).host = s.host := rfl
@[simp] theorem setTile_work (s : State) (k t : Nat) (x : TileTest) : (setTile s k t x).work = s.work := rfl
@[simp] theorem setTile_codec (s : State) (k t : Nat) (x : TileTest) : (setTile s k t x).codec = s.codec := rfl
@[simp] theorem setTile_power (s : State) (k t : Nat) (x : TileTest) : (setTile s k t x).power = s.power := rfl
@[simp] theorem setTile_mem (s : State) (k t : Nat) (x : TileTest) : (setTile s k t x).mem = s.mem := rfl
@[simp] theorem setTile_clocks (s : State) (k t : Nat) (x : TileTest) : (setTile s k t x).clocks = s.clocks := rfl
@[simp] theorem setTile_links (s : State) (k t : Nat) (x : TileTest) : (setTile s k t x).links = s.links := rfl
@[simp] theorem setTile_wardens (s : State) (k t : Nat) (x : TileTest) : (setTile s k t x).wardens = s.wardens := rfl
@[simp] theorem setTile_startup (s : State) (k t : Nat) (x : TileTest) : (setTile s k t x).startup = s.startup := rfl
@[simp] theorem setTile_out (s : State) (k t : Nat) (x : TileTest) : (setTile s k t x).out = s.out := rfl
@[simp] theorem setTile_fresh (s : State) (k t : Nat) (x : TileTest) : (setTile s k t x).fresh = s.fresh := rfl

@[simp] theorem setArbiter_pending (s : State) (i : Nat) (x : Arbiter) : (setArbiter s i x).pending = s.pending := rfl
@[simp] theorem setArbiter_ident (s : State) (i : Nat) (x : Arbiter) : (setArbiter s i x).ident = s.ident := rfl
@[simp] theorem setArbiter_flash (s : State) (i : Nat) (x : Arbiter) : (setArbiter s i x).flash = s.flash := rfl
@[simp] theorem setArbiter_aon (s : State) (i : Nat) (x : Arbiter) : (setArbiter s i x).aon = s.aon := rfl
@[simp] theorem setArbiter_tide (s : State) (i : Nat) (x : Arbiter) : (setArbiter s i x).tide = s.tide := rfl
@[simp] theorem setArbiter_time (s : State) (i : Nat) (x : Arbiter) : (setArbiter s i x).time = s.time := rfl
@[simp] theorem setArbiter_host (s : State) (i : Nat) (x : Arbiter) : (setArbiter s i x).host = s.host := rfl
@[simp] theorem setArbiter_work (s : State) (i : Nat) (x : Arbiter) : (setArbiter s i x).work = s.work := rfl
@[simp] theorem setArbiter_codec (s : State) (i : Nat) (x : Arbiter) : (setArbiter s i x).codec = s.codec := rfl
@[simp] theorem setArbiter_power (s : State) (i : Nat) (x : Arbiter) : (setArbiter s i x).power = s.power := rfl
@[simp] theorem setArbiter_clocks (s : State) (i : Nat) (x : Arbiter) : (setArbiter s i x).clocks = s.clocks := rfl
@[simp] theorem setArbiter_links (s : State) (i : Nat) (x : Arbiter) : (setArbiter s i x).links = s.links := rfl
@[simp] theorem setArbiter_wardens (s : State) (i : Nat) (x : Arbiter) : (setArbiter s i x).wardens = s.wardens := rfl
@[simp] theorem setArbiter_safety (s : State) (i : Nat) (x : Arbiter) : (setArbiter s i x).safety = s.safety := rfl
@[simp] theorem setArbiter_startup (s : State) (i : Nat) (x : Arbiter) : (setArbiter s i x).startup = s.startup := rfl
@[simp] theorem setArbiter_out (s : State) (i : Nat) (x : Arbiter) : (setArbiter s i x).out = s.out := rfl
@[simp] theorem setArbiter_fresh (s : State) (i : Nat) (x : Arbiter) : (setArbiter s i x).fresh = s.fresh := rfl

@[simp] theorem setScr_pending (s : State) (i : Nat) (x : Scratch) : (setScr s i x).pending = s.pending := by unfold setScr; split <;> rfl
@[simp] theorem setScr_ident (s : State) (i : Nat) (x : Scratch) : (setScr s i x).ident = s.ident := by unfold setScr; split <;> rfl
@[simp] theorem setScr_flash (s : State) (i : Nat) (x : Scratch) : (setScr s i x).flash = s.flash := by unfold setScr; split <;> rfl
@[simp] theorem setScr_aon (s : State) (i : Nat) (x : Scratch) : (setScr s i x).aon = s.aon := by unfold setScr; split <;> rfl
@[simp] theorem setScr_tide (s : State) (i : Nat) (x : Scratch) : (setScr s i x).tide = s.tide := by unfold setScr; split <;> rfl
@[simp] theorem setScr_time (s : State) (i : Nat) (x : Scratch) : (setScr s i x).time = s.time := by unfold setScr; split <;> rfl
@[simp] theorem setScr_host (s : State) (i : Nat) (x : Scratch) : (setScr s i x).host = s.host := by unfold setScr; split <;> rfl
@[simp] theorem setScr_work (s : State) (i : Nat) (x : Scratch) : (setScr s i x).work = s.work := by unfold setScr; split <;> rfl
@[simp] theorem setScr_codec (s : State) (i : Nat) (x : Scratch) : (setScr s i x).codec = s.codec := by unfold setScr; split <;> rfl
@[simp] theorem setScr_power (s : State) (i : Nat) (x : Scratch) : (setScr s i x).power = s.power := by unfold setScr; split <;> rfl
@[simp] theorem setScr_clocks (s : State) (i : Nat) (x : Scratch) : (setScr s i x).clocks = s.clocks := by unfold setScr; split <;> rfl
@[simp] theorem setScr_links (s : State) (i : Nat) (x : Scratch) : (setScr s i x).links = s.links := by unfold setScr; split <;> rfl
@[simp] theorem setScr_wardens (s : State) (i : Nat) (x : Scratch) : (setScr s i x).wardens = s.wardens := by unfold setScr; split <;> rfl
@[simp] theorem setScr_safety (s : State) (i : Nat) (x : Scratch) : (setScr s i x).safety = s.safety := by unfold setScr; split <;> rfl
@[simp] theorem setScr_startup (s : State) (i : Nat) (x : Scratch) : (setScr s i x).startup = s.startup := by unfold setScr; split <;> rfl
@[simp] theorem setScr_out (s : State) (i : Nat) (x : Scratch) : (setScr s i x).out = s.out := by unfold setScr; split <;> rfl
@[simp] theorem setScr_fresh (s : State) (i : Nat) (x : Scratch) : (setScr s i x).fresh = s.fresh := by unfold setScr; split <;> rfl

@[simp] theorem setPort_pending (s : State) (n : Nat) (x : Port) : (setPort s n x).pending = s.pending := rfl
@[simp] theorem setPort_ident (s : State) (n : Nat) (x : Port) : (setPort s n x).ident = s.ident := rfl
@[simp] theorem setPort_flash (s : State) (n : Nat) (x : Port) : (setPort s n x).flash = s.flash := rfl
@[simp] theorem setPort_aon (s : State) (n : Nat) (x : Port) : (setPort s n x).aon = s.aon := rfl
@[simp] theorem setPort_tide (s : State) (n : Nat) (x : Port) : (setPort s n x).tide = s.tide := rfl
@[simp] theorem setPort_time (s : State) (n : Nat) (x : Port) : (setPort s n x).time = s.time := rfl
@[simp] theorem setPort_host (s : State) (n : Nat) (x : Port) : (setPort s n x).host = s.host := rfl
@[simp] theorem setPort_work (s : State) (n : Nat) (x : Port) : (setPort s n x).work = s.work := rfl
@[simp] theorem setPort_codec (s : State) (n : Nat) (x : Port) : (setPort s n x).codec = s.codec := rfl
@[simp] theorem setPort_power (s : State) (n : Nat) (x : Port) : (setPort s n x).power = s.power := rfl
@[simp] theorem setPort_mem (s : State) (n : Nat) (x : Port) : (setPort s n x).mem = s.mem := rfl
@[simp] theorem setPort_clocks (s : State) (n : Nat) (x : Port) : (setPort s n x).clocks = s.clocks := rfl
@[simp] theorem setPort_wardens (s : State) (n : Nat) (x : Port) : (setPort s n x).wardens = s.wardens := rfl
@[simp] theorem setPort_safety (s : State) (n : Nat) (x : Port) : (setPort s n x).safety = s.safety := rfl
@[simp] theorem setPort_startup (s : State) (n : Nat) (x : Port) : (setPort s n x).startup = s.startup := rfl
@[simp] theorem setPort_out (s : State) (n : Nat) (x : Port) : (setPort s n x).out = s.out := rfl
@[simp] theorem setPort_fresh (s : State) (n : Nat) (x : Port) : (setPort s n x).fresh = s.fresh := rfl

@[simp] theorem setAssoc_pending (s : State) (m : Nat) (a : Assoc) : (setAssoc s m a).pending = s.pending := rfl
@[simp] theorem setAssoc_ident (s : State) (m : Nat) (a : Assoc) : (setAssoc s m a).ident = s.ident := rfl
@[simp] theorem setAssoc_flash (s : State) (m : Nat) (a : Assoc) : (setAssoc s m a).flash = s.flash := rfl
@[simp] theorem setAssoc_aon (s : State) (m : Nat) (a : Assoc) : (setAssoc s m a).aon = s.aon := rfl
@[simp] theorem setAssoc_tide (s : State) (m : Nat) (a : Assoc) : (setAssoc s m a).tide = s.tide := rfl
@[simp] theorem setAssoc_time (s : State) (m : Nat) (a : Assoc) : (setAssoc s m a).time = s.time := rfl
@[simp] theorem setAssoc_host (s : State) (m : Nat) (a : Assoc) : (setAssoc s m a).host = s.host := rfl
@[simp] theorem setAssoc_work (s : State) (m : Nat) (a : Assoc) : (setAssoc s m a).work = s.work := rfl
@[simp] theorem setAssoc_codec (s : State) (m : Nat) (a : Assoc) : (setAssoc s m a).codec = s.codec := rfl
@[simp] theorem setAssoc_power (s : State) (m : Nat) (a : Assoc) : (setAssoc s m a).power = s.power := rfl
@[simp] theorem setAssoc_mem (s : State) (m : Nat) (a : Assoc) : (setAssoc s m a).mem = s.mem := rfl
@[simp] theorem setAssoc_clocks (s : State) (m : Nat) (a : Assoc) : (setAssoc s m a).clocks = s.clocks := rfl
@[simp] theorem setAssoc_wardens (s : State) (m : Nat) (a : Assoc) : (setAssoc s m a).wardens = s.wardens := rfl
@[simp] theorem setAssoc_safety (s : State) (m : Nat) (a : Assoc) : (setAssoc s m a).safety = s.safety := rfl
@[simp] theorem setAssoc_startup (s : State) (m : Nat) (a : Assoc) : (setAssoc s m a).startup = s.startup := rfl
@[simp] theorem setAssoc_out (s : State) (m : Nat) (a : Assoc) : (setAssoc s m a).out = s.out := rfl
@[simp] theorem setAssoc_fresh (s : State) (m : Nat) (a : Assoc) : (setAssoc s m a).fresh = s.fresh := rfl

@[simp] theorem setDomain_pending (s : State) (d : Nat) (x : Domain) : (setDomain s d x).pending = s.pending := rfl
@[simp] theorem setDomain_ident (s : State) (d : Nat) (x : Domain) : (setDomain s d x).ident = s.ident := rfl
@[simp] theorem setDomain_flash (s : State) (d : Nat) (x : Domain) : (setDomain s d x).flash = s.flash := rfl
@[simp] theorem setDomain_aon (s : State) (d : Nat) (x : Domain) : (setDomain s d x).aon = s.aon := rfl
@[simp] theorem setDomain_tide (s : State) (d : Nat) (x : Domain) : (setDomain s d x).tide = s.tide := rfl
@[simp] theorem setDomain_time (s : State) (d : Nat) (x : Domain) : (setDomain s d x).time = s.time := rfl
@[simp] theorem setDomain_host (s : State) (d : Nat) (x : Domain) : (setDomain s d x).host = s.host := rfl
@[simp] theorem setDomain_work (s : State) (d : Nat) (x : Domain) : (setDomain s d x).work = s.work := rfl
@[simp] theorem setDomain_codec (s : State) (d : Nat) (x : Domain) : (setDomain s d x).codec = s.codec := rfl
@[simp] theorem setDomain_power (s : State) (d : Nat) (x : Domain) : (setDomain s d x).power = s.power := rfl
@[simp] theorem setDomain_mem (s : State) (d : Nat) (x : Domain) : (setDomain s d x).mem = s.mem := rfl
@[simp] theorem setDomain_links (s : State) (d : Nat) (x : Domain) : (setDomain s d x).links = s.links := rfl
@[simp] theorem setDomain_wardens (s : State) (d : Nat) (x : Domain) : (setDomain s d x).wardens = s.wardens := rfl
@[simp] theorem setDomain_safety (s : State) (d : Nat) (x : Domain) : (setDomain s d x).safety = s.safety := rfl
@[simp] theorem setDomain_startup (s : State) (d : Nat) (x : Domain) : (setDomain s d x).startup = s.startup := rfl
@[simp] theorem setDomain_out (s : State) (d : Nat) (x : Domain) : (setDomain s d x).out = s.out := rfl
@[simp] theorem setDomain_fresh (s : State) (d : Nat) (x : Domain) : (setDomain s d x).fresh = s.fresh := rfl

@[simp] theorem setJudge_pending (s : State) (k : Nat) (j : Judge) : (setJudge s k j).pending = s.pending := rfl
@[simp] theorem setJudge_ident (s : State) (k : Nat) (j : Judge) : (setJudge s k j).ident = s.ident := rfl
@[simp] theorem setJudge_flash (s : State) (k : Nat) (j : Judge) : (setJudge s k j).flash = s.flash := rfl
@[simp] theorem setJudge_aon (s : State) (k : Nat) (j : Judge) : (setJudge s k j).aon = s.aon := rfl
@[simp] theorem setJudge_tide (s : State) (k : Nat) (j : Judge) : (setJudge s k j).tide = s.tide := rfl
@[simp] theorem setJudge_time (s : State) (k : Nat) (j : Judge) : (setJudge s k j).time = s.time := rfl
@[simp] theorem setJudge_host (s : State) (k : Nat) (j : Judge) : (setJudge s k j).host = s.host := rfl
@[simp] theorem setJudge_work (s : State) (k : Nat) (j : Judge) : (setJudge s k j).work = s.work := rfl
@[simp] theorem setJudge_codec (s : State) (k : Nat) (j : Judge) : (setJudge s k j).codec = s.codec := rfl
@[simp] theorem setJudge_power (s : State) (k : Nat) (j : Judge) : (setJudge s k j).power = s.power := rfl
@[simp] theorem setJudge_mem (s : State) (k : Nat) (j : Judge) : (setJudge s k j).mem = s.mem := rfl
@[simp] theorem setJudge_links (s : State) (k : Nat) (j : Judge) : (setJudge s k j).links = s.links := rfl
@[simp] theorem setJudge_wardens (s : State) (k : Nat) (j : Judge) : (setJudge s k j).wardens = s.wardens := rfl
@[simp] theorem setJudge_safety (s : State) (k : Nat) (j : Judge) : (setJudge s k j).safety = s.safety := rfl
@[simp] theorem setJudge_startup (s : State) (k : Nat) (j : Judge) : (setJudge s k j).startup = s.startup := rfl
@[simp] theorem setJudge_out (s : State) (k : Nat) (j : Judge) : (setJudge s k j).out = s.out := rfl
@[simp] theorem setJudge_fresh (s : State) (k : Nat) (j : Judge) : (setJudge s k j).fresh = s.fresh := rfl

@[simp] theorem setSession_pending (s : State) (n : Nat) (c : Session) : (setSession n c s).pending = s.pending := rfl
@[simp] theorem setSession_ident (s : State) (n : Nat) (c : Session) : (setSession n c s).ident = s.ident := rfl
@[simp] theorem setSession_flash (s : State) (n : Nat) (c : Session) : (setSession n c s).flash = s.flash := rfl
@[simp] theorem setSession_aon (s : State) (n : Nat) (c : Session) : (setSession n c s).aon = s.aon := rfl
@[simp] theorem setSession_tide (s : State) (n : Nat) (c : Session) : (setSession n c s).tide = s.tide := rfl
@[simp] theorem setSession_time (s : State) (n : Nat) (c : Session) : (setSession n c s).time = s.time := rfl
@[simp] theorem setSession_host (s : State) (n : Nat) (c : Session) : (setSession n c s).host = s.host := rfl
@[simp] theorem setSession_work (s : State) (n : Nat) (c : Session) : (setSession n c s).work = s.work := rfl
@[simp] theorem setSession_power (s : State) (n : Nat) (c : Session) : (setSession n c s).power = s.power := rfl
@[simp] theorem setSession_mem (s : State) (n : Nat) (c : Session) : (setSession n c s).mem = s.mem := rfl
@[simp] theorem setSession_clocks (s : State) (n : Nat) (c : Session) : (setSession n c s).clocks = s.clocks := rfl
@[simp] theorem setSession_links (s : State) (n : Nat) (c : Session) : (setSession n c s).links = s.links := rfl
@[simp] theorem setSession_wardens (s : State) (n : Nat) (c : Session) : (setSession n c s).wardens = s.wardens := rfl
@[simp] theorem setSession_safety (s : State) (n : Nat) (c : Session) : (setSession n c s).safety = s.safety := rfl
@[simp] theorem setSession_startup (s : State) (n : Nat) (c : Session) : (setSession n c s).startup = s.startup := rfl
@[simp] theorem setSession_out (s : State) (n : Nat) (c : Session) : (setSession n c s).out = s.out := rfl
@[simp] theorem setSession_fresh (s : State) (n : Nat) (c : Session) : (setSession n c s).fresh = s.fresh := rfl

@[simp] theorem setHotspot_pending (s : State) (i : Nat) (h : Hotspot) : (setHotspot s i h).pending = s.pending := rfl
@[simp] theorem setHotspot_ident (s : State) (i : Nat) (h : Hotspot) : (setHotspot s i h).ident = s.ident := rfl
@[simp] theorem setHotspot_flash (s : State) (i : Nat) (h : Hotspot) : (setHotspot s i h).flash = s.flash := rfl
@[simp] theorem setHotspot_aon (s : State) (i : Nat) (h : Hotspot) : (setHotspot s i h).aon = s.aon := rfl
@[simp] theorem setHotspot_tide (s : State) (i : Nat) (h : Hotspot) : (setHotspot s i h).tide = s.tide := rfl
@[simp] theorem setHotspot_time (s : State) (i : Nat) (h : Hotspot) : (setHotspot s i h).time = s.time := rfl
@[simp] theorem setHotspot_host (s : State) (i : Nat) (h : Hotspot) : (setHotspot s i h).host = s.host := rfl
@[simp] theorem setHotspot_work (s : State) (i : Nat) (h : Hotspot) : (setHotspot s i h).work = s.work := rfl
@[simp] theorem setHotspot_codec (s : State) (i : Nat) (h : Hotspot) : (setHotspot s i h).codec = s.codec := rfl
@[simp] theorem setHotspot_mem (s : State) (i : Nat) (h : Hotspot) : (setHotspot s i h).mem = s.mem := rfl
@[simp] theorem setHotspot_clocks (s : State) (i : Nat) (h : Hotspot) : (setHotspot s i h).clocks = s.clocks := rfl
@[simp] theorem setHotspot_links (s : State) (i : Nat) (h : Hotspot) : (setHotspot s i h).links = s.links := rfl
@[simp] theorem setHotspot_wardens (s : State) (i : Nat) (h : Hotspot) : (setHotspot s i h).wardens = s.wardens := rfl
@[simp] theorem setHotspot_safety (s : State) (i : Nat) (h : Hotspot) : (setHotspot s i h).safety = s.safety := rfl
@[simp] theorem setHotspot_startup (s : State) (i : Nat) (h : Hotspot) : (setHotspot s i h).startup = s.startup := rfl
@[simp] theorem setHotspot_out (s : State) (i : Nat) (h : Hotspot) : (setHotspot s i h).out = s.out := rfl
@[simp] theorem setHotspot_fresh (s : State) (i : Nat) (h : Hotspot) : (setHotspot s i h).fresh = s.fresh := rfl

@[simp] theorem setCounter_pending (s : State) (n v : Nat) : (setCounter s n v).pending = s.pending := rfl
@[simp] theorem setCounter_flash (s : State) (n v : Nat) : (setCounter s n v).flash = s.flash := rfl
@[simp] theorem setCounter_aon (s : State) (n v : Nat) : (setCounter s n v).aon = s.aon := rfl
@[simp] theorem setCounter_tide (s : State) (n v : Nat) : (setCounter s n v).tide = s.tide := rfl
@[simp] theorem setCounter_time (s : State) (n v : Nat) : (setCounter s n v).time = s.time := rfl
@[simp] theorem setCounter_host (s : State) (n v : Nat) : (setCounter s n v).host = s.host := rfl
@[simp] theorem setCounter_work (s : State) (n v : Nat) : (setCounter s n v).work = s.work := rfl
@[simp] theorem setCounter_codec (s : State) (n v : Nat) : (setCounter s n v).codec = s.codec := rfl
@[simp] theorem setCounter_power (s : State) (n v : Nat) : (setCounter s n v).power = s.power := rfl
@[simp] theorem setCounter_mem (s : State) (n v : Nat) : (setCounter s n v).mem = s.mem := rfl
@[simp] theorem setCounter_clocks (s : State) (n v : Nat) : (setCounter s n v).clocks = s.clocks := rfl
@[simp] theorem setCounter_links (s : State) (n v : Nat) : (setCounter s n v).links = s.links := rfl
@[simp] theorem setCounter_wardens (s : State) (n v : Nat) : (setCounter s n v).wardens = s.wardens := rfl
@[simp] theorem setCounter_safety (s : State) (n v : Nat) : (setCounter s n v).safety = s.safety := rfl
@[simp] theorem setCounter_startup (s : State) (n v : Nat) : (setCounter s n v).startup = s.startup := rfl
@[simp] theorem setCounter_out (s : State) (n v : Nat) : (setCounter s n v).out = s.out := rfl
@[simp] theorem setCounter_fresh (s : State) (n v : Nat) : (setCounter s n v).fresh = s.fresh := rfl

@[simp] theorem setAux_pending (s : State) (w : Warden) (v : Nat) (p q : Bool) : (setAux w v p q s).pending = s.pending := by cases w <;> rfl
@[simp] theorem setAux_ident (s : State) (w : Warden) (v : Nat) (p q : Bool) : (setAux w v p q s).ident = s.ident := by cases w <;> rfl
@[simp] theorem setAux_flash (s : State) (w : Warden) (v : Nat) (p q : Bool) : (setAux w v p q s).flash = s.flash := by cases w <;> rfl
@[simp] theorem setAux_tide (s : State) (w : Warden) (v : Nat) (p q : Bool) : (setAux w v p q s).tide = s.tide := by cases w <;> rfl
@[simp] theorem setAux_time (s : State) (w : Warden) (v : Nat) (p q : Bool) : (setAux w v p q s).time = s.time := by cases w <;> rfl
@[simp] theorem setAux_host (s : State) (w : Warden) (v : Nat) (p q : Bool) : (setAux w v p q s).host = s.host := by cases w <;> rfl
@[simp] theorem setAux_work (s : State) (w : Warden) (v : Nat) (p q : Bool) : (setAux w v p q s).work = s.work := by cases w <;> rfl
@[simp] theorem setAux_codec (s : State) (w : Warden) (v : Nat) (p q : Bool) : (setAux w v p q s).codec = s.codec := by cases w <;> rfl
@[simp] theorem setAux_power (s : State) (w : Warden) (v : Nat) (p q : Bool) : (setAux w v p q s).power = s.power := by cases w <;> rfl
@[simp] theorem setAux_mem (s : State) (w : Warden) (v : Nat) (p q : Bool) : (setAux w v p q s).mem = s.mem := by cases w <;> rfl
@[simp] theorem setAux_clocks (s : State) (w : Warden) (v : Nat) (p q : Bool) : (setAux w v p q s).clocks = s.clocks := by cases w <;> rfl
@[simp] theorem setAux_links (s : State) (w : Warden) (v : Nat) (p q : Bool) : (setAux w v p q s).links = s.links := by cases w <;> rfl
@[simp] theorem setAux_wardens (s : State) (w : Warden) (v : Nat) (p q : Bool) : (setAux w v p q s).wardens = s.wardens := by cases w <;> rfl
@[simp] theorem setAux_safety (s : State) (w : Warden) (v : Nat) (p q : Bool) : (setAux w v p q s).safety = s.safety := by cases w <;> rfl
@[simp] theorem setAux_startup (s : State) (w : Warden) (v : Nat) (p q : Bool) : (setAux w v p q s).startup = s.startup := by cases w <;> rfl
@[simp] theorem setAux_out (s : State) (w : Warden) (v : Nat) (p q : Bool) : (setAux w v p q s).out = s.out := by cases w <;> rfl
@[simp] theorem setAux_fresh (s : State) (w : Warden) (v : Nat) (p q : Bool) : (setAux w v p q s).fresh = s.fresh := by cases w <;> rfl

/-! ## Readers after their update -/

@[simp] theorem getHub_setHub (s : State) (h : Nat) (x : Hub) : getHub (setHub s h x) h = x := by
  unfold getHub setHub; split <;> rfl
@[simp] theorem setHub_setHub (s : State) (h : Nat) (x y : Hub) : setHub (setHub s h x) h y = setHub s h y := by
  unfold setHub; split <;> rfl
@[simp] theorem getSource_setSource (s : State) (h k : Nat) (x : Source) : getSource (setSource s h k x) h k = x := by
  simp [getSource, setSource]
@[simp] theorem setSource_setSource (s : State) (h k : Nat) (x y : Source) :
    setSource (setSource s h k x) h k y = setSource s h k y := by
  simp [setSource, tset_tset]
@[simp] theorem getFunc_setFunc (s : State) (fn : Fn) (x : Func) : getFunc (setFunc s fn x) fn = x := by
  simp [getFunc, setFunc]
@[simp] theorem getSluice_setSluice (s : State) (fn : Fn) (n : Nat) (x : Sluice) : getSluice (setSluice s fn n x) fn n = x := by
  simp [getSluice, setSluice]
@[simp] theorem setSluice_setSluice (s : State) (fn : Fn) (n : Nat) (x y : Sluice) :
    setSluice (setSluice s fn n x) fn n y = setSluice s fn n y := by
  simp [setSluice, tset_tset]
@[simp] theorem getPolder_setPolder (s : State) (p : Nat) (x : Polder) : getPolder (setPolder s p x) p = some x := by
  simp [getPolder, setPolder]
@[simp] theorem getPolder_modPolder (s : State) (p : Nat) (f : Polder → Polder) :
    getPolder (modPolder s p f) p = (getPolder s p).map f := tget_tmod _ _ _
theorem getPolder_modPolder_other (s : State) (p q : Nat) (f : Polder → Polder) (h : q ≠ p) :
    getPolder (modPolder s p f) q = getPolder s q := tget_tmod_other _ _ _ _ h
@[simp] theorem getTdi_setTdi (s : State) (p v : Nat) : getTdi (setTdi s p v) p = v := by simp [getTdi, setTdi]
@[simp] theorem getWarden_setWarden (s : State) (w : Warden) (x : WardenSt) : getWarden (setWarden s w x) w = x := by
  cases w <;> rfl
@[simp] theorem getTile_setTile (s : State) (k t : Nat) (x : TileTest) : getTile (setTile s k t x) k t = x := by
  simp [getTile, setTile]
@[simp] theorem getArbiter_setArbiter (s : State) (i : Nat) (x : Arbiter) : getArbiter (setArbiter s i x) i = x := by
  simp [getArbiter, setArbiter]
@[simp] theorem getScr_setScr (s : State) (i : Nat) (x : Scratch) : getScr (setScr s i x) i = x := by
  unfold getScr setScr; split <;> rfl
@[simp] theorem getPort_setPort (s : State) (n : Nat) (x : Port) : getPort (setPort s n x) n = x := by
  simp [getPort, setPort]
@[simp] theorem getSession_setSession (s : State) (n : Nat) (c : Session) : getSession (setSession n c s) n = some c := by
  simp [getSession, setSession]
@[simp] theorem getHotspot_setHotspot (s : State) (i : Nat) (h : Hotspot) : getHotspot (setHotspot s i h) i = h := by
  simp [getHotspot, setHotspot]
@[simp] theorem hostThreshold_setSource (s : State) (h k : Nat) (x : Source) (fn : Fn) :
    hostThreshold (setSource s h k x) fn = hostThreshold s fn := by
  have : (setSource s h k x).host.tgtThr = s.host.tgtThr := by unfold setSource setHub; dsimp only; split <;> rfl
  unfold hostThreshold; split <;> simp only [this]
@[simp] theorem hold_setSource (s : State) (h k : Nat) (x : Source) :
    (getHub (setSource s h k x) h).hold = (getHub s h).hold ∧ (getHub (setSource s h k x) h).fwHold = (getHub s h).fwHold := by
  simp [setSource]
@[simp] theorem getFunc_setSource (s : State) (h k : Nat) (x : Source) (fn : Fn) :
    getFunc (setSource s h k x) fn = getFunc s fn := by
  unfold setSource setHub getFunc; dsimp only; split <;> rfl

end Sys2Proof.Laws
end

