-- ==== Sys2Proof/Laws/Arrival.lean ====
section
/-! SUPPORT. Laws/Arrival.lean: what completions and interrupts may change, and how a fetched command arrives. -/

namespace Sys2Proof.Laws
open Sys2Proof Sys2Proof.Machine Sys2Proof.Safety

/-! ## Completions and interrupts change the host side, the outputs and the wake of DORMANT only -/

/-- The three bits that hold a wake from DORMANT. -/
def wakeBits (s : State) : Bool × Bool × Bool := (s.startup.waking, s.startup.wakeLater, s.startup.dormantReq)

/-- Nothing differs but the host side, the wake from DORMANT and the outputs. -/
def HostOnly (s t : State) : Prop := ∃ (h : HostSide) (w : Bool × Bool × Bool) (o : List Out), t = { s with
  host := h, startup := { s.startup with waking := w.1, wakeLater := w.2.1, dormantReq := w.2.2 }, out := o }

theorem HostOnly.refl (s : State) : HostOnly s s := ⟨s.host, wakeBits s, s.out, rfl⟩

theorem HostOnly.trans {a b c : State} (h : HostOnly a b) (g : HostOnly b c) : HostOnly a c := by
  obtain ⟨_, _, _, rfl⟩ := h
  obtain ⟨x, y, z, rfl⟩ := g
  exact ⟨x, y, z, rfl⟩

theorem HostOnly.foldl {α : Type} {f : State → α → State} (h : ∀ s a, HostOnly s (f s a)) (l : List α) (s : State) :
    HostOnly s (l.foldl f s) := by
  induction l generalizing s with
  | nil => exact .refl s
  | cons a l ih => exact (h s a).trans (ih _)

theorem emit_hostOnly (o : Out) (s : State) : HostOnly s (emit o s) := ⟨s.host, wakeBits s, _, rfl⟩
theorem setFunc_hostOnly (s : State) (fn : Fn) (x : Func) : HostOnly s (setFunc s fn x) := ⟨_, wakeBits s, s.out, rfl⟩
theorem setSluice_hostOnly (s : State) (fn : Fn) (n : Nat) (x : Sluice) : HostOnly s (setSluice s fn n x) :=
  ⟨_, wakeBits s, s.out, rfl⟩
theorem setHub_hostOnly (s : State) (h : Nat) (x : Hub) : HostOnly s (setHub s h x) := by
  unfold setHub; split <;> exact ⟨_, wakeBits s, s.out, rfl⟩
theorem setSource_hostOnly (s : State) (h k : Nat) (x : Source) : HostOnly s (setSource s h k x) := setHub_hostOnly _ _ _
theorem wakeEvent_hostOnly (s : State) : HostOnly s (wakeEvent s) := by
  unfold wakeEvent
  split
  · exact ⟨s.host, (true, s.startup.wakeLater, false), s.out, rfl⟩
  · split
    · exact ⟨s.host, (s.startup.waking, true, false), s.out, rfl⟩
    · exact .refl s

theorem deliver_hostOnly (hub src : Nat) (s : State) : HostOnly s (deliver hub src s) := by
  unfold deliver
  split
  · split
    · dsimp only
      split
      · exact (setSource_hostOnly _ _ _ _).trans (emit_hostOnly _ _)
      · exact (setSource_hostOnly _ _ _ _).trans (setFunc_hostOnly _ _ _)
    · exact .refl s
  · exact .refl s

/-- An event of an interrupt source. -/
theorem raise_hostOnly (hub src : Nat) (s : State) : HostOnly s (raise hub src s) := by
  unfold raise
  split
  · exact .refl s
  split
  · dsimp only
    split
    · exact (setHub_hostOnly _ _ _).trans (wakeEvent_hostOnly _)
    · exact setHub_hostOnly _ _ _
  · dsimp only
    split
    · exact (setSource_hostOnly _ _ _ _).trans (deliver_hostOnly _ _ _)
    · split
      · exact (setSource_hostOnly _ _ _ _).trans (emit_hostOnly _ _)
      · exact setSource_hostOnly _ _ _ _

theorem pinLevel_hostOnly (n : Nat) (s : State) : HostOnly s (pinLevel n s) := by
  unfold pinLevel
  split
  · exact raise_hostOnly _ _ _
  · exact .refl s

/-- A completion record. -/
theorem post_hostOnly (fn : Fn) (n : Nat) (c : Completion) (s : State) : HostOnly s (post fn n c s) := by
  unfold post postWith
  split
  · exact ⟨_, wakeBits s, s.out, rfl⟩
  · simp only [Bool.false_eq_true, if_false]
    unfold postNow
    dsimp only
    split
    · exact setSluice_hostOnly _ _ _ _
    · unfold writeRecord
      dsimp only
      split
      · exact ((setSluice_hostOnly _ _ _ _).trans (emit_hostOnly _ _)).trans (raise_hostOnly _ _ _)
      · exact (setSluice_hostOnly _ _ _ _).trans (emit_hostOnly _ _)

/-- A final completion. -/
theorem finish_hostOnly (h : Hdr) (st : Status) (r : Reason) (bs : List Byte) (s : State) :
    HostOnly s (finish h st r bs s) := post_hostOnly _ _ _ _

/-! ## A fetched command -/

/-- What a command applied on arrival does there. -/
def onArrival : Instr → State → State
  | .identify h => fun st => finish h .ok .none (identifyPayload st) st
  | .setTide h a b => arriveSetTide h a b
  | .setTimebase h a b => arriveSetTimebase h a b
  | .getHealth h => arriveGetHealth h
  | .polderQuery h => queryPolder h
  | .getTelemetry h b => arriveGetTelemetry h b
  | .breachLogRead h a b => arriveBreachLogRead h a b
  | .attest h a b => arriveAttest h a b
  | .fwStage h a b l bf im => arriveFwStage (.fwStage h a b l bf im) h a b bf
  | .fwVerify h => arriveFwVerify h
  | .selftestReport h b => arriveSelftestReport h b
  | .tidePreset h a b => arriveTidePreset h a b
  | .linkConfig h a b n => arriveLinkConfig h a b n
  | .linkStatus h p => arriveLinkStatus h p
  | _ => id

/-- Every command of a sluice is fetched in the same way. -/
theorem exec_fetched {c : Instr} {h : Hdr} (s : State) (e : hdrOf c = some h) : exec c s = .next (fetch c h (onArrival c) s) := by
  cases c <;> simp only [hdrOf, Option.some.injEq, reduceCtorEq] at e <;> subst e <;> rfl

/-- A command that passes its arrival is applied there, or queued for its edge. -/
theorem fetch_arrives {c : Instr} {h : Hdr} {f : State → State} {s : State} {i : OpInfo} (hi : opInfo c = some i)
    (a : Arrives c h s) :
    fetch c h f s = if i.arrival then f (applying c h s) else queueTide c h (accept h (taken c h s)) := by
  have g := a.present i hi
  have hp : (i.gated && !(taken c h s).aon.presence) = false := by
    cases hg : i.gated
    · rfl
    · simp [g hg]
  unfold fetch
  rw [hi]
  simp only [a.fetches, a.inOrder, a.unapplied, a.unheld, Bool.not_true, Bool.or_false, if_false, decide_false, Bool.false_eq_true]
  unfold admitFetched
  have hc := a.checked i hi
  have ho := a.ownPolder i hi
  unfold taken at hc ho hp
  rw [hc]
  simp only [ho, hp, Bool.false_eq_true, if_false]
  unfold proceed
  split
  · rename_i harr
    have := a.bounced i hi harr
    unfold taken at this
    rw [this]
    rfl
  · rfl

/-- The arrival itself changes the sluices only. -/
theorem applying_eq (c : Instr) (h : Hdr) (s : State) : ∃ X, applying c h s = { s with host.sluices := X } := by
  unfold applying taken noteBounce markApplied setPrev takeSlot
  dsimp only
  split <;> exact ⟨_, rfl⟩

end Sys2Proof.Laws
end

