-- ==== Sys2Proof/Laws/Host.lean ====
section
/-! SUPPORT. Laws/Host.lean: what completions, session ends, wipes and resets may change; where a queued command applies. -/

namespace Sys2Proof.Laws
open Sys2Proof Sys2Proof.Machine Sys2Proof.Safety

/-! ## Tables and folds -/

theorem fold_other {α : Type} {f : State → α → State} {g : State → β} (h : ∀ s a, g (f s a) = g s) (l : List α) (s : State) :
    g (l.foldl f s) = g s := by
  induction l generalizing s with
  | nil => rfl
  | cons a l ih => exact (ih _).trans (h s a)
theorem tget_tdel {α : Type} (t : Table α) (k : Nat) : tget (tdel t k) k = none := by
  induction t with
  | nil => rfl
  | cons x t ih =>
    unfold tdel at ih ⊢
    by_cases hx : x.1 = k
    · simpa [hx] using ih
    · simp only [ne_eq, hx, not_false_eq_true, decide_true, List.filter_cons_of_pos]
      obtain ⟨j, v⟩ := x
      simp only [tget]
      rw [if_neg hx]
      exact ih
theorem tget_tmod_mem {α : Type} (t : Table α) (k : Nat) (f : α → α) (x : α) (h : tget t k = some x) : tget (tmod t k f) k = some (f x) := by
  rw [tget_tmod]; simp [h]

/-! ## Queued commands at their edge -/

theorem apply_eq {q : Queued} {h : Hdr} {s : State} (a : AppliesAt q h s) : applyQueued q s = applyOp q h (atEdge q h s) := by
  have e := a.header
  have n := a.notReset
  have b := a.bounced
  unfold applyQueued
  split
  · rename_i hc; rw [hc] at e; cases e
  · rename_i hc; rw [hc] at e; cases e
  · rw [e]; simp only [n, b, Bool.false_eq_true, if_false]; rfl
theorem atEdge_eq (q : Queued) (h : Hdr) (s : State) : ∃ X, atEdge q h s = { s with host.sluices := X } := by
  unfold atEdge noteBounce; dsimp only; split <;> exact ⟨_, rfl⟩
theorem fin_work (h : Hdr) (st : Status) (r : Reason) (bs : List Byte) (s : State) :
    (finish h st r bs s).work = s.work ∧ (finish h st r bs s).flash = s.flash ∧ (finish h st r bs s).power = s.power ∧
    (finish h st r bs s).codec = s.codec ∧ (finish h st r bs s).tide = s.tide := by
  obtain ⟨a, b, c, e⟩ := finish_hostOnly h st r bs s; rw [e]; exact ⟨rfl, rfl, rfl, rfl, rfl⟩
theorem finc_power (c : Instr) (st : Status) (r : Reason) (bs : List Byte) (s : State) :
    (finishCmd c st r bs s).power = s.power ∧ (finishCmd c st r bs s).tide = s.tide := by
  unfold finishCmd; split
  · exact ⟨(fin_work _ _ _ _ _).2.2.1, (fin_work _ _ _ _ _).2.2.2.2⟩
  · exact ⟨rfl, rfl⟩

/-! ## Sessions and wipes -/

theorem fnKey_inj {a b : Fn} (h : fnKey a = fnKey b) : a = b := by
  cases a <;> cases b <;> simp [fnKey] at h ⊢ <;> omega
theorem getFunc_setFunc_other {s : State} {a b : Fn} {x : Func} (h : b ≠ a) : getFunc (setFunc s a x) b = getFunc s b := by
  unfold getFunc setFunc
  dsimp only
  rw [tget_tset_other _ _ _ _ (fun e => h (fnKey_inj e))]
theorem sluices_fold (fn : Fn) (l : List Nat) (s : State) : ∃ X, (l.foldl (fun st n =>
      let x := getSluice st fn n
      if x.devMem && x.enable then setSluice st fn n { x with ringFault := true, bounceStopped := true } else st) s) = { s with host.sluices := X } := by
  induction l generalizing s with
  | nil => exact ⟨_, rfl⟩
  | cons a l ih =>
    rw [List.foldl_cons]
    dsimp only
    split
    · obtain ⟨X, e⟩ := ih (setSluice s fn a { getSluice s fn a with ringFault := true, bounceStopped := true })
      exact ⟨X, by rw [e]; rfl⟩
    · exact ih s
theorem end_eq (fn : Fn) (s : State) : ∃ X, endSession fn s =
    if (getFunc s fn).session then { setFunc s fn { getFunc s fn with session := false } with host.sluices := X } else s := by
  unfold endSession
  dsimp only
  cases h : (getFunc s fn).session
  · exact ⟨[], rfl⟩
  · obtain ⟨X, e⟩ := sluices_fold fn (sluicesOf s fn) (setFunc s fn { getFunc s fn with session := false })
    exact ⟨X, by simpa using e⟩
theorem session_end (fn : Fn) (s : State) : (getFunc (endSession fn s) fn).session = false := by
  obtain ⟨X, e⟩ := end_eq fn s
  rw [e]; split
  · show (getFunc (setFunc s fn { getFunc s fn with session := false }) fn).session = false
    simp
  · rename_i hx; simpa using hx
theorem session_other (a fn : Fn) (s : State) (h : (getFunc s fn).session = false) : (getFunc (endSession a s) fn).session = false := by
  by_cases e : fn = a
  · subst e; exact session_end _ _
  · obtain ⟨X, e'⟩ := end_eq a s
    rw [e']; split
    · show (getFunc (setFunc s a { getFunc s a with session := false }) fn).session = false
      rw [getFunc_setFunc_other e]; exact h
    · exact h
theorem sessions_fold (l : List Fn) (s : State) (fn : Fn) (h : (getFunc s fn).session = false ∨ fn ∈ l) :
    (getFunc (l.foldl (fun st f => endSession f st) s) fn).session = false := by
  induction l generalizing s with
  | nil => simpa using h
  | cons a l ih =>
    apply ih
    rcases h with h | h
    · exact .inl (session_other _ _ _ h)
    · rcases List.mem_cons.mp h with rfl | h
      · exact .inl (session_end _ _)
      · exact .inr h
theorem es_rest (l : List Fn) (s : State) : ∃ X Y, l.foldl (fun st f => endSession f st) s = { s with host.funcs := X, host.sluices := Y } := by
  induction l generalizing s with
  | nil => exact ⟨_, _, rfl⟩
  | cons a l ih =>
    obtain ⟨Y, X, e⟩ := ih (endSession a s)
    obtain ⟨Z, e'⟩ := end_eq a s
    rw [List.foldl_cons, e, e']
    split
    · exact ⟨Y, X, rfl⟩
    · exact ⟨Y, X, rfl⟩
theorem wipeScr_cells (io cause : Nat) (s : State) : (wipeScr io cause s).mem.cells = clearRange s.mem.cells (secureBase io) (secureBase io + 524288) := by
  unfold wipeScr setScr; dsimp only; split <;> rfl
theorem read_keep {m : List Host.Cell} {lo hi y : Nat} (h : readByte m y = 0) : readByte (clearRange m lo hi) y = 0 := by
  rw [readByte_clearRange]; split
  · rfl
  · exact h
theorem read_in (m : List Host.Cell) {lo hi y : Nat} (h : lo ≤ y ∧ y < hi) : readByte (clearRange m lo hi) y = 0 := by
  rw [readByte_clearRange, if_pos h]; rfl
theorem in_secure (io a : Nat) (h1 : 7864320 ≤ a) (h2: a < 8388608) : secureBase io ≤ scrBase io + a ∧ scrBase io + a < secureBase io + 524288 := by
  unfold secureBase; omega
theorem mod_func (v : State) (fn : Fn) : getFunc (moduleEvent 1 512 (moduleEvent 0 512 v)) fn = getFunc v fn := rfl
theorem wipe_eq (cause : Nat) (s : State) (hm : mainUp s = true) : wipeSecure cause s = moduleEvent 1 512 (moduleEvent 0 512 (everyFn.foldl (fun st fn => endSession fn st) (wipeScr 1 cause (wipeScr 0 cause (dropPresence s))))) := by
  have hm' : mainUp (dropPresence s) = true := hm
  unfold wipeSecure endSessions; dsimp only; rw [if_pos hm']

/-! ## Completions -/

theorem writeRecord_hostOnly (fn : Fn) (n : Nat) (c : Completion) (s : State) : HostOnly s (writeRecord fn n c s) := by
  unfold writeRecord
  dsimp only
  split
  · exact ((setSluice_hostOnly _ _ _ _).trans (emit_hostOnly _ _)).trans (raise_hostOnly _ _ _)
  · exact (setSluice_hostOnly _ _ _ _).trans (emit_hostOnly _ _)
theorem postNow_hostOnly (fn : Fn) (n : Nat) (c : Completion) (s : State) : HostOnly s (postNow fn n c s) := by
  unfold postNow
  dsimp only
  split
  · exact setSluice_hostOnly _ _ _ _
  · exact writeRecord_hostOnly _ _ _ _
theorem interim_hostOnly (fn : Fn) (n : Nat) (c : Completion) (s : State) : HostOnly s (interimNow fn n c s) := by
  unfold interimNow
  dsimp only
  split
  · exact postNow_hostOnly _ _ _ _
  · exact setSluice_hostOnly _ _ _ _
theorem postI_hostOnly (fn : Fn) (n : Nat) (c : Completion) (s : State) : HostOnly s (postInterim fn n c s) := by
  unfold postInterim postWith
  split
  · exact ⟨_, wakeBits s, s.out, rfl⟩
  · rw [if_pos rfl]
    exact interim_hostOnly _ _ _ _
theorem answer_hostOnly (c : Instr) (st : Status) (f : Bool) (r : Reason) (l d : Bool) (bs : List Byte) (s : State) :
    HostOnly s (answer c st f r l d bs s) := by
  unfold answer
  split
  · dsimp only
    split
    · exact post_hostOnly _ _ _ _
    · exact postI_hostOnly _ _ _ _
  · exact .refl _
theorem finc_hostOnly (c : Instr) (st : Status) (r : Reason) (bs : List Byte) (s : State) : HostOnly s (finishCmd c st r bs s) := by
  unfold finishCmd; split
  · exact finish_hostOnly _ _ _ _ _
  · exact .refl _

/-! ## What a reset keeps of each polder -/

def pcore (x : Polder) := (x.cls, x.sluices, x.bwWeight, x.sramQuota, x.hbmQuota, x.spillQuota, x.keyGen, x.destroying)
def polderKeys (s : State) := s.work.polders.map fun e => (e.1, pcore e.2)
theorem tget_map {α β : Type} (t : Table α) (k : Nat) (g : α → β) : tget (t.map fun e => (e.1, g e.2)) k = (tget t k).map g := by
  induction t with
  | nil => rfl
  | cons x t ih =>
    obtain ⟨j, v⟩ := x
    simp only [tget, List.map_cons]
    split
    · rfl
    · exact ih
theorem keys_mod (s : State) (p : Nat) (f : Polder → Polder) (h : ∀ x, pcore (f x) = pcore x) : polderKeys (modPolder s p f) = polderKeys s := by
  unfold polderKeys modPolder tmod
  simp only [List.map_map]
  congr 1; funext e; simp only [Function.comp]; split
  · simp [h]
  · rfl
theorem keys_host {s t : State} (h : HostOnly s t) : polderKeys t = polderKeys s := by obtain ⟨_, _, _, rfl⟩ := h; rfl
theorem keys_endRun (p r : Nat) (st : Status) (re : Reason) (d : Bool) (s : State) : polderKeys (endRun p r st re d s) = polderKeys s := by
  unfold endRun
  split
  · rw [keys_host (answer_hostOnly _ _ _ _ _ _ _ _), keys_mod]
    · unfold endSchedule; split <;> rfl
    · intro x; rfl
  · rfl
theorem keys_endReq (p : Nat) (s : State) : polderKeys (endRequests p s) = polderKeys s := by
  unfold endRequests
  split
  · rw [fold_other (fun s a => keys_host (finc_hostOnly _ _ _ _ _)), keys_mod]
    intro x; rfl
  · rfl
theorem endCommands_hostOnly (cs : List Instr) (s : State) : HostOnly s (endCommands cs s) :=
  HostOnly.foldl (fun _ _ => finc_hostOnly _ _ _ _ _) _ _
theorem dropOrphans_frame (s : State) : ∃ m l, dropOrphans s = { s with mem := m, work.pfx := l } := by
  have key : ∀ (l : List PfxEntry) (u : State), (∃ m x, u = { s with mem := m, work.pfx := x }) →
      ∃ m x, l.foldl (fun st e => loosen e.tier ⟨e.frame, e.frames⟩ st) u = { s with mem := m, work.pfx := x } := by
    intro l
    induction l with
    | nil => exact fun _ h => h
    | cons e l ih => rintro u ⟨m, x, rfl⟩; exact ih _ ⟨_, x, rfl⟩
  exact key _ _ ⟨s.mem, _, rfl⟩
theorem clearDrop_frame (p : Nat) (s : State) : ∃ m l, clearLines p (dropPrefixes p s) = { s with mem := m, work.pfx := l } := by
  unfold dropPrefixes
  obtain ⟨m, l, e⟩ := dropOrphans_frame { s with work.pfx := s.work.pfx.map fun e =>
    { e with holders := e.holders.filter fun h => h.1 ≠ p, creator := if e.creator = p then 64 else e.creator } }
  rw [e]; exact ⟨_, l, rfl⟩
theorem release_frame (x : Nat → Released) (s : State) : ∃ r n, release x s = { s with work.released := r, work.orderNo := n } := by
  unfold release; split <;> exact ⟨_, _, rfl⟩
theorem releaseGraphs_frame (p : Nat) (x : Polder) (gs : List Graph) (s : State) :
    ∃ r n, releaseGraphs p x gs s = { s with work.released := r, work.orderNo := n } := by
  unfold releaseGraphs
  induction gs generalizing s with
  | nil => exact ⟨_, _, rfl⟩
  | cons g gs ih =>
    obtain ⟨r, n, e⟩ := release_frame (fun n => ⟨n, p, x.cls, some g, (0, 0, 0)⟩) s
    rw [List.foldl_cons, e]
    obtain ⟨r', n', e'⟩ := ih { s with work.released := r, work.orderNo := n }
    exact ⟨r', n', e'⟩
/-- A polder that is not being reset, or that a destruction takes over: what waited of it is gone, it is blank, and its scrub has
begun. -/
theorem reset_state (p : Nat) (d : Bool) (c : Option Instr) (td : Bool) (s : State) (x : Polder) (h : getPolder s p = some x)
    (hr : (x.resetting && (!d || x.destroying)) = false) :
    ∃ u, polderKeys u = polderKeys s ∧ (∀ k ∈ u.tide.queued, ofPolder p k.cmd = false) ∧ (∀ d ∈ u.work.decisions, ofPolder p d.cmd = false) ∧
      (∀ b ∈ u.work.binds, b.polder ≠ p) ∧ (∀ c ∈ u.codec.sessions, c.2.polder ≠ p) ∧
      ∃ sc ns rl no ts es, resetPolder p d c td s = { modPolder u p (blankPolder d) with
          work.scrubs := sc ++ [(⟨ns, p, if d then .destroy else .reset, c, ts, es, u.tide.nowQ⟩ : ScrubJob)],
          work.nextScrub := ns + 1, work.released := rl, work.orderNo := no } ∧
      ∃ y, getPolder u p = some y ∧ pcore y = pcore x := by
  simp only [resetPolder, h, hr, Bool.false_eq_true, if_false]
  generalize hw : waitingOf p s = cs
  have k1 : polderKeys ((runNumbers s p).foldl (fun st r => endRun p r .polderReset .none false st) s) = polderKeys s :=
    fold_other (fun _ _ => keys_endRun _ _ _ _ _ _) _ _
  generalize (runNumbers s p).foldl (fun st r => endRun p r .polderReset .none false st) s = s1 at k1 ⊢
  have k2 := keys_endReq p s1
  generalize endRequests p s1 = s2 at k2 ⊢
  have k3 : polderKeys (forgetWaiting p s2) = polderKeys s := by rw [← k1, ← k2]; rfl
  have q1 : ∀ k ∈ (forgetWaiting p s2).tide.queued, ofPolder p k.cmd = false := fun k hk => by
    simpa using (List.mem_filter.mp hk).2
  have q2 : ∀ k ∈ (forgetWaiting p s2).work.decisions, ofPolder p k.cmd = false := fun k hk => by
    simpa using (List.mem_filter.mp hk).2
  have q3 : ∀ k ∈ (forgetWaiting p s2).work.binds, k.polder ≠ p := fun k hk => by simpa using (List.mem_filter.mp hk).2
  have q4 : ∀ k ∈ (forgetWaiting p s2).codec.sessions, k.2.polder ≠ p := fun k hk => by simpa using (List.mem_filter.mp hk).2
  generalize forgetWaiting p s2 = s3 at k3 q1 q2 q3 q4 ⊢
  obtain ⟨a, b, e, he⟩ := endCommands_hostOnly cs s3
  rw [he]
  obtain ⟨m, l, hd⟩ := clearDrop_frame p { s3 with
    host := a, startup := { s3.startup with waking := b.1, wakeLater := b.2.1, dormantReq := b.2.2 }, out := e }
  rw [hd]
  obtain ⟨r, n, hg⟩ := releaseGraphs_frame p x (x.graphs.map (·.2)) (modPolder { s3 with
    host := a, startup := { s3.startup with waking := b.1, wakeLater := b.2.1, dormantReq := b.2.2 }, out := e,
    mem := m, work.pfx := l } p (blankPolder d))
  rw [hg]
  refine ⟨{ s3 with host := a, startup := { s3.startup with waking := b.1, wakeLater := b.2.1, dormantReq := b.2.2 }, out := e,
                    mem := m, work.pfx := l }, k3, q1, q2, q3, q4, ?_⟩
  have hy : ∃ y, getPolder s3 p = some y ∧ pcore y = pcore x := by
    have e1 := tget_map s3.work.polders p pcore
    have e2 := tget_map s.work.polders p pcore
    unfold polderKeys at k3
    rw [k3, e2] at e1
    have h' : tget s.work.polders p = some x := h
    rw [h'] at e1
    cases hg : tget s3.work.polders p with
    | none => rw [hg] at e1; cases e1
    | some y => rw [hg] at e1; exact ⟨y, hg, (Option.some.inj e1).symm⟩
  cases d
  · exact ⟨_, _, _, _, _, _, rfl, hy⟩
  · simp only [if_true]
    obtain ⟨r2, n2, h2⟩ := release_frame (fun n => ⟨n, p, x.cls, none, (sramCount x, x.hbmQuota, x.spillQuota)⟩)
      { modPolder { s3 with
          host := a, startup := { s3.startup with waking := b.1, wakeLater := b.2.1, dormantReq := b.2.2 }, out := e,
          mem := m, work.pfx := l } p (blankPolder true) with work.released := r, work.orderNo := n }
    rw [h2]
    exact ⟨_, _, _, _, _, _, rfl, hy⟩

/-! ## What a reset and a wipe keep of identity, start-up and work -/

def gk (s : State) := (s.ident, s.startup.unlocking, s.startup.decommissioning)
theorem gk_host {s t : State} (h : HostOnly s t) : gk t = gk s := by obtain ⟨_, _, _, rfl⟩ := h; rfl
theorem gk_finc (c : Instr) (st : Status) (r : Reason) (bs : List Byte) (s : State) : gk (finishCmd c st r bs s) = gk s :=
  gk_host (finc_hostOnly _ _ _ _ _)
theorem gk_answer (c : Instr) (st : Status) (f : Bool) (r : Reason) (l d : Bool) (bs : List Byte) (s : State) :
    gk (answer c st f r l d bs s) = gk s := gk_host (answer_hostOnly _ _ _ _ _ _ _ _)
theorem gk_endRun (p r : Nat) (st : Status) (re : Reason) (d : Bool) (s : State) : gk (endRun p r st re d s) = gk s := by
  unfold endRun
  split
  · rw [gk_answer]; unfold endSchedule; split <;> rfl
  · rfl
theorem gk_endReq (p : Nat) (s : State) : gk (endRequests p s) = gk s := by
  unfold endRequests
  split
  · rw [fold_other (fun s a => gk_finc _ _ _ _ _)]; rfl
  · rfl
theorem gk_cmds (cs : List Instr) (s : State) : gk (endCommands cs s) = gk s := fold_other (fun _ _ => gk_finc _ _ _ _ _) _ _
theorem gk_forget (p : Nat) (s : State) : gk (forgetWaiting p s) = gk s := rfl
theorem gk_reset (p : Nat) (d : Bool) (c : Option Instr) (td : Bool) (s : State) : gk (resetPolder p d c td s) = gk s := by
  unfold resetPolder
  split
  · rfl
  · dsimp only
    have key : ∀ cs, gk (endCommands cs (forgetWaiting p (endRequests p ((runNumbers s p).foldl (fun st r => endRun p r .polderReset .none false st) s)))) = gk s := by
      intro cs
      rw [gk_cmds, gk_forget, gk_endReq]
      exact fold_other (fun _ _ => gk_endRun _ _ _ _ _ _) _ _
    have key2 := key (waitingOf p s)
    generalize endCommands _ _ = u at key2 ⊢
    split
    · rfl
    · rw [← key2]
      obtain ⟨m, l, hd⟩ := clearDrop_frame p u
      rw [hd]
      split
      · obtain ⟨r, n, e⟩ := release_frame (fun n => ⟨n, p, _, none, _⟩) (releaseGraphs p ‹Polder› (‹Polder›.graphs.map (·.2))
          (modPolder { u with mem := m, work.pfx := l } p (blankPolder d)))
        rw [e]
        obtain ⟨r, n, e⟩ := releaseGraphs_frame p ‹Polder› (‹Polder›.graphs.map (·.2))
          (modPolder { u with mem := m, work.pfx := l } p (blankPolder d))
        rw [e]; rfl
      · obtain ⟨r, n, e⟩ := releaseGraphs_frame p ‹Polder› (‹Polder›.graphs.map (·.2))
          (modPolder { u with mem := m, work.pfx := l } p (blankPolder d))
        rw [e]; rfl
theorem gk_destroy (s : State) : gk (destroyAll s) = gk s := fold_other (fun _ _ => gk_reset _ _ _ _ _) _ _
theorem gk_drop (c : Nat) (s : State) : gk (dropAssocs c s) = gk s := by
  unfold dropAssocs checkFollow; dsimp only; split <;> rfl
theorem gk_ports (c : Nat) (s : State) : gk (portsDownAll c s) = gk s := by
  unfold portsDownAll
  exact fold_other (f := fun st n => setPort st n { getPort st n with state := 0, lanes := 0, step := 0, cause := c }) (g := gk) (fun _ _ => rfl) _ _
/-- work too -/
def gw (s : State) := (gk s, s.work)
theorem gw_sessions (l : List Fn) (s : State) : gw (l.foldl (fun st fn => endSession fn st) s) = gw s := by
  obtain ⟨X, Y, e⟩ := es_rest l s
  rw [e]; rfl
theorem gw_event (a b : Nat) (s : State) : gw (moduleEvent a b s) = gw s := rfl
theorem gw_setScr (s : State) (k : Nat) (x : Scratch) : gw (setScr s k x) = gw s := by unfold setScr; split <;> rfl
theorem gw_wipeScr (io c : Nat) (s : State) : gw (wipeScr io c s) = gw s := by
  unfold wipeScr; dsimp only; rw [gw_setScr]; rfl
theorem gw_wipe (c : Nat) (s : State) : gw (wipeSecure c s) = gw s := by
  cases hm : mainUp s
  · unfold wipeSecure
    rw [if_neg (by rw [show mainUp (dropPresence s) = mainUp s from rfl, hm]; decide)]
    rfl
  · rw [wipe_eq c s hm, gw_event, gw_event, gw_sessions, gw_wipeScr, gw_wipeScr]; rfl
theorem gw_tdis (s : State) : gw (tdisError s) = gw s := by
  unfold tdisError
  refine fold_other (f := fun st p => tdiError p st) (g := gw) (fun s a => ?_) _ _
  unfold tdiError; split <;> rfl
theorem gw_change (l : Lifecycle) (s : State) : gw (changeLifecycle l s) = gw { s with ident.lifecycle := l } := by
  unfold changeLifecycle; rw [gw_tdis, gw_wipe]
theorem gk_finish (h : Hdr) (st : Status) (r : Reason) (bs : List Byte) (s : State) : gk (finish h st r bs s) = gk s := gk_host (finish_hostOnly _ _ _ _ _)

end Sys2Proof.Laws
end

