-- ==== Sys2Proof/Laws/Effects.lean ====
section
/-! SUPPORT. Laws/Effects.lean: of the shared operations that the statements speak of, what each changes and what it leaves
alone. -/

namespace Sys2Proof.Laws
open Sys2Proof Sys2Proof.Machine

theorem readByte_writeBytes_in (m : List Host.Cell) (a : Nat) (bs : List Byte) (h : memWf m = true) (k : Nat) (hk : k < bs.length) :
    readByte (writeBytes m a bs) (a + k) = bs.getD k 0 := by
  induction bs generalizing m a k with
  | nil => simp at hk
  | cons b bs ih =>
    rw [writeBytes]
    cases k with
    | zero =>
      rw [readByte_writeBytes_other _ _ _ _ (by omega)]
      simpa using readByte_writeByte_same m a b h
    | succ k =>
      have := ih (writeByte m a b) (a + 1) (memWf_writeByte _ _ _ h) k (by simpa using hk)
      rw [show a + (k + 1) = a + 1 + k by omega, this]; simp

theorem post_tide_flash (fn : Fn) (n : Nat) (c : Completion) (s : State) : (post fn n c s).tide = s.tide ∧ (post fn n c s).flash = s.flash := by
  obtain ⟨_, _, _, e⟩ := post_hostOnly fn n c s
  rw [e]; exact ⟨rfl, rfl⟩

theorem raise_sluices (hub src : Nat) (s : State) : (raise hub src s).host.sluices = s.host.sluices := by
  have h1 : ∀ (u : State) (h : Nat) (x : Hub), (setHub u h x).host.sluices = u.host.sluices := fun u h x => by unfold setHub; split <;> rfl
  have h2 : ∀ (u : State) (h k : Nat) (x : Source), (setSource u h k x).host.sluices = u.host.sluices := fun u h k x => h1 _ _ _
  have h3 : ∀ (u : State), (deliver hub src u).host.sluices = u.host.sluices := by
    intro u; unfold deliver; split
    · split
      · dsimp only; split <;> exact h2 _ _ _ _
      · rfl
    · rfl
  have h4 : ∀ u : State, (wakeEvent u).host = u.host := fun u => by unfold wakeEvent; repeat' split
                                                                    all_goals rfl
  unfold raise
  split
  · rfl
  split
  · dsimp only; split
    · rw [h4]; exact h1 _ _ _
    · exact h1 _ _ _
  · dsimp only; split
    · rw [h3]; exact h2 _ _ _ _
    · split
      · exact h2 _ _ _ _
      · exact h2 _ _ _ _

theorem finish_prevSeq (h : Hdr) (st : Status) (r : Reason) (bs : List Byte) (s : State) :
    (getSluice (finish h st r bs s) h.fn h.sluice).prevSeq = (getSluice s h.fn h.sluice).prevSeq := by
  have key : ∀ (u : State) (x : Sluice), (getSluice (setSluice u h.fn h.sluice x) h.fn h.sluice) = x := by intro u x; simp
  have hw : ∀ c, (getSluice (writeRecord h.fn h.sluice c s) h.fn h.sluice).prevSeq = (getSluice s h.fn h.sluice).prevSeq := by
    intro c
    unfold writeRecord
    dsimp only
    split
    · unfold raiseVector; dsimp only; unfold getSluice; rw [raise_sluices]
      show (getSluice (setSluice s h.fn h.sluice _) h.fn h.sluice).prevSeq = _
      rw [key]
    · show (getSluice (setSluice s h.fn h.sluice _) h.fn h.sluice).prevSeq = _
      rw [key]
  unfold finish post postWith
  split
  · rfl
  · rw [if_neg (by simp)]
    unfold postNow
    dsimp only
    split
    · rw [key]
    · exact hw _

theorem sizeField_or_one (v : Word) : ((v ||| 1).extractLsb' 4 4).toNat = v.toNat / 16 % 16 := by
  rw [BitVec.extractLsb'_toNat]
  simp only [BitVec.toNat_or, Nat.shiftRight_or_distrib]
  show (v.toNat >>> 4 ||| 0) % 16 = _
  simp [Nat.shiftRight_eq_div_pow]

theorem tailField_and (v : Word) : ((v &&& 0x7FFFFFFF).extractLsb' 0 12).toNat = v.toNat % 4096 := by
  rw [BitVec.extractLsb'_toNat, BitVec.toNat_and]
  show (v.toNat &&& (2^31-1)) >>> 0 % 4096 = _
  rw [Nat.and_two_pow_sub_one_eq_mod]; simp only [Nat.shiftRight_zero]; omega

theorem headField_and (v : Word) : ((v &&& 0x7FFFFFFF).extractLsb' 16 12).toNat = v.toNat / 65536 % 4096 := by
  rw [BitVec.extractLsb'_toNat, BitVec.toNat_and]
  show (v.toNat &&& (2^31-1)) >>> 16 % 4096 = _
  rw [Nat.and_two_pow_sub_one_eq_mod, Nat.shiftRight_eq_div_pow]; omega

theorem headField_or (v : Word) : ((v ||| 0x80000000).extractLsb' 16 12).toNat = v.toNat / 65536 % 4096 := by
  rw [BitVec.extractLsb'_toNat, BitVec.toNat_or, Nat.shiftRight_or_distrib]
  rw [← Nat.and_two_pow_sub_one_eq_mod, Nat.and_or_distrib_right]
  have : (((0x80000000 : Word).toNat >>> 16) &&& (2^12-1)) = 0 := by decide
  rw [this, Nat.or_zero, Nat.and_two_pow_sub_one_eq_mod, Nat.shiftRight_eq_div_pow]

theorem wakeEvent_awake {s : State} (hd : s.startup.dormant = false) (he : s.startup.entering = false) : wakeEvent s = s := by
  simp [wakeEvent, hd, he]

theorem hostOnly_parts {s t : State} (h : HostOnly s t) : t.aon = s.aon ∧ t.wardens = s.wardens ∧ t.power = s.power ∧ t.tide = s.tide ∧ t.safety = s.safety ∧ t.work = s.work := by
  obtain ⟨_, _, _, rfl⟩ := h; exact ⟨rfl, rfl, rfl, rfl, rfl, rfl⟩

theorem raisePf0_hostOnly (v : Nat) (s : State) : HostOnly s (raisePf0 v s) := by
  unfold raisePf0; dsimp only; split
  · exact (raise_hostOnly _ _ _).trans (raise_hostOnly _ _ _)
  · exact raise_hostOnly _ _ _

theorem abandonActivation_aon (s : State) : (abandonActivation s).aon = s.aon := by
  unfold abandonActivation; split
  · split
    · rfl
    · exact (hostOnly_parts (finc_hostOnly _ _ _ _ _)).1
  · rfl

theorem declareHold_aon (row : Nat) (s : State) : (declareHold row s).aon = { s.aon with replace := s.aon.replace || 0 / 2 % 2 = 1 } ∧
    (declareHold row s).safety.hold.isSome = true := by
  unfold declareHold
  have e := (hostOnly_parts (raisePf0_hostOnly 16 (recordBreach 6 0 255 255 255 row 0 s))).1
  have e2 : (recordBreach 6 0 255 255 255 row 0 s).aon = { s.aon with replace := s.aon.replace || 0 / 2 % 2 = 1 } := rfl
  rw [e2] at e
  generalize raisePf0 16 (recordBreach 6 0 255 255 255 row 0 s) = u at e ⊢
  refine ⟨e, ?_⟩
  show (match u.safety.hold with | some h => some { h with row := row } | none => some ⟨row, false, false⟩).isSome = true
  split <;> rfl

theorem enterHold_powersDown (row : Nat) (s : State) (h : row = 6 ∨ row = 8) : enterHold row s = powerDown row (dropActivation (declareHold row (abandonActivation s))) := by
  unfold enterHold
  dsimp only
  rw [if_pos (by rcases h with h | h <;> simp [h])]

theorem raise_startup (hub src : Nat) (s : State) (h : s.startup.dormant = false) : (raise hub src s).startup = s.startup := by
  have d : ∀ u : State, (deliver hub src u).startup = u.startup := by
    intro u; unfold deliver
    split
    · split
      · dsimp only
        split <;> (first | (unfold emit setSource setHub; split <;> rfl) | (unfold setFunc setSource setHub; dsimp only; split <;> rfl))
      · rfl
    · rfl
  have ss : ∀ (u : State) (x : Source), (setSource u hub src x).startup = u.startup := by
    intro u x; unfold setSource setHub; split <;> rfl
  unfold raise
  simp only [h, Bool.false_eq_true, if_false]
  split
  · rfl
  split
  · rw [d, ss]
  · split
    · exact ss _ _
    · exact ss _ _

theorem raisePf0_startup (v : Nat) (s : State) (h : s.startup.dormant = false) : (raisePf0 v s).startup = s.startup := by
  unfold raisePf0 raiseVector
  dsimp only
  split
  · rw [raise_startup, raise_startup _ _ _ h]; rw [raise_startup _ _ _ h]; exact h
  · exact raise_startup _ _ _ h

theorem endRun_power (p r : Nat) (st : Status) (re : Reason) (d : Bool) (s : State) : (endRun p r st re d s).power = s.power := by
  unfold endRun
  split
  · rw [(hostOnly_parts (answer_hostOnly _ _ _ _ _ _ _ _)).2.2.1]; unfold endSchedule; split <;> rfl
  · rfl

theorem shedRun_power (p r : Nat) (s : State) : (shedRun p r s).power = s.power := by
  unfold shedRun
  split
  · rw [endRun_power]
    refine fold_other (g := State.power) (fun s a => ?_) _ _
    split
    · exact (hostOnly_parts (answer_hostOnly _ _ _ _ _ _ _ _)).2.2.1
    · rfl
  · rfl

theorem shedClassB_power (s : State) : (shedClassB s).power = s.power := by
  unfold shedClassB
  refine fold_other (g := State.power) (fun s a => ?_) _ _
  split
  · exact fold_other (g := State.power) (fun _ _ => shedRun_power _ _ _) _ _
  · rfl

theorem getJudge_chooseRef (s : State) (k : Nat) : getJudge (chooseRef s) k = getJudge s k := rfl

theorem recordBreach_parts (a b c d e f g : Nat) (s : State) : (recordBreach a b c d e f g s).safety.nextIndex = s.safety.nextIndex + 1 ∧
    (recordBreach a b c d e f g s).work = s.work ∧ (recordBreach a b c d e f g s).safety.tiles = s.safety.tiles ∧
    (recordBreach a b c d e f g s).flash = s.flash ∧ (recordBreach a b c d e f g s).tide = s.tide ∧ (recordBreach a b c d e f g s).mem = s.mem := ⟨rfl, rfl, rfl, rfl, rfl, rfl⟩

theorem head_take_succ {α : Type} (n : Nat) (a : α) (l : List α) : ((a :: l).take (n + 1)).head? = some a := rfl

theorem recordBreach_head (a b c d e f g : Nat) (s : State) : ((recordBreach a b c d e f g s).safety.log.head?.map fun b => (b.kind, b.polder, b.stack, b.tile, b.sub, b.detail)) = some (a, c, d, e, f, g) := by
  have : Config.logLimit = 16383 + 1 := rfl
  show (((_ :: s.safety.log).take Config.logLimit).head?.map _) = _
  rw [this, head_take_succ]; rfl

theorem removeStack_parts (k c : Nat) (s : State) : (removeStack k c s).work.polders = s.work.polders ∧ (removeStack k c s).safety = s.safety ∧
    (removeStack k c s).flash = s.flash := by unfold removeStack; split <;> exact ⟨rfl, rfl, rfl⟩

theorem failInv_isSome (st : Status) (r : Reason) (b : Bool) (i : Invocation) : (failInv st r b i).fail.isSome = true := by
  unfold failInv
  cases h : i.fail with
  | none => rfl
  | some x => obtain ⟨a, c⟩ := x; dsimp only; split <;> simp [h]

theorem setScr_cells {s : State} {io : Nat} {x : Scratch} : (setScr s io x).mem.cells = s.mem.cells := by unfold setScr; split <;> rfl

theorem setScr_setScr {s : State} {io : Nat} {x y : Scratch} : setScr (setScr s io x) io y = setScr s io y := by unfold setScr; split <;> rfl

theorem finish_tdi (h : Hdr) (st : Status) (r : Reason) (bs : List Byte) (s : State) : (finish h st r bs s).startup.tdi = s.startup.tdi := by
  obtain ⟨_, _, _, e⟩ := finish_hostOnly h st r bs s
  rw [e]

theorem find_updated (l : List Request) (k : Nat) (r q : Request) (h : l.find? (fun x => reqKey x = k) = some r) (hq : reqKey q = reqKey r) :
    (l.map fun x => if reqKey x = reqKey r then q else x).find? (fun x => reqKey x = k) = some q := by
  have hk : reqKey r = k := by simpa using List.find?_some h
  induction l with
  | nil => cases h
  | cons x l ih =>
    simp only [List.find?_cons] at h
    simp only [List.map_cons, List.find?_cons]
    by_cases hx : reqKey x = k
    · simp [hx, hk, hq]
    · simp only [hx, decide_false] at h
      simp only [hk, hx, if_false, decide_false]
      rw [hk] at ih
      exact ih h

theorem getReq_setReq {s : State} {p k : Nat} {r q : Request} (h : getReq s p k = some r) (hq : reqKey q = reqKey r) :
    getReq (setReq p q s) p k = some q := by
  unfold getReq at h ⊢
  cases hp : getPolder s p with
  | none => rw [hp] at h; cases h
  | some x =>
    rw [hp] at h
    have e1 := tget_tmod_mem s.work.polders p (fun x => { x with requests := x.requests.map fun y => if reqKey y = reqKey q then q else y }) x hp
    have e2 : getPolder (setReq p q s) p = _ := e1
    rw [e2]
    simp only [Option.bind_some] at h ⊢
    rw [hq]
    exact find_updated x.requests k r q h hq

theorem startSlice_work (st ti : Nat) (s : State) : (startSlice st ti s).work = s.work := by
  unfold startSlice; dsimp only; split <;> [rfl; (split <;> rfl)]

@[simp] theorem setWarden_setWarden (s : State) (w : Warden) (x y : WardenSt) : setWarden (setWarden s w x) w y = setWarden s w y := by cases w <;> rfl

theorem unmute_unmuted {s : State} {w : Warden} {x : WardenSt} (h : x.muted = false) : unmute s w x = x := by
  unfold unmute; simp [h]

theorem marksReturn_running {w : Warden} {s : State} (h3 : (getWarden s w).stopped = false) (h4 : s.safety.hold = none) :
    marksReturn (marksResumed w s) = setWarden s w { getWarden s w with stopped := false, missing := 0 } := by
  unfold marksResumed marksReturn
  simp [h3, h4]

theorem wardenBreach_next (w : Warden) (a b c d e f : Nat) (s : State) (hm : mainUp s = true) :
    (wardenBreach w a b c d e f s).safety.nextIndex = s.safety.nextIndex + 1 ∧ (wardenBreach w a b c d e f s).wardens = s.wardens := by
  unfold wardenBreach; dsimp only; rw [if_pos hm]; exact ⟨rfl, rfl⟩

theorem getWarden_of {s t : State} (h : t.wardens = s.wardens) (w : Warden) : getWarden t w = getWarden s w := by
  cases w <;> simp [getWarden, h]

theorem wardenBreach_hold (w : Warden) (a b c d e f : Nat) (s : State) (hm : mainUp s = true) :
    (wardenBreach w a b c d e f s).safety.hold = s.safety.hold := by
  unfold wardenBreach; dsimp only; rw [if_pos hm]; rfl

theorem wardenBreach_mainUp (w : Warden) (a b c d e f : Nat) (s : State) : mainUp (wardenBreach w a b c d e f s) = mainUp s := by
  unfold wardenBreach; dsimp only; split
  · rfl
  · unfold mainUp; simp

theorem emitRecord_picture (n count a b i x : Nat) (p : List Byte) (q : Picture) (s : State) :
    (emitRecord n count a b i x p q s).2.emitted = q.emitted ∧ (emitRecord n count a b i x p q s).2.slices = q.slices := by
  unfold emitRecord
  split
  · exact ⟨rfl, rfl⟩
  · dsimp only; split <;> exact ⟨rfl, rfl⟩

theorem emitSlices_grows (n count : Nat) : ∀ f (x : State × Picture), x.2.emitted ≤ (emitSlices n count f x).2.emitted ∧
    (emitSlices n count f x).2.slices = x.2.slices
  | 0, x => by simp [emitSlices]
  | f+1, (s, q) => by
    unfold emitSlices
    split
    · have := emitSlices_grows n count f
      generalize he : emitRecord _ _ _ _ _ _ _ _ _ = e
      obtain ⟨s', q'⟩ := e
      have h1 := emitRecord_picture n count 0 (sliceFlags ‹_› q q.emitted) q.emitted 0 ‹Nat × List Byte›.2 q s
      rw [he] at h1
      have h2 := this (s', { q' with emitted := q'.emitted + 1 })
      dsimp only at h1 h2 ⊢
      exact ⟨by omega, h2.2.trans h1.2⟩
    · simp

theorem emitSlices_first (n count f : Nat) (s : State) (q : Picture) (c : Session) (sl : Nat × List Byte) (h : getSession s n = some c)
    (hs : q.slices.find? (·.1 = q.emitted) = some sl) : q.emitted < (emitSlices n count (f+1) (s, q)).2.emitted := by
  unfold emitSlices
  rw [h, hs]
  dsimp only
  generalize he : emitRecord _ _ _ _ _ _ _ _ _ = e
  obtain ⟨s', q'⟩ := e
  have h1 := emitRecord_picture n count 0 (sliceFlags c q q.emitted) q.emitted 0 sl.2 q s
  rw [he] at h1
  have h2 := emitSlices_grows n count f (s', { q' with emitted := q'.emitted + 1 })
  dsimp only at h1 h2 ⊢
  omega

def OnlyStarted (l : List Picture) (s : State) : Prop := ∀ q ∈ s.codec.queue, q.started = true → ∃ r ∈ l, samePicture q r = true

theorem recode_parts (n : Nat) (q : Picture) (s : State) :
    (recode n q s).codec.queue = s.codec.queue.map (fun x => if samePicture x q then { q with started := false, done := false, notBefore := n, again := q.slices ++ q.again, slices := [], rows := [], emitted := 0, outOff := 0 } else x) ∧
    (recode n q s).power = s.power ∧ (recode n q s).tide = s.tide ∧ (recode n q s).safety = s.safety := by
  unfold recode
  dsimp only [putPicture, samePicture]
  split <;> exact ⟨rfl, rfl, rfl, rfl⟩

theorem recode_all (l : List Picture) : ∀ s : State, OnlyStarted l s →
    (∀ q ∈ (l.foldl (fun st q => recode (st.tide.ix + 1) q st) s).codec.queue, q.started = false) ∧
    (l.foldl (fun st q => recode (st.tide.ix + 1) q st) s).codec.queue.map (fun q => (q.session, q.tag)) =
      s.codec.queue.map (fun q => (q.session, q.tag)) ∧
    (l.foldl (fun st q => recode (st.tide.ix + 1) q st) s).power = s.power ∧
    (l.foldl (fun st q => recode (st.tide.ix + 1) q st) s).safety = s.safety := by
  induction l with
  | nil => intro s h; refine ⟨?_, rfl, rfl, rfl⟩; intro q hq; by_contra hn; obtain ⟨r, hr, _⟩ := h q hq (by simpa using hn); simp at hr
  | cons a l ih =>
    intro s h
    obtain ⟨e1, e2, e3, e4⟩ := recode_parts (s.tide.ix + 1) a s
    have := ih (recode (s.tide.ix + 1) a s) (by
      intro q hq hs
      rw [e1] at hq
      simp only [List.mem_map] at hq
      obtain ⟨x, hx, rfl⟩ := hq
      split at hs
      · simp at hs
      · rename_i hn
        rw [if_neg hn]
        obtain ⟨r, hr, h2⟩ := h x hx hs
        rcases List.mem_cons.1 hr with rfl | hr
        · exact absurd h2 hn
        · exact ⟨r, hr, h2⟩)
    simp only [List.foldl_cons]
    refine ⟨this.1, ?_, this.2.2.1.trans e2, this.2.2.2.trans e4⟩
    rw [this.2.1, e1, List.map_map]
    apply List.map_congr_left
    intro x _
    simp only [Function.comp]
    split
    · rename_i h; simp [samePicture] at h; simp [h.1, h.2]
    · rfl

theorem mergeEvent_parts (hub k : Nat) (s : State) : (getHub (mergeEvent hub k s) 0).latched = (getHub s 0).latched ∧
    (getHub (mergeEvent hub k s) 1).latched = (getHub s 1).latched ∧ (mergeEvent hub k s).startup = s.startup ∧
    (mergeEvent hub k s).mem = s.mem ∧ (mergeEvent hub k s).safety = s.safety ∧
    (∀ j, (getSource s 0 j).count ≠ 0 → (getSource (mergeEvent hub k s) 0 j).count ≠ 0) ∧
    (hub = 0 → (getSource (mergeEvent hub k s) 0 k).count ≠ 0) := by
  by_cases h : hub = 0
  · subst h
    refine ⟨rfl, rfl, rfl, rfl, rfl, ?_, ?_⟩
    · intro j hj
      by_cases hk : j = k
      · subst hk; simp [mergeEvent, getSource, setSource, setHub, getHub]
      · rw [show getSource (mergeEvent 0 k s) 0 j = getSource s 0 j by
          simp [mergeEvent, getSource, setSource, setHub, getHub, tget_tset, hk]]
        exact hj
    · intro _; simp [mergeEvent, getSource, setSource, setHub, getHub]
  · refine ⟨?_, ?_, ?_, ?_, ?_, ?_, ?_⟩ <;> simp [mergeEvent, getSource, setSource, setHub, getHub, h]

theorem mergeEvents_parts (hub : Nat) (l : List Nat) : ∀ s : State, 
    let t := l.foldl (fun st k => mergeEvent hub k st) s
    (getHub t 0).latched = (getHub s 0).latched ∧ (getHub t 1).latched = (getHub s 1).latched ∧ t.startup = s.startup ∧ t.mem = s.mem ∧
    t.safety = s.safety ∧ (∀ j, (getSource s 0 j).count ≠ 0 → (getSource t 0 j).count ≠ 0) ∧
    (hub = 0 → ∀ k ∈ l, (getSource t 0 k).count ≠ 0) := by
  induction l with
  | nil => intro s; simp
  | cons a l ih =>
    intro s
    obtain ⟨e1, e2, e3, e4, e5, e6, e7⟩ := mergeEvent_parts hub a s
    obtain ⟨f1, f2, f3, f4, f5, f6, f7⟩ := ih (mergeEvent hub a s)
    refine ⟨f1.trans e1, f2.trans e2, f3.trans e3, f4.trans e4, f5.trans e5, fun j h => f6 j (e6 j h), ?_⟩
    intro h k hk
    rcases List.mem_cons.1 hk with rfl | hk
    · exact f6 _ (e7 h)
    · exact f7 h k hk

theorem mergeLatched_parts (hub : Nat) (s : State) :
    let t := mergeLatched hub s
    (getHub t 0).latched = (if hub = 0 then [] else (getHub s 0).latched) ∧ (getHub t 1).latched = (if hub = 0 then (getHub s 1).latched else []) ∧
    t.startup = s.startup ∧ t.mem = s.mem ∧ t.safety = s.safety ∧ (∀ j, (getSource s 0 j).count ≠ 0 → (getSource t 0 j).count ≠ 0) ∧
    (hub = 0 → ∀ k ∈ (getHub s 0).latched, (getSource t 0 k).count ≠ 0) := by
  obtain ⟨f1, f2, f3, f4, f5, f6, f7⟩ := mergeEvents_parts hub (getHub s hub).latched (setHub s hub { getHub s hub with latched := [] })
  by_cases h : hub = 0
  · subst h
    exact ⟨f1, f2, f3, f4, f5, f6, f7⟩
  · refine ⟨f1.trans ?_, f2.trans ?_, f3.trans ?_, f4.trans ?_, f5.trans ?_, ?_, ?_⟩
    · simp [setHub, getHub, h]
    · simp [setHub, getHub, h]
    · simp
    · simp
    · simp
    · intro j hj; apply f6; simpa [getSource, setHub, getHub, h] using hj
    · intro h'; exact absurd h' h

theorem passTiles_parts (l : List Nat) : ∀ s : State, 
    let t := l.foldl (fun st k => setTile st (k / 32) (k % 32)
      { getTile st (k / 32) (k % 32) with results := (passedTile st.tide.nowQ).results, repeating := [], due := [], slice := none }) s
    t.startup = s.startup ∧ t.mem = s.mem ∧ t.host = s.host ∧ t.tide = s.tide ∧
    ∀ k, (k ∈ l ∨ (getTile s (k/32) (k%32)).results = (passedTile s.tide.nowQ).results) → (getTile t (k / 32) (k % 32)).results = (passedTile s.tide.nowQ).results := by
  induction l with
  | nil => intro s; simp
  | cons a l ih =>
    intro s
    obtain ⟨f1, f2, f3, f4, f5⟩ := ih (setTile s (a / 32) (a % 32)
      { getTile s (a / 32) (a % 32) with results := (passedTile s.tide.nowQ).results, repeating := [], due := [], slice := none })
    refine ⟨f1, f2, f3, f4, ?_⟩
    intro k hk
    apply f5
    by_cases ha : a = k
    · right; subst ha; simp [getTile, setTile]
    · rcases hk with hk | hk
      · rcases List.mem_cons.1 hk with rfl | hk
        · exact absurd rfl ha
        · exact .inl hk
      · right
        rw [show getTile (setTile s (a / 32) (a % 32) _) (k/32) (k%32) = getTile s (k/32) (k%32) by
          have : ¬ (32 * (k / 32) + k % 32 = 32 * (a / 32) + a % 32) := by omega
          simp [getTile, setTile, tget_tset, this]]
        exact hk

def linkFrame (n : Nat) (s : State) := (s.flash, s.ident, s.links.assocs, (getPort s n).enabled, (getPort s n).failed, (getPort s n).cable)

theorem getPort_setPort_if (s : State) (n k : Nat) (x : Port) : getPort (setPort s k x) n = if n = k then x else getPort s n := by
  unfold getPort setPort; rw [tget_tset]; split <;> rfl

theorem setPort_linkFrame (n k : Nat) (s : State) (x : Port) (h : x.enabled = (getPort s k).enabled) (h2 : x.failed = (getPort s k).failed) (h3 : x.cable = (getPort s k).cable) :
    linkFrame n (setPort s k x) = linkFrame n s := by
  unfold linkFrame; rw [getPort_setPort_if]
  split
  · rename_i e; subst e; simp [h, h2, h3, setPort]
  · rfl

theorem failJobs_frame (m : Nat) (s : State) : ∃ w, failJobs m s = { s with work := w } := by
  have key : ∀ (l : List (Nat × Nat × Nat)) (u : State), (∃ w, u = { s with work := w }) →
      ∃ w, l.foldl (fun st j => if j.2.2 = m then breachInUse j.1 (fun r _ => r = j.2.1) st else st) u = { s with work := w } := by
    intro l
    induction l with
    | nil => exact fun _ h => h
    | cons e l ih =>
      rintro u ⟨w, rfl⟩
      rw [List.foldl_cons]
      split
      · exact ih _ ⟨_, rfl⟩
      · exact ih _ ⟨w, rfl⟩
  exact key _ s ⟨_, rfl⟩

theorem failAll_frame (l : List (Nat × Assoc)) (s : State) :
    ∃ w, l.foldl (fun st a => failJobs a.1 st) s = { s with work := w } := by
  induction l generalizing s with
  | nil => exact ⟨_, rfl⟩
  | cons a l ih =>
    obtain ⟨w, e⟩ := failJobs_frame a.1 s
    rw [List.foldl_cons, e]
    obtain ⟨w', e'⟩ := ih { s with work := w }
    exact ⟨w', e'⟩

theorem reroute_linkFrame (n : Nat) (s : State) : linkFrame n (reroute n s) = linkFrame n s := by
  unfold reroute
  dsimp only
  rw [fold_other (g := linkFrame n)]
  · exact setPort_linkFrame _ _ _ _ rfl rfl rfl
  · intro s a; split
    · show linkFrame n (setPort (setPort s _ _) n _) = _
      rw [setPort_linkFrame, setPort_linkFrame] <;> rfl
    · exact setPort_linkFrame _ _ _ _ rfl rfl rfl

theorem checkFollow_timeOnly (s : State) : ∃ x, checkFollow s = { s with time.state := x } := by
  unfold checkFollow; split <;> exact ⟨_, rfl⟩

theorem takePortDown_parts (n c : Nat) (s : State) : linkFrame n (takePortDown n c s) = (s.flash, s.ident, s.links.assocs.map (fun a => (a.1, losePort n a.2)), (getPort s n).enabled, (getPort s n).failed, (getPort s n).cable) ∧
    (getPort (takePortDown n c s) n).state = 0 ∧ (getPort (takePortDown n c s) n).lanes = 0 ∧ (getPort (takePortDown n c s) n).cause = c := by
  unfold takePortDown
  have h := reroute_linkFrame n s
  generalize reroute n s = u at h
  extract_lets cut s1 s2 p
  obtain ⟨w, e⟩ := failAll_frame cut u
  have e2 : s2 = mapAssocs (losePort n) { u with work := w } := by simp only [s2, s1]; rw [e]
  clear_value s2
  subst e2
  obtain ⟨x, hx⟩ := checkFollow_timeOnly (setPort (mapAssocs (losePort n) { u with work := w }) n { p with state := 0, lanes := 0, step := 0, cause := c, peer := 0 })
  rw [hx]
  have hp : ∀ y, getPort { setPort (mapAssocs (losePort n) { u with work := w }) n y with time.state := x } n = y := fun y => getPort_setPort _ _ _
  have hm : p = getPort u n := rfl
  unfold linkFrame at h ⊢
  rw [hp]
  simp only [Prod.mk.injEq] at h ⊢
  obtain ⟨h1, h2, h3, h4, h5, h6⟩ := h
  refine ⟨⟨h1, h2, ?_, h4, h5, h6⟩, trivial, trivial, trivial⟩
  show List.map _ u.links.assocs = _
  rw [h3]

theorem losePort_none (n : Nat) (s t : State) (h : t.links.assocs = s.links.assocs.map (fun a => (a.1, losePort n a.2))) : assocsOver t n = [] := by
  unfold assocsOver; rw [h]
  rw [List.filter_eq_nil_iff]
  intro x hx
  obtain ⟨y, _, rfl⟩ := List.mem_map.1 hx
  simp [losePort]

theorem trainPort_portOnly (n : Nat) (u : State) : ∃ x, trainPort n u = setPort u n x := by
  unfold trainPort; dsimp only; repeat' split
  all_goals exact ⟨_, rfl⟩

theorem freshCounter_new {a : Assoc} {c : Nat} (h1 : 1 ≤ c) (h2 : a.rxHigh < c + 1024) (h3 : c ∉ a.rxSeen) : freshCounter a c = true := by
  simp [freshCounter, h1, h2, h3]

theorem settleRotations_none (s : State) (h : s.links.rotations = []) : settleRotations s = s := by
  unfold settleRotations; rw [h]; split <;> rfl

theorem acceptFrame_accepts {s : State} {a : Assoc} {port src c : Nat} {g : Bool} (h : getAssoc s src = some a) (hl : a.live = true) (h1 : 1 ≤ c) (h2 : a.rxHigh < c + 1024) (h3 : c ∉ a.rxSeen)
    (hg : g = a.rxGen) (hr : s.links.rotations = []) : acceptFrame port src c g true s = (setAssoc s src (noteFrame s a c g), true) := by
  unfold acceptFrame
  rw [h]
  dsimp only
  rw [hl, freshCounter_new h1 h2 h3, if_neg (by simp), if_neg (by simp), if_neg (by simp [keptGen, hg]), settleRotations_none _ (by exact hr)]

theorem tset_filter_map {β : Type} (t : Table Assoc) (k : Nat) (a b : Assoc) (p : Nat × Assoc → Bool) (g : Nat × Assoc → β) (hp : p (k, a) = p (k, b)) (hg : g (k, a) = g (k, b)) :
    ((tset t k a).filter p).map g = ((tset t k b).filter p).map g := by
  induction t with
  | nil => simp only [tset, List.filter_cons, hp]; split <;> simp [hg]
  | cons x r ih =>
    obtain ⟨j, v⟩ := x
    unfold tset
    split
    · simp only [List.filter_cons, hp]; split <;> simp [hg]
    · split
      · simp only [List.filter_cons, hp]; split <;> simp [hg]
      · simp only [List.filter_cons]; split
        · simp only [List.map_cons, ih]
        · exact ih

/-- What of a peer the choice of the keeper reads. -/
def peerView (a : Nat × Assoc) : Nat × Nat × Nat × Nat := (a.1, a.2.timeState, a.2.hops, a.2.keeper)

theorem relayedKeepers_view (s : State) : relayedKeepers s =
    ((((heardPeers s).map peerView).filter fun a => decide (a.2.2.1 < 255) && a.2.2.2 ≠ a.1 && a.2.2.2 ≠ ownIndex s &&
      !((heardPeers s).map peerView).any (·.1 = a.2.2.2)).map fun a => (a.2.2.2, 2)) := by
  unfold relayedKeepers
  rw [List.filter_map, List.map_map]
  simp only [List.any_map]
  rfl

theorem keeperIndex_congr (s : State) (k : Nat) (a b : Assoc) (h1 : a.live = b.live) (h2 : a.lastTide.isSome = b.lastTide.isSome)
    (h3 : peerView (k, a) = peerView (k, b)) : keeperIndex (setAssoc s k a) = keeperIndex (setAssoc s k b) := by
  have e : (heardPeers (setAssoc s k a)).map peerView = (heardPeers (setAssoc s k b)).map peerView :=
    tset_filter_map s.links.assocs k a b (fun a => a.2.live && a.2.lastTide.isSome) peerView (by simp [h1, h2]) h3
  have e2 : relayedKeepers (setAssoc s k a) = relayedKeepers (setAssoc s k b) := by
    rw [relayedKeepers_view, relayedKeepers_view, e]; rfl
  have e3 : ∀ u, ((heardPeers u).map fun a => (a.1, a.2.timeState)) = ((heardPeers u).map peerView).map fun v => (v.1, v.2.1) :=
    fun u => by rw [List.map_map]; rfl
  unfold keeperIndex
  rw [e2, e3, e3, e]
  rfl

theorem followTime_timeOnly (f : ControlFrame) (s : State) : ∃ x y, followTime f s = { s with time := x, clocks := y } ∧ x.keeper = some (keeperIndex s) := by
  unfold followTime chooseRef
  dsimp only
  repeat' split
  all_goals exact ⟨_, _, rfl, rfl⟩

theorem onUnit_reached {s : State} {t : Nat} (h1 : dtransOn s = true) (h2 : s.startup.target = some t) (h3 : targetReach s t = true) (cmd : Nat) (q : Byte) (act : Nat → State → State) :
    onUnit cmd q act s = act t s := by
  unfold onUnit; rw [h2, h1]; simp [h3]

theorem onUnit_denied {s : State} {t : Nat} (h1 : dtransOn s = true) (h2 : s.startup.target = some t) (h3 : targetReach s t = false) (cmd : Nat) (q : Byte) (act : Nat → State → State) :
    onUnit cmd q act s = emit (.dtrans cmd q 2 0 0) s := by
  unfold onUnit; rw [h2, h1]; simp [h3, respond]

theorem onUnit_unselected {s : State} (h1 : dtransOn s = true) (h2 : s.startup.target = none) (cmd : Nat) (q : Byte) (act : Nat → State → State) :
    onUnit cmd q act s = emit (.dtrans cmd q 3 0 0) s := by
  unfold onUnit; rw [h2, h1]; simp [respond]

end Sys2Proof.Laws
end

