-- ==== Sys2Proof/Laws/Keep.lean ====
section
/-! SUPPORT. Laws/Keep.lean: of every operation and every meaning, that it keeps the queue, the fuses and byte memory
(`f_kept`, `execX_keeps`), or, of the few that write them, how (`f_tame`, `execX_tame`). -/


set_option linter.unusedTactic false
set_option linter.unreachableTactic false
set_option linter.unusedSimpArgs false

namespace Sys2Proof.Laws
open Sys2Proof Sys2Proof.Machine

/-- The queue, and what the fuses hold of the life cycle. -/
def fuses (s : State) : List Instr × Lifecycle × Bool × Nat × Nat × Nat :=
  (s.pending, s.ident.lifecycle, s.ident.decommissionFuse, s.ident.serviceEntries, s.ident.debugUnlocks, s.ident.antiRollback)

/-- What few operations change: the queue, the fuses and byte memory. -/
def kept (s : State) := (fuses s, s.mem.cells)

/-- A meaning that answers a next state keeps the queue, the fuses and byte memory. -/
def Keeps (s : State) (o : Host.Outcome State Fault Refusal) : Prop := ∀ t, o = .next t → kept t = kept s

theorem keeps_next {s t : State} (h : kept t = kept s) : Keeps s (.next t) := by
  intro u e; cases e; exact h

@[simp] theorem kept_mk (s : State) (f a ti tm h w c p cl l wa sa st o fr) :
    kept (State.mk s.pending s.ident f a ti tm h w c p s.mem cl l wa sa st o fr) = kept s := rfl

@[simp] theorem kept_mk_mem (s : State) (f a ti tm h w c p cl l wa sa st o fr) (m1 m2 m3 m4 m5 m6 m7 m8 m9 m10 m11) :
    kept (State.mk s.pending s.ident f a ti tm h w c p (Mem.mk s.mem.cells m1 m2 m3 m4 m5 m6 m7 m8 m9 m10 m11) cl l wa sa st o fr) = kept s := rfl

@[simp] theorem kept_mk_ident (s : State) (f a ti tm h w c p cl l wa sa st o fr) (i1 i2 i3 i4 i5 i6 i7 i8 i9 i10 i11 i12) :
    kept (State.mk s.pending (Ident.mk i1 i2 i3 i4 i5 i6 i7 s.ident.lifecycle i8 s.ident.decommissionFuse s.ident.serviceEntries
      s.ident.debugUnlocks s.ident.antiRollback i9 i10 i11 i12) f a ti tm h w c p s.mem cl l wa sa st o fr) = kept s := rfl

@[simp] theorem foldl_kept {α : Type} (f : State → α → State) (l : List α) (s : State) (h : ∀ s a, kept (f s a) = kept s) :
    kept (l.foldl f s) = kept s := by
  induction l generalizing s with
  | nil => rfl
  | cons a l ih => rw [List.foldl_cons, ih, h]

@[simp] theorem kept_ite {c : Prop} [Decidable c] (a b : State) : kept (if c then a else b) = if c then kept a else kept b :=
  apply_ite kept c a b

/-- An optional next state keeps the queue, the fuses and byte memory. -/
def KeepsOpt (s : State) (o : Option State) : Prop := ∀ t, o = some t → kept t = kept s

theorem keepsOpt_none (s : State) : KeepsOpt s none := fun _ h => nomatch h

theorem keepsOpt_some {s t : State} (h : kept t = kept s) : KeepsOpt s (some t) := by
  intro u e; cases e; exact h

theorem KeepsOpt.getD {s u : State} {o : Option State} (h : KeepsOpt s o) (hu : kept u = kept s) : kept (o.getD u) = kept s := by
  cases o with
  | none => exact hu
  | some t => exact h t rfl

theorem kept_fst {α : Type} {x : State × α} {s t : State} {a : α} (e : x = (t, a)) (h : kept x.1 = kept s) :
    kept t = kept s := by
  subst e; exact h

theorem foldl_kept_fst {α β : Type} (f : State × β → α → State × β) (l : List α) (x : State × β)
    (h : ∀ x a, kept (f x a).1 = kept x.1) : kept (l.foldl f x).1 = kept x.1 := by
  induction l generalizing x with
  | nil => rfl
  | cons a l ih => rw [List.foldl_cons, ih, h]

@[simp] theorem kept_fst_ite {α : Type} {c : Prop} [Decidable c] (a b : State × α) :
    kept (if c then a else b).1 = if c then kept a.1 else kept b.1 := by
  split <;> rfl

/-- The queue, fuses and byte memory as one value. -/
abbrev Kept := (List Instr × Lifecycle × Bool × Nat × Nat × Nat) × List Host.Cell

/-- What every operation keeps of them: the queue; the life cycle never returns to BLANK and never leaves DECOMMISSIONED;
fuses and fuse counters never fall back; byte memory stays canonical. -/
def Tame (a b : Kept) : Prop :=
  b.1.1 = a.1.1 ∧ (b.1.2.1 = a.1.2.1 ∨ (b.1.2.1 ≠ .blank ∧ a.1.2.1 ≠ .decommissioned)) ∧
  (a.1.2.2.1 = true → b.1.2.2.1 = true) ∧ a.1.2.2.2.1 ≤ b.1.2.2.2.1 ∧ a.1.2.2.2.2.1 ≤ b.1.2.2.2.2.1 ∧
  a.1.2.2.2.2.2 ≤ b.1.2.2.2.2.2 ∧ (memWf a.2 = true → memWf b.2 = true)

theorem Tame.refl (a : Kept) : Tame a a := ⟨rfl, .inl rfl, id, Nat.le_refl _, Nat.le_refl _, Nat.le_refl _, id⟩

theorem Tame.trans {a b c : Kept} (h : Tame a b) (g : Tame b c) : Tame a c := by
  obtain ⟨h1, h2, h3, h4, h5, h6, h7⟩ := h
  obtain ⟨g1, g2, g3, g4, g5, g6, g7⟩ := g
  refine ⟨g1.trans h1, ?_, g3 ∘ h3, h4.trans g4, h5.trans g5, h6.trans g6, g7 ∘ h7⟩
  rcases h2 with h2 | h2
  · rw [← h2]; exact g2
  · rcases g2 with g2 | g2
    · rw [g2]; exact .inr h2
    · exact .inr ⟨g2.1, h2.2⟩

/-- Only byte memory changes, and it stays canonical. -/
theorem Tame.mem {a : Kept} {s t : State} (h : Tame a (kept s)) (f : fuses t = fuses s)
    (m : memWf s.mem.cells = true → memWf t.mem.cells = true) : Tame a (kept t) := by
  obtain ⟨h1, h2, h3, h4, h5, h6, h7⟩ := h
  simp only [kept] at *
  rw [f]
  exact ⟨h1, h2, h3, h4, h5, h6, m ∘ h7⟩

theorem Tame.foldl {α : Type} {k : Kept} {f : State → α → State} (h : ∀ s a, Tame k (kept s) → Tame k (kept (f s a)))
    {l : List α} {s : State} (hs : Tame k (kept s)) : Tame k (kept (l.foldl f s)) := by
  induction l generalizing s with
  | nil => exact hs
  | cons a l ih => exact ih (h _ _ hs)

/-- A meaning that answers a next state keeps them in that sense. -/
def TameOut (s : State) (o : Host.Outcome State Fault Refusal) : Prop := ∀ t, o = .next t → Tame (kept s) (kept t)

theorem tameOut_next {s t : State} (h : Tame (kept s) (kept t)) : TameOut s (.next t) := by
  intro u e; cases e; exact h

theorem Keeps.tame {s : State} {o : Host.Outcome State Fault Refusal} (h : Keeps s o) : TameOut s o := by
  intro t e; rw [h t e]; exact Tame.refl _


@[simp] theorem moduleEvent_kept (hub : Nat) (k : Nat) (s : State) : kept (moduleEvent hub k s) = kept s := by
  unfold moduleEvent
  simp

@[simp] theorem recordBreach_kept (kind : Nat) (flags : Nat) (polder : Nat) (stack : Nat) (tile : Nat) (sub : Nat) (detail : Nat) (s : State) : kept (recordBreach kind flags polder stack tile sub detail s) = kept s := by
  unfold recordBreach
  simp

@[simp] theorem flushLog_kept (s : State) : kept (flushLog s) = kept s := by
  unfold flushLog
  simp

@[simp] theorem setWarden_kept (s : State) (w : Warden) (x : WardenSt) : kept (setWarden s w x) = kept s := by
  unfold setWarden
  repeat' first | with_reducible rfl | (simp; done) | split

@[simp] theorem wardenBreach_kept (w : Warden) (kind : Nat) (flags : Nat) (polder : Nat) (tile : Nat) (sub : Nat) (detail : Nat) (s : State) : kept (wardenBreach w kind flags polder tile sub detail s) = kept s := by
  unfold wardenBreach
  simp

@[simp] theorem setFunc_kept (s : State) (fn : Fn) (f : Func) : kept (setFunc s fn f) = kept s := by
  unfold setFunc
  simp

@[simp] theorem setSluice_kept (s : State) (fn : Fn) (n : Nat) (x : Sluice) : kept (setSluice s fn n x) = kept s := by
  unfold setSluice
  simp

@[simp] theorem setPolder_kept (s : State) (p : Nat) (x : Polder) : kept (setPolder s p x) = kept s := by
  unfold setPolder
  simp

@[simp] theorem modPolder_kept (s : State) (p : Nat) (f : Polder → Polder) : kept (modPolder s p f) = kept s := by
  unfold modPolder
  simp

@[simp] theorem setHub_kept (s : State) (h : Nat) (x : Hub) : kept (setHub s h x) = kept s := by
  unfold setHub
  simp

@[simp] theorem setTdi_kept (s : State) (p : Nat) (v : Nat) : kept (setTdi s p v) = kept s := by
  unfold setTdi
  simp

@[simp] theorem emit_kept (o : Out) (s : State) : kept (emit o s) = kept s := by
  unfold emit
  simp

@[simp] theorem setSource_kept (s : State) (hub : Nat) (src : Nat) (x : Source) : kept (setSource s hub src x) = kept s := by
  unfold setSource
  simp

@[simp] theorem deliver_kept (hub : Nat) (src : Nat) (s : State) : kept (deliver hub src s) = kept s := by
  unfold deliver
  repeat' first | with_reducible rfl | (simp; done) | split

@[simp] theorem deliverAll_kept (hub : Nat) (s : State) : kept (deliverAll hub s) = kept s := by
  unfold deliverAll
  simp

@[simp] theorem wakeEvent_kept (s : State) : kept (wakeEvent s) = kept s := by
  unfold wakeEvent
  simp

@[simp] theorem raise_kept (hub : Nat) (src : Nat) (s : State) : kept (raise hub src s) = kept s := by
  unfold raise
  repeat' first | with_reducible rfl | (simp; done) | split

@[simp] theorem raiseVector_kept (fn : Fn) (v : Nat) (s : State) : kept (raiseVector fn v s) = kept s := by
  unfold raiseVector
  simp

@[simp] theorem raisePf0_kept (v : Nat) (s : State) : kept (raisePf0 v s) = kept s := by
  unfold raisePf0
  simp

@[simp] theorem pinLevel_kept (n : Nat) (s : State) : kept (pinLevel n s) = kept s := by
  unfold pinLevel
  simp

@[simp] theorem hostWrite_kept (fn : Fn) (addr : Word64) (bytes : List Byte) (s : State) : kept (hostWrite fn addr bytes s) = kept s := by
  unfold hostWrite
  simp

@[simp] theorem flushWrites_kept (fn : Fn) (s : State) : kept (flushWrites fn s) = kept s := by
  unfold flushWrites
  simp

@[simp] theorem writeRecord_kept (fn : Fn) (n : Nat) (c : Completion) (s : State) : kept (writeRecord fn n c s) = kept s := by
  unfold writeRecord
  simp

@[simp] theorem postNow_kept (fn : Fn) (n : Nat) (c : Completion) (s : State) : kept (postNow fn n c s) = kept s := by
  unfold postNow
  simp

@[simp] theorem interimNow_kept (fn : Fn) (n : Nat) (c : Completion) (s : State) : kept (interimNow fn n c s) = kept s := by
  unfold interimNow
  simp

@[simp] theorem postWith_kept (interim : Bool) (fn : Fn) (n : Nat) (c : Completion) (s : State) : kept (postWith interim fn n c s) = kept s := by
  unfold postWith
  simp

@[simp] theorem post_kept (fn : Fn) (n : Nat) (c : Completion) (s : State) : kept (post fn n c s) = kept s := by
  unfold post
  simp

@[simp] theorem postInterim_kept (fn : Fn) (n : Nat) (c : Completion) (s : State) : kept (postInterim fn n c s) = kept s := by
  unfold postInterim
  simp

@[simp] theorem beginGather_kept (s : State) : kept (beginGather s) = kept s := by
  unfold beginGather
  simp

@[simp] theorem endGather_kept (s : State) : kept (endGather s) = kept s := by
  unfold endGather
  simp

@[simp] theorem flushHeld_kept (fn : Fn) (n : Nat) (s : State) : kept (flushHeld fn n s) = kept s := by
  unfold flushHeld
  simp

@[simp] theorem finish_kept (h : Hdr) (st : Status) (r : Reason) (payload : List Byte) (s : State) : kept (finish h st r payload s) = kept s := by
  unfold finish
  simp

@[simp] theorem accept_kept (h : Hdr) (s : State) : kept (accept h s) = kept s := by
  unfold accept
  simp

@[simp] theorem acceptOnce_kept (h : Hdr) (s : State) : kept (acceptOnce h s) = kept s := by
  unfold acceptOnce
  simp

@[simp] theorem flushFn_kept (fn : Fn) (s : State) : kept (flushFn fn s) = kept s := by
  unfold flushFn
  simp

@[simp] theorem finishCmd_kept (c : Instr) (st : Status) (r : Reason) (payload : List Byte) (s : State) : kept (finishCmd c st r payload s) = kept s := by
  unfold finishCmd
  repeat' first | with_reducible rfl | (simp; done) | split

@[simp] theorem powerDown_kept (row : Nat) (s : State) : kept (powerDown row s) = kept s := by
  unfold powerDown
  simp

@[simp] theorem revertActivation_kept (s : State) : kept (revertActivation s) = kept s := by
  unfold revertActivation
  simp

@[simp] theorem startRestart_kept (s : State) : kept (startRestart s) = kept s := by
  unfold startRestart
  simp

@[simp] theorem stayDown_kept (s : State) : kept (stayDown s) = kept s := by
  unfold stayDown
  simp

@[simp] theorem declareHold_kept (row : Nat) (s : State) : kept (declareHold row s) = kept s := by
  unfold declareHold
  simp

@[simp] theorem abandonActivation_kept (s : State) : kept (abandonActivation s) = kept s := by
  unfold abandonActivation
  repeat' first | with_reducible rfl | (simp; done) | split

@[simp] theorem dropActivation_kept (s : State) : kept (dropActivation s) = kept s := by
  unfold dropActivation
  simp

@[simp] theorem enterHold_kept (row : Nat) (s : State) : kept (enterHold row s) = kept s := by
  unfold enterHold
  simp

@[simp] theorem setArbiter_kept (s : State) (i : Nat) (x : Arbiter) : kept (setArbiter s i x) = kept s := by
  unfold setArbiter
  simp

@[simp] theorem setScr_kept (s : State) (i : Nat) (x : Scratch) : kept (setScr s i x) = kept s := by
  unfold setScr
  simp

@[simp] theorem setPort_kept (s : State) (n : Nat) (x : Port) : kept (setPort s n x) = kept s := by
  unfold setPort
  simp

@[simp] theorem capture_kept (s : State) (fn : Fn) (off : Nat) : kept (capture s fn off) = kept s := by
  unfold capture
  repeat' first | with_reducible rfl | (simp; done) | split

@[simp] theorem takeSlot_kept (h : Hdr) (light : Bool) (s : State) : kept (takeSlot h light s) = kept s := by
  unfold takeSlot
  simp

@[simp] theorem setPrev_kept (h : Hdr) (s : State) : kept (setPrev h s) = kept s := by
  unfold setPrev
  simp

@[simp] theorem markApplied_kept (h : Hdr) (s : State) : kept (markApplied h s) = kept s := by
  unfold markApplied
  simp

@[simp] theorem skipSlot_kept (h : Hdr) (s : State) : kept (skipSlot h s) = kept s := by
  unfold skipSlot
  simp

@[simp] theorem queueTide_kept (c : Instr) (h : Hdr) (s : State) : kept (queueTide c h s) = kept s := by
  unfold queueTide
  simp

@[simp] theorem noteBounce_kept (c : Instr) (h : Hdr) (s : State) : kept (noteBounce c h s) = kept s := by
  unfold noteBounce
  simp

@[simp] theorem proceed_kept (c : Instr) (i : OpInfo) (h : Hdr) (accepted : Bool) (onArrival : State → State) (s : State)
    (ha : ∀ s, kept (onArrival s) = kept s) : kept (proceed c i h accepted onArrival s) = kept s := by
  unfold proceed
  repeat' first | with_reducible rfl | (simp [ha]; done) | split

@[simp] theorem holdForPresence_kept (c : Instr) (h : Hdr) (s : State) : kept (holdForPresence c h s) = kept s := by
  unfold holdForPresence
  simp

@[simp] theorem admitFetched_kept (c : Instr) (i : OpInfo) (h : Hdr) (onArrival : State → State) (s : State)
    (ha : ∀ s, kept (onArrival s) = kept s) : kept (admitFetched c i h onArrival s) = kept s := by
  unfold admitFetched
  repeat' first | with_reducible rfl | (simp [ha]; done) | split

@[simp] theorem fetch_kept (c : Instr) (h : Hdr) (onArrival : State → State) (s : State)
    (ha : ∀ s, kept (onArrival s) = kept s) : kept (fetch c h onArrival s) = kept s := by
  unfold fetch
  repeat' first | with_reducible rfl | (simp [ha]; done) | split | dsimp only

theorem fetched_keeps (c : Instr) (h : Hdr) (onArrival : State → State) (s : State)
    (ha : ∀ s, kept (onArrival s) = kept s) : Keeps s (fetched c h onArrival s) := keeps_next (fetch_kept _ _ _ _ ha)

@[simp] theorem commitSluices_kept (s : State) : kept (commitSluices s) = kept s := by
  unfold commitSluices
  simp

@[simp] theorem resumeSluices_kept (lostIx : Nat) (s : State) : kept (resumeSluices lostIx s) = kept s := by
  unfold resumeSluices
  simp

@[simp] theorem writeSlcCfg_kept (fn : Fn) (n : Nat) (v : Word) (s : State) : kept (writeSlcCfg fn n v s) = kept s := by
  unfold writeSlcCfg
  simp

@[simp] theorem ringDoorbell_kept (fn : Fn) (n : Nat) (v : Word) (s : State) : kept (ringDoorbell fn n v s) = kept s := by
  unfold ringDoorbell
  simp

@[simp] theorem writeDoorbell_kept (fn : Fn) (n : Nat) (v : Word) (s : State) : kept (writeDoorbell fn n v s) = kept s := by
  unfold writeDoorbell
  simp

@[simp] theorem releaseDoorbells_kept (s : State) : kept (releaseDoorbells s) = kept s := by
  unfold releaseDoorbells
  simp

@[simp] theorem writeSlcStat_kept (fn : Fn) (n : Nat) (v : Word) (s : State) : kept (writeSlcStat fn n v s) = kept s := by
  unfold writeSlcStat
  simp

theorem execSluiceEnable_keeps (fn : Fn) (n : Nat) (value : Word) (s : State) : Keeps s (execSluiceEnable fn n value s) := by
  unfold execSluiceEnable
  apply keeps_next
  simp

theorem execSluiceDisable_keeps (fn : Fn) (n : Nat) (value : Word) (s : State) : Keeps s (execSluiceDisable fn n value s) := by
  unfold execSluiceDisable
  apply keeps_next
  simp

theorem execDoorbell_keeps (fn : Fn) (n : Nat) (value : Word) (s : State) : Keeps s (execDoorbell fn n value s) := by
  unfold execDoorbell
  apply keeps_next
  simp

theorem execCplOnly_keeps (fn : Fn) (n : Nat) (value : Word) (s : State) : Keeps s (execCplOnly fn n value s) := by
  unfold execCplOnly
  apply keeps_next
  simp

theorem execRingFaultClear_keeps (fn : Fn) (n : Nat) (data : WriteIn) (s : State) : Keeps s (execRingFaultClear fn n data s) := by
  refine keeps_next ?_
  first | (simp; done) | (repeat' first | with_reducible rfl | (simp; done) | with_reducible refine (foldl_kept _ _ _ fun _ _ => ?_).trans ?_ | split)

theorem execRingBusError_keeps (fn : Fn) (n : Nat) (s : State) : Keeps s (execRingBusError fn n s) := by
  unfold execRingBusError
  apply keeps_next
  simp

@[simp] theorem unmaskVector_kept (fn : Fn) (v : Nat) (s : State) : kept (unmaskVector fn v s) = kept s := by
  unfold unmaskVector
  simp

@[simp] theorem writeMsix_kept (fn : Fn) (rel : Nat) (v : Word) (s : State) : kept (writeMsix fn rel v s) = kept s := by
  unfold writeMsix
  simp

@[simp] theorem writeSeal_kept (v : Word) (s : State) : kept (writeSeal v s) = kept s := by
  unfold writeSeal
  simp

@[simp] theorem writeSag_kept (v : Word) (s : State) : kept (writeSag v s) = kept s := by
  unfold writeSag
  simp

@[simp] theorem clearModCounters_kept (v : Word) (s : State) : kept (clearModCounters v s) = kept s := by
  unfold clearModCounters
  simp

@[simp] theorem clearPolderCounters_kept (p : Nat) (v : Word) (s : State) : kept (clearPolderCounters p v s) = kept s := by
  unfold clearPolderCounters
  simp

@[simp] theorem writeArbClr_kept (v : Word) (s : State) : kept (writeArbClr v s) = kept s := by
  unfold writeArbClr
  simp

@[simp] theorem writeScrClr_kept (io : Nat) (v : Word) (s : State) : kept (writeScrClr io v s) = kept s := by
  unfold writeScrClr
  simp

@[simp] theorem writeSleep_kept (v : Word) (s : State) : kept (writeSleep v s) = kept s := by
  unfold writeSleep
  simp

@[simp] theorem writeIhGlobal_kept (hub : Nat) (v : Word) (s : State) : kept (writeIhGlobal hub v s) = kept s := by
  unfold writeIhGlobal
  simp

@[simp] theorem writeThreshold_kept (n : Nat) (v : Word) (s : State) : kept (writeThreshold n v s) = kept s := by
  unfold writeThreshold
  simp

@[simp] theorem writeSrcCfg_kept (v : Word) (s : State) : kept (writeSrcCfg v s) = kept s := by
  unfold writeSrcCfg
  simp

@[simp] theorem writePinFilter_kept (n : Nat) (v : Word) (s : State) : kept (writePinFilter n v s) = kept s := by
  unfold writePinFilter
  simp

@[simp] theorem writeArb_kept (k : Nat) (v : Word) (s : State) : kept (writeArb k v s) = kept s := by
  unfold writeArb
  simp

@[simp] theorem writeSlc_kept (fn : Fn) (n : Nat) (off : Nat) (v : Word) (s : State) : kept (writeSlc fn n off v s) = kept s := by
  unfold writeSlc
  simp

@[simp] theorem writeGlobal_kept (fn : Fn) (off : Nat) (v : Word) (s : State) : kept (writeGlobal fn off v s) = kept s := by
  unfold writeGlobal
  simp

@[simp] theorem writePolder_kept (p : Nat) (off : Nat) (v : Word) (s : State) : kept (writePolder p off v s) = kept s := by
  unfold writePolder
  simp

@[simp] theorem writeRegister_kept (fn : Fn) (off : Nat) (v : Word) (s : State) : kept (writeRegister fn off v s) = kept s := by
  unfold writeRegister
  repeat' first | with_reducible rfl | (simp; done) | split

theorem execTideNowLoRead_keeps (fn : Fn) (read : ReadIn) (s : State) : Keeps s (execTideNowLoRead fn read s) := by
  refine keeps_next ?_
  first | (simp; done) | (repeat' first | with_reducible rfl | (simp; done) | with_reducible refine (foldl_kept _ _ _ fun _ _ => ?_).trans ?_ | split)

theorem execRearm_keeps (data : RearmIn) (s : State) : Keeps s (execRearm data s) := by
  refine keeps_next ?_
  first | (simp; done) | (repeat' first | with_reducible rfl | (simp; done) | with_reducible refine (foldl_kept _ _ _ fun _ _ => ?_).trans ?_ | split)

theorem execModCtrClr_keeps (value : Word) (s : State) : Keeps s (execModCtrClr value s) := by
  unfold execModCtrClr
  apply keeps_next
  simp

theorem execVfCtrClr_keeps (p : Nat) (value : Word) (s : State) : Keeps s (execVfCtrClr p value s) := by
  unfold execVfCtrClr
  apply keeps_next
  simp

theorem execArbClrClear_keeps (value : Word) (s : State) : Keeps s (execArbClrClear value s) := by
  unfold execArbClrClear
  apply keeps_next
  simp

theorem execArbClrClearAll_keeps (value : Word) (s : State) : Keeps s (execArbClrClearAll value s) := by
  unfold execArbClrClearAll
  apply keeps_next
  simp

theorem execScrClr_keeps (io : Nat) (value : Word) (s : State) : Keeps s (execScrClr io value s) := by
  unfold execScrClr
  apply keeps_next
  simp

theorem execDormantRequest_keeps (s : State) : Keeps s (execDormantRequest s) := by
  unfold execDormantRequest
  apply keeps_next
  simp

theorem execDormantWakeWrite_keeps (s : State) : Keeps s (execDormantWakeWrite s) := by
  unfold execDormantWakeWrite
  apply keeps_next
  simp

theorem execHoldSet_keeps (hub : Nat) (s : State) : Keeps s (execHoldSet hub s) := by
  unfold execHoldSet
  apply keeps_next
  simp

theorem execHoldRelease_keeps (hub : Nat) (s : State) : Keeps s (execHoldRelease hub s) := by
  unfold execHoldRelease
  apply keeps_next
  simp

theorem execRegisterWrite_keeps (fn : Fn) (offset : Nat) (size : Nat) (data : WriteIn) (s : State) : Keeps s (execRegisterWrite fn offset size data s) := by
  refine keeps_next ?_
  first | (simp; done) | (repeat' first | with_reducible rfl | (simp; done) | with_reducible refine (foldl_kept _ _ _ fun _ _ => ?_).trans ?_ | split)

theorem execIhTgtThrWrite_keeps (fn : Fn) (offset : Nat) (value : Word) (s : State) : Keeps s (execIhTgtThrWrite fn offset value s) := by
  unfold execIhTgtThrWrite
  apply keeps_next
  simp

theorem execInterruptClaim_keeps (hub : Nat) (core : Nat) (s : State) : Keeps s (execInterruptClaim hub core s) := by
  unfold execInterruptClaim
  apply keeps_next
  repeat' first | with_reducible rfl | (simp; done) | split

theorem execEndOfInterrupt_keeps (hub : Nat) (core : Nat) (s : State) : Keeps s (execEndOfInterrupt hub core s) := by
  unfold execEndOfInterrupt
  apply keeps_next
  repeat' first | with_reducible rfl | (simp; done) | split | dsimp only

theorem execCoalescingTimer_keeps (hub : Nat) (source : Nat) (s : State) : Keeps s (execCoalescingTimer hub source s) := by
  unfold execCoalescingTimer
  apply keeps_next
  repeat' first | with_reducible rfl | (simp; done) | split

theorem execMsixUnmask_keeps (fn : Fn) (vector : Nat) (s : State) : Keeps s (execMsixUnmask fn vector s) := by
  unfold execMsixUnmask
  apply keeps_next
  simp

theorem execBusMasterEnable_keeps (fn : Fn) (s : State) : Keeps s (execBusMasterEnable fn s) := by
  unfold execBusMasterEnable
  apply keeps_next
  simp

theorem execNumVfsEnable_keeps (n : Nat) (s : State) : Keeps s (execNumVfsEnable n s) := by
  unfold execNumVfsEnable
  apply keeps_next
  simp

theorem execPcieConventionalReset_keeps (s : State) : Keeps s (execPcieConventionalReset s) := by
  unfold execPcieConventionalReset
  apply keeps_next
  simp

theorem execPf0FunctionLevelReset_keeps (link : Nat) (s : State) : Keeps s (execPf0FunctionLevelReset link s) := by
  unfold execPf0FunctionLevelReset
  apply keeps_next
  simp

theorem execHostLinkDown_keeps (s : State) : Keeps s (execHostLinkDown s) := by
  unfold execHostLinkDown
  apply keeps_next
  simp

@[simp] theorem pagePins_kept (t : Nat) (f : Nat) (s : State) : kept (pagePins t f s) = kept s := by
  unfold pagePins
  first | (simp; done) | (repeat' first | with_reducible rfl | (simp; done) | with_reducible refine (foldl_kept _ _ _ fun _ _ => ?_).trans ?_ | split)

@[simp] theorem clearFlaws_kept (a : Nat) (n : Nat) (s : State) : kept (clearFlaws a n s) = kept s := by
  unfold clearFlaws
  first | (simp; done) | (repeat' first | with_reducible rfl | (simp; done) | with_reducible refine (foldl_kept _ _ _ fun _ _ => ?_).trans ?_ | split)

theorem extWrite_tame {kk : Kept} {s : State} (t f off : Nat) (bs : List Byte) (hk : Tame kk (kept s)) : Tame kk (kept (extWrite t f off bs s)) := by
  unfold extWrite
  split
  · simpa using hk
  · rw [pagePins_kept, clearFlaws_kept]
    exact hk.mem rfl (memWf_writeBytes _ _ _)

theorem extentWrite_tame {kk : Kept} {s : State} (t : Nat) (es : List Extent) (bs : List Byte) (hk : Tame kk (kept s)) : Tame kk (kept (extentWrite t es bs s)) := by
  unfold extentWrite
  repeat' first | assumption | with_reducible apply extWrite_tame | with_reducible refine Tame.foldl (fun _ _ _ => ?_) ?_ | (simp only [kept_mk, kept_mk_mem, kept_mk_ident]; done) | (simp only [kept_mk, kept_mk_mem, kept_mk_ident]) | split | dsimp only

theorem extCopy_tame {kk : Kept} {s : State} (t : Nat) (f : Nat) (t' : Nat) (f' : Nat) (n : Nat) (hk : Tame kk (kept s)) : Tame kk (kept (extCopy t f t' f' n s)) := by
  unfold extCopy
  repeat' first | assumption | with_reducible apply extWrite_tame | with_reducible refine Tame.foldl (fun _ _ _ => ?_) ?_ | (simp only [kept_mk, kept_mk_mem, kept_mk_ident]; done) | (simp only [kept_mk, kept_mk_mem, kept_mk_ident]) | split | dsimp only

theorem zeroFrames_tame {kk : Kept} {s : State} (t : Nat) (e : Extent) (hk : Tame kk (kept s)) : Tame kk (kept (zeroFrames t e s)) := by
  unfold zeroFrames
  split
  · exact hk
  · rw [emit_kept, clearFlaws_kept]
    exact hk.mem rfl (memWf_clearRange _ _ _)

theorem claim_tame {kk : Kept} {s : State} (p : Nat) (t : Nat) (e : Extent) (hk : Tame kk (kept s)) : Tame kk (kept (claim p t e s)) := by
  unfold claim
  repeat' first | assumption | with_reducible apply zeroFrames_tame | with_reducible refine Tame.foldl (fun _ _ _ => ?_) ?_ | (simp only [kept_mk, kept_mk_mem, kept_mk_ident]; done) | (simp only [kept_mk, kept_mk_mem, kept_mk_ident]) | split | dsimp only

theorem claimAll_tame {kk : Kept} {s : State} (p : Nat) (t : Nat) (es : List Extent) (hk : Tame kk (kept s)) : Tame kk (kept (claimAll p t es s)) := by
  unfold claimAll
  repeat' first | assumption | with_reducible apply claim_tame | with_reducible refine Tame.foldl (fun _ _ _ => ?_) ?_ | (simp only [kept_mk, kept_mk_mem, kept_mk_ident]; done) | (simp only [kept_mk, kept_mk_mem, kept_mk_ident]) | split | dsimp only

@[simp] theorem idle_kept (p : Nat) (t : Nat) (e : Extent) (s : State) : kept (idle p t e s) = kept s := by
  unfold idle
  first | (simp; done) | (repeat' first | with_reducible rfl | (simp; done) | with_reducible refine (foldl_kept _ _ _ fun _ _ => ?_).trans ?_ | split)

@[simp] theorem idleAll_kept (p : Nat) (t : Nat) (es : List Extent) (s : State) : kept (idleAll p t es s) = kept s := by
  unfold idleAll
  first | (simp; done) | (repeat' first | with_reducible rfl | (simp; done) | with_reducible refine (foldl_kept _ _ _ fun _ _ => ?_).trans ?_ | split)

@[simp] theorem vacate_kept (es : List (Nat × Extent)) (s : State) : kept (vacate es s) = kept s :=
  foldl_kept _ _ _ fun _ _ => rfl

@[simp] theorem loosen_kept (t : Nat) (e : Extent) (s : State) : kept (loosen t e s) = kept s := by
  unfold loosen
  first | (simp; done) | (repeat' first | with_reducible rfl | (simp; done) | with_reducible refine (foldl_kept _ _ _ fun _ _ => ?_).trans ?_ | split)

@[simp] theorem regroup_kept (p : Nat) (t : Nat) (g : Nat) (e : Extent) (s : State) : kept (regroup p t g e s) = kept s := by
  unfold regroup
  first | (simp; done) | (repeat' first | with_reducible rfl | (simp; done) | with_reducible refine (foldl_kept _ _ _ fun _ _ => ?_).trans ?_ | split)

theorem takeRun_tame {kk : Kept} {s t : State} {f : Nat} (p c n : Nat) (hk : Tame kk (kept s))
    (e : takeRun p c n s = some (f, t)) : Tame kk (kept t) := by
  unfold takeRun at e
  rw [Option.map_eq_some_iff] at e
  obtain ⟨a, -, ha⟩ := e
  cases ha
  exact claim_tame _ _ _ hk

@[simp] theorem startScrub_kept (p : Nat) (kind : ScrubKind) (cmd : Option Instr) (tdisp : Bool) (es : List (Nat × Extent)) (s : State) : kept (startScrub p kind cmd tdisp es s) = kept s := by
  unfold startScrub
  first | (simp; done) | (repeat' first | with_reducible rfl | (simp; done) | with_reducible refine (foldl_kept _ _ _ fun _ _ => ?_).trans ?_ | split)

theorem scrubbed_tame {kk : Kept} {s : State} (j : ScrubJob) (hk : Tame kk (kept s)) : Tame kk (kept (scrubbed j s)) := by
  unfold scrubbed
  repeat' first | assumption | with_reducible apply zeroFrames_tame | with_reducible refine Tame.foldl (fun _ _ _ => ?_) ?_ | (simp only [kept_mk, kept_mk_mem, kept_mk_ident]; done) | (simp only [kept_mk, kept_mk_mem, kept_mk_ident]) | split | dsimp only

theorem writeBack_tame {kk : Kept} {s : State} (p : Nat) (r : Rotation) (hk : Tame kk (kept s)) : Tame kk (kept (writeBack p r s)) := by
  unfold writeBack
  repeat' first | assumption | with_reducible apply extWrite_tame | with_reducible refine Tame.foldl (fun _ _ _ => ?_) ?_ | (simp only [kept_mk, kept_mk_mem, kept_mk_ident]; done) | (simp only [kept_mk, kept_mk_mem, kept_mk_ident, modPolder_kept]) | split | dsimp only

theorem sweepOn_tame {kk : Kept} {s : State} (p : Nat) (n : Nat) (hk : Tame kk (kept s)) : Tame kk (kept (sweepOn p n s)) := by
  unfold sweepOn
  repeat' first | assumption | with_reducible apply writeBack_tame | with_reducible refine Tame.foldl (fun _ _ _ => ?_) ?_ | (simp only [kept_mk, kept_mk_mem, kept_mk_ident]; done) | (simp only [kept_mk, kept_mk_mem, kept_mk_ident, modPolder_kept]) | split | dsimp only

theorem runSweeps_tame {kk : Kept} {s : State} (es : List (Nat × Nat)) (hk : Tame kk (kept s)) : Tame kk (kept (runSweeps es s)) := by
  unfold runSweeps
  repeat' first | assumption | with_reducible apply sweepOn_tame | with_reducible refine Tame.foldl (fun _ _ _ => ?_) ?_ | (simp only [kept_mk, kept_mk_mem, kept_mk_ident]; done) | (simp only [kept_mk, kept_mk_mem, kept_mk_ident]) | split | dsimp only

@[simp] theorem setGraph_kept (s : State) (p : Nat) (h : Nat) (g : Graph) : kept (setGraph s p h g) = kept s := by
  unfold setGraph
  simp

@[simp] theorem setRun_kept (s : State) (p : Nat) (r : Nat) (y : Run) : kept (setRun s p r y) = kept s := by
  unfold setRun
  simp

@[simp] theorem bumpSeq_kept (key : Nat) (s : State) : kept (bumpSeq key s) = kept s := by
  unfold bumpSeq
  simp

@[simp] theorem answer_kept (c : Instr) (st : Status) (final : Bool) (r : Reason) (late : Bool) (shed : Bool) (payload : List Byte) (s : State) : kept (answer c st final r late shed payload s) = kept s := by
  unfold answer
  repeat' first | with_reducible rfl | (simp; done) | split

@[simp] theorem sendSchedule_kept (p : Nat) (r : Nat) (y : Run) (s : State) : kept (sendSchedule p r y s) = kept s := by
  unfold sendSchedule
  simp

@[simp] theorem endSchedule_kept (p : Nat) (r : Nat) (s : State) : kept (endSchedule p r s) = kept s := by
  unfold endSchedule
  simp

@[simp] theorem endRun_kept (p : Nat) (r : Nat) (st : Status) (reason : Reason) (shed : Bool) (s : State) : kept (endRun p r st reason shed s) = kept s := by
  unfold endRun
  repeat' first | with_reducible rfl | (simp; done) | split

@[simp] theorem completeInv_kept (p : Nat) (r : Nat) (inv : Invocation) (st : Status) (reason : Reason) (bytes : Nat) (s : State) : kept (completeInv p r inv st reason bytes s) = kept s := by
  unfold completeInv
  repeat' first | with_reducible rfl | (simp; done) | split

@[simp] theorem failRuns_kept (p : Nat) (pick : Nat → Run → Bool) (st : Status) (shed : Bool) (s : State) : kept (failRuns p pick st shed s) = kept s := by
  unfold failRuns
  simp

@[simp] theorem breachInUse_kept (p : Nat) (pick : Nat → Run → Bool) (s : State) : kept (breachInUse p pick s) = kept s := by
  unfold breachInUse
  first | (simp; done) | (repeat' first | with_reducible rfl | (simp; done) | with_reducible refine (foldl_kept _ _ _ fun _ _ => ?_).trans ?_ | split)

@[simp] theorem shedRun_kept (p : Nat) (r : Nat) (s : State) : kept (shedRun p r s) = kept s := by
  unfold shedRun
  repeat' first | with_reducible rfl | (simp; done) | split

@[simp] theorem shedClassB_kept (s : State) : kept (shedClassB s) = kept s := by
  unfold shedClassB
  simp

@[simp] theorem suspendQB_kept (s : State) : kept (suspendQB s) = kept s := by
  unfold suspendQB
  simp

@[simp] theorem startRun_kept (c : Instr) (h : Hdr) (handle : Nat) (run : Nat) (period : Nat) (deadline : Nat) (count : Nat) (descs : List Desc) (fault : Bool) (periodic : Bool) (s : State) : kept (startRun c h handle run period deadline count descs fault periodic s) = kept s := by
  unfold startRun
  repeat' first | with_reducible rfl | (simp; done) | split | dsimp only

@[simp] theorem applyRunAtTide_kept (c : Instr) (h : Hdr) (handle : Nat) (run : Nat) (deadline : Nat) (descs : List Desc) (fault : Bool) (s : State) : kept (applyRunAtTide c h handle run deadline descs fault s) = kept s := by
  unfold applyRunAtTide
  simp

@[simp] theorem applyRunPeriodic_kept (c : Instr) (h : Hdr) (handle : Nat) (run : Nat) (period : Nat) (deadline : Nat) (count : Nat) (descs : List Desc) (fault : Bool) (s : State) : kept (applyRunPeriodic c h handle run period deadline count descs fault s) = kept s := by
  unfold applyRunPeriodic
  simp

@[simp] theorem dropCommitting_kept (p : Nat) (r : Nat) (s : State) : kept (dropCommitting p r s) = kept s := by
  unfold dropCommitting
  repeat' first | with_reducible rfl | (simp; done) | split

@[simp] theorem applyRunStop_kept (h : Hdr) (handle : Nat) (run : Nat) (s : State) : kept (applyRunStop h handle run s) = kept s := by
  unfold applyRunStop
  repeat' first | with_reducible rfl | (simp; done) | split | dsimp only

@[simp] theorem skipLaunch_kept (p : Nat) (r : Nat) (k : Nat) (s : State) : kept (skipLaunch p r k s) = kept s := by
  unfold skipLaunch
  repeat' first | with_reducible rfl | (simp; done) | split

@[simp] theorem breachLaunch_kept (p : Nat) (r : Nat) (k : Nat) (s : State) : kept (breachLaunch p r k s) = kept s := by
  unfold breachLaunch
  repeat' first | with_reducible rfl | (simp; done) | split

theorem placeWeights_tame {kk : Kept} {s : State} (q : Plan) (bs : List Byte) (hk : Tame kk (kept s)) : Tame kk (kept (placeWeights q bs s)) := by
  unfold placeWeights
  repeat' first | assumption | with_reducible apply extentWrite_tame | with_reducible refine Tame.foldl (fun _ _ _ => ?_) ?_ | (simp only [kept_mk, kept_mk_mem, kept_mk_ident]; done) | (simp only [kept_mk, kept_mk_mem, kept_mk_ident]) | split | dsimp only

theorem reloadGraph_tame {kk : Kept} {s : State} (p : Nat) (hd : Nat) (g : Graph) (hk : Tame kk (kept s)) : Tame kk (kept (reloadGraph p hd g s)) := by
  unfold reloadGraph
  repeat' first | assumption | with_reducible apply placeWeights_tame | with_reducible refine Tame.foldl (fun _ _ _ => ?_) ?_ | (simp only [kept_mk, kept_mk_mem, kept_mk_ident]; done) | (simp only [kept_mk, kept_mk_mem, kept_mk_ident, setGraph_kept]) | split | dsimp only

theorem launchRun_tame {kk : Kept} {s : State} (p : Nat) (r : Nat) (hk : Tame kk (kept s)) : Tame kk (kept (launchRun p r s)) := by
  unfold launchRun
  repeat' first | assumption | with_reducible apply reloadGraph_tame | with_reducible refine Tame.foldl (fun _ _ _ => ?_) ?_ | (simp only [kept_mk, kept_mk_mem, kept_mk_ident]; done) | (simp only [kept_mk, kept_mk_mem, kept_mk_ident, shedRun_kept, skipLaunch_kept, breachLaunch_kept, endRun_kept, modPolder_kept, setRun_kept]) | split | dsimp only

@[simp] theorem forRuns_kept (f : Nat → Nat → State → State) (s : State) (h : ∀ p r s, kept (f p r s) = kept s) :
    kept (forRuns f s) = kept s :=
  foldl_kept _ _ _ fun _ _ => foldl_kept _ _ _ fun _ _ => h _ _ _

theorem forRuns_tame {kk : Kept} {s : State} {f : Nat → Nat → State → State}
    (h : ∀ p r s, Tame kk (kept s) → Tame kk (kept (f p r s))) (hk : Tame kk (kept s)) : Tame kk (kept (forRuns f s)) :=
  Tame.foldl (fun _ _ h1 => Tame.foldl (fun _ _ h2 => h _ _ _ h2) h1) hk

@[simp] theorem rearmInvs_kept (s : State) : kept (rearmInvs s) = kept s := by
  unfold rearmInvs
  simp

theorem launchRuns_tame {kk : Kept} {s : State} (hk : Tame kk (kept s)) : Tame kk (kept (launchRuns s)) :=
  forRuns_tame (fun _ _ _ h => launchRun_tame _ _ h) (by rw [rearmInvs_kept]; exact hk)

@[simp] theorem rephaseClassS_kept (s : State) : kept (rephaseClassS s) = kept s := by
  unfold rephaseClassS
  repeat' first | with_reducible rfl | (simp; done) | split | (refine (foldl_kept _ _ _ fun _ _ => ?_).trans ?_) | (refine (forRuns_kept _ _ fun _ _ _ => ?_).trans ?_) | (refine (forGraphs_kept _ _ fun _ _ _ => ?_).trans ?_) | dsimp only | rfl

@[simp] theorem writeOutput_kept (p : Nat) (y : Run) (i : Invocation) (s : State) : kept (writeOutput p y i s) = kept s := by
  unfold writeOutput
  split
  · refine foldl_kept _ _ _ fun s o => ?_
    show kept (match portEntry y true o.1 i.no with
      | some e => hostWrite ((hdrOf y.cmd).map (·.fn) |>.getD (.vf p)) e.addr (o.2.take e.len) s
      | none => s) = kept s
    split
    · exact hostWrite_kept _ _ _ _
    · rfl
  · rfl

theorem commitExperts_tame {kk : Kept} {s : State} (p : Nat) (img : Image) (i : Invocation) (hk : Tame kk (kept s)) : Tame kk (kept (commitExperts p img i s)) := by
  unfold commitExperts
  repeat' first | assumption | with_reducible apply placeWeights_tame | with_reducible refine Tame.foldl (fun _ _ _ => ?_) ?_ | (simp only [kept_mk, kept_mk_mem, kept_mk_ident]; done) | (simp only [kept_mk, kept_mk_mem, kept_mk_ident, setGraph_kept]) | split | dsimp only

theorem commitEffects_tame {kk : Kept} {s : State} (p : Nat) (r : Nat) (i : Invocation) (hk : Tame kk (kept s)) : Tame kk (kept (commitEffects p r i s)) := by
  unfold commitEffects
  repeat' first | assumption | with_reducible apply commitExperts_tame | with_reducible refine Tame.foldl (fun _ _ _ => ?_) ?_ | (simp only [kept_mk, kept_mk_mem, kept_mk_ident]; done) | (simp only [kept_mk, kept_mk_mem, kept_mk_ident, setRun_kept, setGraph_kept]) | split | dsimp only

theorem commitResult_tame {kk : Kept} {s : State} (p : Nat) (r : Nat) (i : Invocation) (hk : Tame kk (kept s)) : Tame kk (kept (commitResult p r i s)) := by
  unfold commitResult
  repeat' first | assumption | with_reducible apply commitEffects_tame | with_reducible refine Tame.foldl (fun _ _ _ => ?_) ?_ | (simp only [kept_mk, kept_mk_mem, kept_mk_ident]; done) | (simp only [kept_mk, kept_mk_mem, kept_mk_ident, endRun_kept, completeInv_kept, bumpSeq_kept, writeOutput_kept]) | split | dsimp only

theorem commitInv_tame {kk : Kept} {s : State} (p : Nat) (r : Nat) (i : Invocation) (hk : Tame kk (kept s)) : Tame kk (kept (commitInv p r i s)) := by
  unfold commitInv
  repeat' first | assumption | with_reducible apply commitResult_tame | with_reducible refine Tame.foldl (fun _ _ _ => ?_) ?_ | (simp only [kept_mk, kept_mk_mem, kept_mk_ident]; done) | (simp only [kept_mk, kept_mk_mem, kept_mk_ident, completeInv_kept]) | split | dsimp only

theorem commitRuns_tame {kk : Kept} {s : State} (hk : Tame kk (kept s)) : Tame kk (kept (commitRuns s)) := by
  refine forRuns_tame (fun p r s h => ?_) hk
  split
  · exact h
  · split
    · exact Tame.foldl (fun _ _ h => commitInv_tame _ _ _ h) h
    · exact h

@[simp] theorem dropInProgress_kept (lostIx : Nat) (s : State) : kept (dropInProgress lostIx s) = kept s := by
  unfold dropInProgress
  repeat' first | with_reducible rfl | (simp; done) | split | (refine (foldl_kept _ _ _ fun _ _ => ?_).trans ?_) | (refine (forRuns_kept _ _ fun _ _ _ => ?_).trans ?_) | (refine (forGraphs_kept _ _ fun _ _ _ => ?_).trans ?_) | dsimp only | rfl

theorem execRunAtTide_keeps (h : Hdr) (handle : Nat) (run : Nat) (deadline : Nat) (descCount : Nat) (descs : List Desc) (fault : Bool) (s : State) : Keeps s (execRunAtTide h handle run deadline descCount descs fault s) := by
  unfold execRunAtTide
  apply keeps_next
  simp

theorem execRunPeriodic_keeps (h : Hdr) (handle : Nat) (run : Nat) (period : Nat) (deadline : Nat) (descCount : Nat) (count : Nat) (descs : List Desc) (fault : Bool) (s : State) : Keeps s (execRunPeriodic h handle run period deadline descCount count descs fault s) := by
  unfold execRunPeriodic
  apply keeps_next
  simp

theorem execRunStop_keeps (h : Hdr) (handle : Nat) (run : Nat) (s : State) : Keeps s (execRunStop h handle run s) := by
  unfold execRunStop
  apply keeps_next
  simp

theorem sramWrite_tame {k : Kept} {s : State} (holder a : Nat) (bs : List Byte) (h : Tame k (kept s)) :
    Tame k (kept (sramWrite holder a bs s)) := by
  refine h.mem rfl fun m => memWf_writeBytes _ _ _ ?_
  split
  · exact m
  · exact memWf_clearRange _ _ _ m

@[simp] theorem clearWhere_kept (pick : Nat → Nat → Bool) (s : State) : kept (clearWhere pick s) = kept s := by
  unfold clearWhere
  simp

@[simp] theorem clearLines_kept (p : Nat) (s : State) : kept (clearLines p s) = kept s := by
  unfold clearLines
  simp

@[simp] theorem clearGraph_kept (p : Nat) (h : Nat) (s : State) : kept (clearGraph p h s) = kept s := by
  unfold clearGraph
  simp

@[simp] theorem setCounter_kept (s : State) (n : Nat) (v : Nat) : kept (setCounter s n v) = kept s := by
  unfold setCounter
  simp

@[simp] theorem nextPlaceNo_kept (s : State) : kept (nextPlaceNo s) = kept s := by
  unfold nextPlaceNo
  first | (simp; done) | (repeat' first | with_reducible rfl | (simp; done) | with_reducible refine (foldl_kept _ _ _ fun _ _ => ?_).trans ?_ | split)

@[simp] theorem release_kept (x : Nat → Released) (s : State) : kept (release x s) = kept s := by
  unfold release
  first | (simp; done) | (repeat' first | with_reducible rfl | (simp; done) | with_reducible refine (foldl_kept _ _ _ fun _ _ => ?_).trans ?_ | split)

@[simp] theorem releaseGraphs_kept (p : Nat) (x : Polder) (gs : List Graph) (s : State) : kept (releaseGraphs p x gs s) = kept s := by
  unfold releaseGraphs
  first | (simp; done) | (repeat' first | with_reducible rfl | (simp; done) | with_reducible refine (foldl_kept _ _ _ fun _ _ => ?_).trans ?_ | split)

@[simp] theorem dropReleased_kept (s : State) : kept (dropReleased s) = kept s := by
  unfold dropReleased
  first | (simp; done) | (repeat' first | with_reducible rfl | (simp; done) | with_reducible refine (foldl_kept _ _ _ fun _ _ => ?_).trans ?_ | split)

@[simp] theorem endCommands_kept (cs : List Instr) (s : State) : kept (endCommands cs s) = kept s := by
  unfold endCommands
  simp

@[simp] theorem endRequests_kept (p : Nat) (s : State) : kept (endRequests p s) = kept s := by
  unfold endRequests
  repeat' first | with_reducible rfl | (simp; done) | split

@[simp] theorem dropOrphans_kept (s : State) : kept (dropOrphans s) = kept s := by
  unfold dropOrphans
  first | (simp; done) | (repeat' first | with_reducible rfl | (simp; done) | with_reducible refine (foldl_kept _ _ _ fun _ _ => ?_).trans ?_ | split)

@[simp] theorem dropPrefixes_kept (p : Nat) (s : State) : kept (dropPrefixes p s) = kept s := by
  unfold dropPrefixes
  simp

@[simp] theorem forgetWaiting_kept (p : Nat) (s : State) : kept (forgetWaiting p s) = kept s := by
  unfold forgetWaiting
  simp

@[simp] theorem awaitScrub_kept (p : Nat) (tdisp : Bool) (s : State) : kept (awaitScrub p tdisp s) = kept s := by
  unfold awaitScrub
  first | (simp; done) | (repeat' first | with_reducible rfl | (simp; done) | with_reducible refine (foldl_kept _ _ _ fun _ _ => ?_).trans ?_ | split)

@[simp] theorem resetPolder_kept (p : Nat) (destroy : Bool) (cmd : Option Instr) (tdisp : Bool) (s : State) : kept (resetPolder p destroy cmd tdisp s) = kept s := by
  unfold resetPolder
  repeat' first | with_reducible rfl | (simp; done) | split

@[simp] theorem losePolder_kept (p : Nat) (s : State) : kept (losePolder p s) = kept s := by
  unfold losePolder
  simp

@[simp] theorem applyPolderReset_kept (c : Instr) (h : Hdr) (s : State) : kept (applyPolderReset c h s) = kept s := by
  unfold applyPolderReset
  simp

@[simp] theorem applyPolderDestroy_kept (c : Instr) (h : Hdr) (s : State) : kept (applyPolderDestroy c h s) = kept s := by
  unfold applyPolderDestroy
  repeat' first | with_reducible rfl | (simp; done) | split

@[simp] theorem removePolder_kept (p : Nat) (s : State) : kept (removePolder p s) = kept s := by
  unfold removePolder
  simp

@[simp] theorem endReset_kept (p : Nat) (s : State) : kept (endReset p s) = kept s := by
  unfold endReset
  simp

@[simp] theorem makePolder_kept (h : Hdr) (cls : Nat) (sluices : Nat) (bw : Nat) (sram : Nat) (hbm : Nat) (spill : Nat) (s : State) : kept (makePolder h cls sluices bw sram hbm spill s) = kept s := by
  unfold makePolder
  simp

@[simp] theorem awaitDecision_kept (c : Instr) (s : State) : kept (awaitDecision c s) = kept s := by
  unfold awaitDecision
  simp

@[simp] theorem applyPolderCreate_kept (c : Instr) (h : Hdr) (s : State) : kept (applyPolderCreate c h s) = kept s := by
  unfold applyPolderCreate
  repeat' first | with_reducible rfl | (simp; done) | split

@[simp] theorem queryPolder_kept (h : Hdr) (s : State) : kept (queryPolder h s) = kept s := by
  unfold queryPolder
  repeat' first | with_reducible rfl | (simp; done) | split | dsimp only

@[simp] theorem applySetTokenBudget_kept (h : Hdr) (refill : Nat) (burst : Nat) (s : State) : kept (applySetTokenBudget h refill burst s) = kept s := by
  unfold applySetTokenBudget
  repeat' first | with_reducible rfl | (simp; done) | split

@[simp] theorem refillBudgets_kept (s : State) : kept (refillBudgets s) = kept s := by
  unfold refillBudgets
  simp

@[simp] theorem applyCommonsJoin_kept (h : Hdr) (group : Nat) (s : State) : kept (applyCommonsJoin h group s) = kept s := by
  unfold applyCommonsJoin
  repeat' first | with_reducible rfl | (simp; done) | split

@[simp] theorem startRotation_kept (p : Nat) (c : Instr) (s : State) : kept (startRotation p c s) = kept s := by
  unfold startRotation
  simp

@[simp] theorem applyKeyRotateMemory_kept (c : Instr) (h : Hdr) (s : State) : kept (applyKeyRotateMemory c h s) = kept s := by
  unfold applyKeyRotateMemory
  repeat' first | with_reducible rfl | (simp; done) | split | dsimp only

@[simp] theorem retireRotation_kept (p : Nat) (s : State) : kept (retireRotation p s) = kept s := by
  unfold retireRotation
  repeat' first | with_reducible rfl | (simp; done) | split

@[simp] theorem retireRotations_kept (s : State) : kept (retireRotations s) = kept s := by
  unfold retireRotations
  simp

theorem execPolderCreate_keeps (h : Hdr) (cls : Nat) (sluices : Nat) (bwWeight : Nat) (sramMiB : Nat) (hbmUnits : Nat) (spillGiB : Nat) (s : State) : Keeps s (execPolderCreate h cls sluices bwWeight sramMiB hbmUnits spillGiB s) := by
  unfold execPolderCreate
  apply keeps_next
  simp

theorem execPolderDestroy_keeps (h : Hdr) (s : State) : Keeps s (execPolderDestroy h s) := by
  unfold execPolderDestroy
  apply keeps_next
  simp

theorem execPolderReset_keeps (h : Hdr) (s : State) : Keeps s (execPolderReset h s) := by
  unfold execPolderReset
  apply keeps_next
  simp

theorem execPolderQuery_keeps (h : Hdr) (s : State) : Keeps s (execPolderQuery h s) := by
  unfold execPolderQuery
  apply keeps_next
  simp

theorem execSetTokenBudget_keeps (h : Hdr) (refill : Nat) (burst : Nat) (s : State) : Keeps s (execSetTokenBudget h refill burst s) := by
  unfold execSetTokenBudget
  apply keeps_next
  simp

theorem execCommonsJoin_keeps (h : Hdr) (group : Nat) (s : State) : Keeps s (execCommonsJoin h group s) := by
  unfold execCommonsJoin
  apply keeps_next
  simp

theorem execKeyRotateMemory_keeps (h : Hdr) (s : State) : Keeps s (execKeyRotateMemory h s) := by
  unfold execKeyRotateMemory
  apply keeps_next
  simp

theorem execKeySweepDone_tame (p : Nat) (s : State) : TameOut s (execKeySweepDone p s) := by
  refine tameOut_next ?_
  have hk := Tame.refl (kept s)
  repeat' first | assumption | with_reducible apply sweepOn_tame | with_reducible refine Tame.foldl (fun _ _ _ => ?_) ?_ | (simp only [kept_mk, kept_mk_mem, kept_mk_ident]; done) | (simp only [kept_mk, kept_mk_mem, kept_mk_ident]) | split | dsimp only

theorem execVfFunctionLevelReset_keeps (p : Nat) (s : State) : Keeps s (execVfFunctionLevelReset p s) := by
  unfold execVfFunctionLevelReset
  apply keeps_next
  repeat' first | with_reducible rfl | (simp; done) | split | dsimp only

theorem execScrubPending_keeps (fn : Fn) (sluice : Nat) (seq : Word) (s : State) : Keeps s (execScrubPending fn sluice seq s) := by
  unfold execScrubPending
  apply keeps_next
  repeat' first | with_reducible rfl | (simp; done) | split | dsimp only

@[simp] theorem setOffsets_kept (swellLen : Nat) (pending : Bool) (s : State) : kept (setOffsets swellLen pending s) = kept s := by
  unfold setOffsets
  repeat' first | with_reducible rfl | (simp; done) | split | (refine (foldl_kept _ _ _ fun _ _ => ?_).trans ?_) | (refine (forRuns_kept _ _ fun _ _ _ => ?_).trans ?_) | (refine (forGraphs_kept _ _ fun _ _ _ => ?_).trans ?_) | dsimp only | rfl

@[simp] theorem withGhosts_kept (gs : List Placed) (s : State) : kept (withGhosts gs s) = kept s := by
  unfold withGhosts
  first | (simp; done) | (repeat' first | with_reducible rfl | (simp; done) | with_reducible refine (foldl_kept _ _ _ fun _ _ => ?_).trans ?_ | split)

@[simp] theorem refuseLoad_kept (c : Instr) (p : Nat) (x : Reason × Nat) (s : State) : kept (refuseLoad c p x s) = kept s := by
  unfold refuseLoad
  simp

@[simp] theorem installReplans_kept (rs : List (Nat × Nat × List TileUse)) (s : State) : kept (installReplans rs s) = kept s := by
  unfold installReplans
  repeat' first | with_reducible rfl | (simp; done) | split | (refine (foldl_kept _ _ _ fun _ _ => ?_).trans ?_) | (refine (forRuns_kept _ _ fun _ _ _ => ?_).trans ?_) | (refine (forGraphs_kept _ _ fun _ _ _ => ?_).trans ?_) | dsimp only | rfl

theorem takeFrames_tame {kk : Kept} {s : State} (p : Nat) (img : Image) (q : Plan) (hk : Tame kk (kept s)) : Tame kk (kept (takeFrames p img q s)) := by
  unfold takeFrames
  repeat' first | assumption | with_reducible apply placeWeights_tame | with_reducible apply extentWrite_tame | with_reducible apply claimAll_tame | with_reducible refine Tame.foldl (fun _ _ _ => ?_) ?_ | (simp only [kept_mk, kept_mk_mem, kept_mk_ident]; done) | (simp only [kept_mk, kept_mk_mem, kept_mk_ident]) | split | dsimp only

theorem installGraph_tame {kk : Kept} {s : State} (c : Instr) (p : Nat) (handle : Nat) (t : Nat) (d : Nat) (img : Image) (x : Polder) (plan : Plan) (hk : Tame kk (kept s)) : Tame kk (kept (installGraph c p handle t d img x plan s)) := by
  unfold installGraph
  repeat' first | assumption | with_reducible apply takeFrames_tame | with_reducible refine Tame.foldl (fun _ _ _ => ?_) ?_ | (simp only [kept_mk, kept_mk_mem, kept_mk_ident]; done) | (simp only [kept_mk, kept_mk_mem, kept_mk_ident, setGraph_kept, installReplans_kept, finishCmd_kept]) | split | dsimp only

@[simp] theorem afterScrubs_kept (s : State) : kept (afterScrubs s) = kept s := by
  unfold afterScrubs
  first | (simp; done) | (repeat' first | with_reducible rfl | (simp; done) | with_reducible refine (foldl_kept _ _ _ fun _ _ => ?_).trans ?_ | split)

theorem decideGraph_tame {kk : Kept} {s t : State} (c : Instr) (no : Nat) (h : Hdr) (handle t' d : Nat) (img : Image)
    (plans : List Plan) (hk : Tame kk (kept s)) (e : decideGraph c no h handle t' d img plans s = some t) : Tame kk (kept t) := by
  unfold decideGraph at e
  dsimp only at e
  split at e
  · cases e; rw [finishCmd_kept]; exact hk
  · split at e
    · cases e; rw [finishCmd_kept]; exact hk
    · split at e
      · cases e; exact installGraph_tame _ _ _ _ _ _ _ _ hk
      · cases e
      · cases e; rw [refuseLoad_kept]; exact hk

theorem decideVariant_tame {kk : Kept} {s t : State} (c : Instr) (no : Nat) (h : Hdr) (handle v : Nat) (img : Image)
    (plans : List Plan) (hk : Tame kk (kept s)) (e : decideVariant c no h handle v img plans s = some t) : Tame kk (kept t) := by
  unfold decideVariant at e
  dsimp only at e
  split at e
  · split at e
    · cases e; rw [finishCmd_kept]; exact takeFrames_tame _ _ _ (by rw [setGraph_kept]; exact hk)
    · cases e
    · cases e; rw [refuseLoad_kept]; exact hk
  · cases e; rw [finishCmd_kept]; exact hk

@[simp] theorem applyGraphLoad_kept (c : Instr) (h : Hdr) (handle : Nat) (len : Nat) (img : Image) (s : State) : kept (applyGraphLoad c h handle len img s) = kept s := by
  unfold applyGraphLoad
  repeat' first | with_reducible rfl | (simp; done) | split | dsimp only

@[simp] theorem applyModelVariantAdd_kept (c : Instr) (h : Hdr) (handle : Nat) (v : Nat) (len : Nat) (img : Image) (s : State) : kept (applyModelVariantAdd c h handle v len img s) = kept s := by
  unfold applyModelVariantAdd
  repeat' first | with_reducible rfl | (simp; done) | split | dsimp only

@[simp] theorem applyGraphUnload_kept (c : Instr) (h : Hdr) (handle : Nat) (s : State) : kept (applyGraphUnload c h handle s) = kept s := by
  unfold applyGraphUnload
  repeat' first | with_reducible rfl | (simp; done) | split | dsimp only

@[simp] theorem applyGraphQueryPlacement_kept (h : Hdr) (handle : Nat) (buf : Buf) (s : State) : kept (applyGraphQueryPlacement h handle buf s) = kept s := by
  unfold applyGraphQueryPlacement
  repeat' first | with_reducible rfl | (simp; done) | split | dsimp only

@[simp] theorem applySafetyProfileSet_kept (h : Hdr) (share : Nat) (op : Nat) (s : State) : kept (applySafetyProfileSet h share op s) = kept s := by
  unfold applySafetyProfileSet
  repeat' first | with_reducible rfl | (simp; done) | split

@[simp] theorem applyGoldenSet_kept (h : Hdr) (handle : Nat) (digest : BitVec 128) (s : State) : kept (applyGoldenSet h handle digest s) = kept s := by
  unfold applyGoldenSet
  repeat' first | with_reducible rfl | (simp; done) | split | dsimp only

theorem execGraphLoad_keeps (h : Hdr) (handle : Nat) (t : Nat) (d : Nat) (imageLen : Nat) (img : Image) (s : State) : Keeps s (execGraphLoad h handle t d imageLen img s) := by
  unfold execGraphLoad
  apply keeps_next
  simp

theorem execGraphUnload_keeps (h : Hdr) (handle : Nat) (s : State) : Keeps s (execGraphUnload h handle s) := by
  unfold execGraphUnload
  apply keeps_next
  simp

theorem execGraphQueryPlacement_keeps (h : Hdr) (handle : Nat) (buf : Buf) (s : State) : Keeps s (execGraphQueryPlacement h handle buf s) := by
  unfold execGraphQueryPlacement
  apply keeps_next
  simp

theorem execModelVariantAdd_keeps (h : Hdr) (handle : Nat) (variant : Nat) (imageLen : Nat) (img : Image) (s : State) : Keeps s (execModelVariantAdd h handle variant imageLen img s) := by
  unfold execModelVariantAdd
  apply keeps_next
  simp

theorem execSafetyProfileSet_keeps (h : Hdr) (sShare : Nat) (qAdmit : Nat) (s : State) : Keeps s (execSafetyProfileSet h sShare qAdmit s) := by
  unfold execSafetyProfileSet
  apply keeps_next
  simp

theorem execGoldenSet_keeps (h : Hdr) (handle : Nat) (digest : BitVec 128) (s : State) : Keeps s (execGoldenSet h handle digest s) := by
  unfold execGoldenSet
  apply keeps_next
  simp

@[simp] theorem forwardCmd_kept (c : Instr) (f : Forwarded) (s : State) : kept (forwardCmd c f s) = kept s := by
  unfold forwardCmd
  simp

@[simp] theorem acceptTide_kept (q : Nat) (w : Nat) (cmd : Option Instr) (firm : Bool) (s : State) : kept (acceptTide q w cmd firm s) = kept s := by
  unfold acceptTide
  first | (simp; done) | (repeat' first | with_reducible rfl | (simp; done) | with_reducible refine (foldl_kept _ _ _ fun _ _ => ?_).trans ?_ | split)

@[simp] theorem withdrawTide_kept (s : State) : kept (withdrawTide s) = kept s := by
  unfold withdrawTide
  first | (simp; done) | (repeat' first | with_reducible rfl | (simp; done) | with_reducible refine (foldl_kept _ _ _ fun _ _ => ?_).trans ?_ | split)

@[simp] theorem arriveSetTide_kept (h : Hdr) (q : Nat) (w : Nat) (s : State) : kept (arriveSetTide h q w s) = kept s := by
  unfold arriveSetTide
  repeat' first | with_reducible rfl | (simp; done) | split

theorem decideRelabel_keepsOpt (count : Nat) (cmd : Option Instr) (firm : Bool) (s : State) :
    KeepsOpt s (decideRelabel count cmd firm s) := by
  unfold decideRelabel
  dsimp only
  split
  · exact keepsOpt_none _
  · exact keepsOpt_some rfl

@[simp] theorem arriveTidePreset_kept (h : Hdr) (epoch tn : Nat) (s : State) : kept (arriveTidePreset h epoch tn s) = kept s := by
  unfold arriveTidePreset
  dsimp only
  split
  · split
    · rename_i hd
      rw [acceptOnce_kept]
      exact decideRelabel_keepsOpt _ _ _ _ _ hd
    · simp
  · split
    · rename_i hd
      rw [acceptOnce_kept, forwardCmd_kept]
      exact decideRelabel_keepsOpt _ _ _ _ _ hd
    · simp

@[simp] theorem settleForward_kept (f : ForwardWait) (s : State) : kept (settleForward f s) = kept s := by
  unfold settleForward
  repeat' first | with_reducible rfl | (simp; done) | split

@[simp] theorem memberStatus_kept (member : Nat) (seq : Word) (status : Nat) (reason : Nat) (s : State) : kept (memberStatus member seq status reason s) = kept s := by
  unfold memberStatus
  repeat' first | with_reducible rfl | (simp; done) | split

theorem execPeerFailed_keeps (member : Nat) (s : State) : Keeps s (execPeerFailed member s) := by
  unfold execPeerFailed
  apply keeps_next
  simp

@[simp] theorem setJudge_kept (s : State) (k : Nat) (j : Judge) : kept (setJudge s k j) = kept s := by
  unfold setJudge
  simp

@[simp] theorem chooseRef_kept (s : State) : kept (chooseRef s) = kept s := by
  unfold chooseRef
  simp

@[simp] theorem checkFollow_kept (s : State) : kept (checkFollow s) = kept s := by
  unfold checkFollow
  simp

@[simp] theorem arriveSetTimebase_kept (h : Hdr) (src : Nat) (dom : Nat) (s : State) : kept (arriveSetTimebase h src dom s) = kept s := by
  unfold arriveSetTimebase
  simp

theorem execGptpSync_keeps (port : Nat) (domain : Nat) (offsetNs : Int) (s : State) : Keeps s (execGptpSync port domain offsetNs s) := by
  unfold execGptpSync
  apply keeps_next
  simp

theorem execSyncTimeout_keeps (s : State) : Keeps s (execSyncTimeout s) := by
  unfold execSyncTimeout
  apply keeps_next
  simp

theorem execTimeAlignFault_keeps (s : State) : Keeps s (execTimeAlignFault s) := by
  unfold execTimeAlignFault
  apply keeps_next
  simp

@[simp] theorem countAlign_kept (offset : Int) (s : State) : kept (countAlign offset s) = kept s := by
  unfold countAlign
  simp

theorem execSetTide_keeps (h : Hdr) (periodQ : Nat) (swellLen : Nat) (s : State) : Keeps s (execSetTide h periodQ swellLen s) := by
  unfold execSetTide
  apply keeps_next
  simp

theorem execSetTimebase_keeps (h : Hdr) (source : Nat) (domain : Nat) (s : State) : Keeps s (execSetTimebase h source domain s) := by
  unfold execSetTimebase
  apply keeps_next
  simp

theorem execTidePreset_keeps (h : Hdr) (epoch : Nat) (tn : Nat) (s : State) : Keeps s (execTidePreset h epoch tn s) := by
  unfold execTidePreset
  apply keeps_next
  simp

@[simp] theorem endSession_kept (fn : Fn) (s : State) : kept (endSession fn s) = kept s := by
  unfold endSession
  simp

@[simp] theorem endSessions_kept (s : State) : kept (endSessions s) = kept s := by
  unfold endSessions
  simp

theorem wipeScr_tame {k : Kept} {s : State} (io cause : Nat) (h : Tame k (kept s)) : Tame k (kept (wipeScr io cause s)) := by
  unfold wipeScr
  simp only [setScr_kept]
  exact h.mem rfl (memWf_clearRange _ _ _)

@[simp] theorem dropPresence_kept (s : State) : kept (dropPresence s) = kept s := by
  unfold dropPresence
  simp

theorem wipeSecure_tame {k : Kept} {s : State} (cause : Nat) (h : Tame k (kept s)) : Tame k (kept (wipeSecure cause s)) := by
  unfold wipeSecure
  dsimp only
  split
  · simp only [moduleEvent_kept, endSessions_kept]
    exact wipeScr_tame _ _ (wipeScr_tame _ _ (by simpa using h))
  · simpa using h

theorem breakSeal_tame {k : Kept} {s : State} (h : Tame k (kept s)) : Tame k (kept (breakSeal s)) := by
  unfold breakSeal
  split
  · exact wipeSecure_tame _ (by simpa using h)
  · exact h

theorem execSealBreak_tame (s : State) : TameOut s (execSealBreak s) := tameOut_next (breakSeal_tame (Tame.refl _))

theorem execGlitchDetect_tame (clock : Bool) (s : State) : TameOut s (execGlitchDetect clock s) := by
  unfold execGlitchDetect
  apply tameOut_next
  split
  · exact wipeSecure_tame _ (Tame.refl _)
  · exact Tame.refl _

theorem execWipeDone_keeps (io : Nat) (s : State) : Keeps s (execWipeDone io s) := by
  unfold execWipeDone
  apply keeps_next
  simp

@[simp] theorem gatedArrival_kept (c : Instr) (s : State) : kept (gatedArrival c s) = kept s := by
  unfold gatedArrival
  split <;> simp

@[simp] theorem releaseHeld_kept (s : State) : kept (releaseHeld s) = kept s := by
  unfold releaseHeld
  repeat' first | with_reducible rfl | (simp; done) | split

theorem execPresenceHoldTimeout_keeps (s : State) : Keeps s (execPresenceHoldTimeout s) := by
  unfold execPresenceHoldTimeout
  apply keeps_next
  repeat' first | with_reducible rfl | (simp; done) | split

theorem execPresenceAssert_tame (s : State) : TameOut s (execPresenceAssert s) := by
  unfold execPresenceAssert
  apply tameOut_next
  split
  · exact Tame.refl _
  · split
    · split
      · exact Tame.refl _
      · simp only [releaseHeld_kept, pinLevel_kept, kept_mk]
        exact breakSeal_tame (Tame.refl _)
    · simpa using Tame.refl _

theorem execPresenceDeassert_keeps (s : State) : Keeps s (execPresenceDeassert s) := by
  unfold execPresenceDeassert
  apply keeps_next
  simp

theorem execButtonStuck_keeps (s : State) : Keeps s (execButtonStuck s) := by
  unfold execButtonStuck
  apply keeps_next
  simp

theorem execButtonRelease_keeps (s : State) : Keeps s (execButtonRelease s) := by
  unfold execButtonRelease
  apply keeps_next
  simp

@[simp] theorem countWindow_kept (s : State) : kept (countWindow s) = kept s := by
  unfold countWindow
  simp

@[simp] theorem tdiError_kept (p : Nat) (s : State) : kept (tdiError p s) = kept s := by
  unfold tdiError
  simp

@[simp] theorem tdisError_kept (s : State) : kept (tdisError s) = kept s := by
  unfold tdisError
  simp

@[simp] theorem dropAssocs_kept (cause : Nat) (s : State) : kept (dropAssocs cause s) = kept s := by
  unfold dropAssocs
  simp

@[simp] theorem portsDownAll_kept (cause : Nat) (s : State) : kept (portsDownAll cause s) = kept s := by
  unfold portsDownAll
  simp

theorem changeLifecycle_tame {k : Kept} {s : State} (l : Lifecycle)
    (h : Tame k (kept { s with ident.lifecycle := l })) : Tame k (kept (changeLifecycle l s)) := by
  unfold changeLifecycle
  simp only [tdisError_kept]
  exact wipeSecure_tame _ h

@[simp] theorem destroyAll_kept (s : State) : kept (destroyAll s) = kept s := by
  unfold destroyAll
  simp

theorem transitionFault_from {s : State} {n : Nat} (h : transitionFault s n = none) : s.ident.lifecycle ≠ .decommissioned := by
  intro e
  unfold transitionFault at h
  rw [e] at h
  split at h <;> simp at h

theorem applyLifecycleAdvance_tame {k : Kept} {s : State} (c : Instr) (hd : Hdr) (target : Nat) (h : Tame k (kept s)) :
    Tame k (kept (applyLifecycleAdvance c hd target s)) := by
  unfold applyLifecycleAdvance
  have go (l : Lifecycle) (n : Nat) (hl : l ≠ .blank) (hs : s.ident.lifecycle ≠ .decommissioned) :
      Tame k (kept { s with ident.lifecycle := l, ident.serviceEntries := s.ident.serviceEntries + n }) :=
    h.trans ⟨rfl, .inr ⟨hl, hs⟩, id, Nat.le_add_right _ _, Nat.le_refl _, Nat.le_refl _, id⟩
  split
  · simpa using h
  · split
    · simpa using h
    · rename_i hf
      have hs := transitionFault_from hf
      split
      · simp only [finish_kept]
        exact changeLifecycle_tame _ (go .sealed 0 (by decide) hs)
      · split
        · simp only [finish_kept]
          exact changeLifecycle_tame _ (go .service 1 (by decide) hs)
        · simp only [startScrub_kept, portsDownAll_kept, dropAssocs_kept, destroyAll_kept, kept_mk]
          exact changeLifecycle_tame _ (go .decommissioned 0 (by decide) hs)

theorem decommissioned_tame {k : Kept} {s : State} (h : Tame k (kept s)) : Tame k (kept (decommissioned s)) := by
  unfold decommissioned
  dsimp only
  have g : Tame k (kept { s with ident.decommissionFuse := true }) :=
    h.trans ⟨rfl, .inl rfl, fun _ => rfl, Nat.le_refl _, Nat.le_refl _, Nat.le_refl _, id⟩
  split
  · simp only [finishCmd_kept]; exact g
  · exact g

theorem applyDebugUnlock_tame {k : Kept} {s : State} (c : Instr) (hd : Hdr) (h : Tame k (kept s)) :
    Tame k (kept (applyDebugUnlock c hd s)) := by
  unfold applyDebugUnlock
  split
  · simpa using h
  · split
    · simpa using h
    · simp only [startScrub_kept, tdisError_kept]
      exact wipeSecure_tame _ (by simpa using h)

theorem unlocked_tame {k : Kept} {s : State} (h : Tame k (kept s)) : Tame k (kept (unlocked s)) := by
  unfold unlocked
  have g : Tame k (kept { s with ident.debugUnlocks := s.ident.debugUnlocks + 1 }) :=
    h.trans ⟨rfl, .inl rfl, id, Nat.le_refl _, Nat.le_succ _, Nat.le_refl _, id⟩
  split
  · dsimp only
    simp only [finishCmd_kept, kept_ite]
    split <;> (split <;> exact g)
  · exact h

@[simp] theorem arriveAttest_kept (h : Hdr) (nonce : BitVec 256) (buf : Buf) (s : State) : kept (arriveAttest h nonce buf s) = kept s := by
  unfold arriveAttest
  simp

theorem execAttestSigned_keeps (fn : Fn) (s : State) : Keeps s (execAttestSigned fn s) := by
  unfold execAttestSigned
  apply keeps_next
  repeat' first | with_reducible rfl | (simp; done) | split | dsimp only

@[simp] theorem spdmSign_kept (fn : Fn) (message : List Byte) (s : State) : kept (spdmSign fn message s) = kept s := by
  unfold spdmSign
  simp

theorem execGetMeasurements_keeps (fn : Fn) (nonce : BitVec 256) (s : State) : Keeps s (execGetMeasurements fn nonce s) := by
  unfold execGetMeasurements
  apply keeps_next
  simp

theorem execChallenge_keeps (fn : Fn) (nonce : BitVec 256) (s : State) : Keeps s (execChallenge fn nonce s) := by
  unfold execChallenge
  apply keeps_next
  simp

theorem execKeyExchange_keeps (fn : Fn) (s : State) : Keeps s (execKeyExchange fn s) := by
  unfold execKeyExchange
  apply keeps_next
  simp

theorem execSpdmSessionEnd_keeps (fn : Fn) (s : State) : Keeps s (execSpdmSessionEnd fn s) := by
  unfold execSpdmSessionEnd
  apply keeps_next
  simp

theorem execIdeKm_keeps (fn : Fn) (stream : Nat) (s : State) : Keeps s (execIdeKm fn stream s) := by
  unfold execIdeKm
  apply keeps_next
  simp

@[simp] theorem tdispMove_kept (p : Nat) (ok : Bool) (next : Nat) (s : State) : kept (tdispMove p ok next s) = kept s := by
  unfold tdispMove
  simp

theorem execLockInterfaceRequest_keeps (p : Nat) (s : State) : Keeps s (execLockInterfaceRequest p s) := by
  unfold execLockInterfaceRequest
  apply keeps_next
  simp

theorem execStartInterfaceRequest_keeps (p : Nat) (s : State) : Keeps s (execStartInterfaceRequest p s) := by
  unfold execStartInterfaceRequest
  apply keeps_next
  simp

theorem execGetDeviceInterfaceReport_keeps (p : Nat) (s : State) : Keeps s (execGetDeviceInterfaceReport p s) := by
  unfold execGetDeviceInterfaceReport
  apply keeps_next
  simp

theorem execStopInterfaceRequest_keeps (p : Nat) (s : State) : Keeps s (execStopInterfaceRequest p s) := by
  unfold execStopInterfaceRequest
  apply keeps_next
  repeat' first | with_reducible rfl | (simp; done) | split

theorem execIdeIntegrityFailure_keeps (p : Nat) (s : State) : Keeps s (execIdeIntegrityFailure p s) := by
  unfold execIdeIntegrityFailure
  apply keeps_next
  simp

theorem execAttest_keeps (h : Hdr) (nonce : BitVec 256) (buf : Buf) (s : State) : Keeps s (execAttest h nonce buf s) := by
  unfold execAttest
  apply keeps_next
  simp

theorem execLifecycleAdvance_keeps (h : Hdr) (target : Nat) (s : State) : Keeps s (execLifecycleAdvance h target s) := by
  unfold execLifecycleAdvance
  apply keeps_next
  simp

theorem execDebugUnlock_keeps (h : Hdr) (scope : Nat) (s : State) : Keeps s (execDebugUnlock h scope s) := by
  unfold execDebugUnlock
  apply keeps_next
  simp

@[simp] theorem report_kept (h : Hdr) (buf : Buf) (bytes : List Byte) (payload : List Byte) (s : State) : kept (report h buf bytes payload s) = kept s := by
  unfold report
  simp

@[simp] theorem arriveGetHealth_kept (h : Hdr) (s : State) : kept (arriveGetHealth h s) = kept s := by
  unfold arriveGetHealth
  simp

@[simp] theorem arriveGetTelemetry_kept (h : Hdr) (buf : Buf) (s : State) : kept (arriveGetTelemetry h buf s) = kept s := by
  unfold arriveGetTelemetry
  simp

@[simp] theorem arriveBreachLogRead_kept (h : Hdr) (first : Nat) (buf : Buf) (s : State) : kept (arriveBreachLogRead h first buf s) = kept s := by
  unfold arriveBreachLogRead
  simp

@[simp] theorem arriveSelftestReport_kept (h : Hdr) (buf : Buf) (s : State) : kept (arriveSelftestReport h buf s) = kept s := by
  unfold arriveSelftestReport
  simp

theorem execIdentify_keeps (h : Hdr) (s : State) : Keeps s (execIdentify h s) := by
  unfold execIdentify
  apply keeps_next
  simp

theorem execGetHealth_keeps (h : Hdr) (s : State) : Keeps s (execGetHealth h s) := by
  unfold execGetHealth
  apply keeps_next
  simp

theorem execGetTelemetry_keeps (h : Hdr) (buf : Buf) (s : State) : Keeps s (execGetTelemetry h buf s) := by
  unfold execGetTelemetry
  apply keeps_next
  simp

theorem execBreachLogRead_keeps (h : Hdr) (first : Nat) (buf : Buf) (s : State) : Keeps s (execBreachLogRead h first buf s) := by
  unfold execBreachLogRead
  apply keeps_next
  simp

theorem execSelftestReport_keeps (h : Hdr) (buf : Buf) (s : State) : Keeps s (execSelftestReport h buf s) := by
  unfold execSelftestReport
  apply keeps_next
  simp

theorem execBreachLogFlush_keeps (s : State) : Keeps s (execBreachLogFlush s) := by
  unfold execBreachLogFlush
  apply keeps_next
  simp

@[simp] theorem setAssoc_kept (s : State) (m : Nat) (a : Assoc) : kept (setAssoc s m a) = kept s := by
  unfold setAssoc
  simp

@[simp] theorem mapAssocs_kept (f : Assoc → Assoc) (s : State) : kept (mapAssocs f s) = kept s := by
  unfold mapAssocs
  simp

@[simp] theorem failJobs_kept (m : Nat) (s : State) : kept (failJobs m s) = kept s := by
  unfold failJobs
  simp

@[simp] theorem reroute_kept (n : Nat) (s : State) : kept (reroute n s) = kept s := by
  unfold reroute
  repeat' first | with_reducible rfl | (simp; done) | split | (refine (foldl_kept _ _ _ fun _ _ => ?_).trans ?_) | (refine (forRuns_kept _ _ fun _ _ _ => ?_).trans ?_) | (refine (forGraphs_kept _ _ fun _ _ _ => ?_).trans ?_) | dsimp only | rfl

@[simp] theorem takePortDown_kept (n : Nat) (cause : Nat) (s : State) : kept (takePortDown n cause s) = kept s := by
  unfold takePortDown
  simp

@[simp] theorem trainPort_kept (n : Nat) (s : State) : kept (trainPort n s) = kept s := by
  unfold trainPort
  simp

@[simp] theorem sendAuth_kept (n : Nat) (s : State) : kept (sendAuth n s) = kept s := by
  unfold sendAuth
  first | (simp; done) | (repeat' first | with_reducible rfl | (simp; done) | with_reducible refine (foldl_kept _ _ _ fun _ _ => ?_).trans ?_ | split)

@[simp] theorem reauthenticate_kept (m : Nat) (cause : Nat) (s : State) : kept (reauthenticate m cause s) = kept s := by
  unfold reauthenticate
  repeat' first | with_reducible rfl | (simp; done) | split

@[simp] theorem configPort_kept (portMask : Byte) (enableMask : Byte) (s : State) (n : Nat) : kept (configPort portMask enableMask s n) = kept s := by
  unfold configPort
  simp

@[simp] theorem changeIndex_kept (index : Nat) (s : State) : kept (changeIndex index s) = kept s := by
  unfold changeIndex
  simp

@[simp] theorem arriveLinkConfig_kept (h : Hdr) (portMask : Byte) (enableMask : Byte) (index : Nat) (s : State) : kept (arriveLinkConfig h portMask enableMask index s) = kept s := by
  unfold arriveLinkConfig
  simp

@[simp] theorem arriveLinkStatus_kept (h : Hdr) (port : Nat) (s : State) : kept (arriveLinkStatus h port s) = kept s := by
  unfold arriveLinkStatus
  simp

@[simp] theorem announceSwitch_kept (s : State) : kept (announceSwitch s) = kept s := by
  unfold announceSwitch
  simp

@[simp] theorem settleRotations_kept (s : State) : kept (settleRotations s) = kept s := by
  unfold settleRotations
  repeat' first | with_reducible rfl | (simp; done) | split

@[simp] theorem applyKeyRotateLink_kept (c : Instr) (h : Hdr) (s : State) : kept (applyKeyRotateLink c h s) = kept s := by
  unfold applyKeyRotateLink
  split
  · simp
  · dsimp only
    rw [settleRotations_kept]
    split
    · rw [announceSwitch_kept]
      exact setCounter_kept s 64 (keyCounter s 64 + 1)
    · exact setCounter_kept s 64 (keyCounter s 64 + 1)

@[simp] theorem switchKeys_kept (s : State) : kept (switchKeys s) = kept s := by
  unfold switchKeys
  simp

theorem execKeySwitchTimeout_keeps (peer : Nat) (s : State) : Keeps s (execKeySwitchTimeout peer s) := by
  unfold execKeySwitchTimeout
  apply keeps_next
  repeat' first | with_reducible rfl | (simp; done) | split

theorem execCableDetect_keeps (port : Nat) (cable : Cable) (s : State) : Keeps s (execCableDetect port cable s) := by
  unfold execCableDetect
  apply keeps_next
  simp

theorem execTrainingStepDone_keeps (port : Nat) (s : State) : Keeps s (execTrainingStepDone port s) := by
  unfold execTrainingStepDone
  apply keeps_next
  simp

theorem execTrainingTimeout_keeps (port : Nat) (s : State) : Keeps s (execTrainingTimeout port s) := by
  unfold execTrainingTimeout
  apply keeps_next
  simp

theorem execLaneFailure_keeps (port : Nat) (lane : Nat) (s : State) : Keeps s (execLaneFailure port lane s) := by
  unfold execLaneFailure
  apply keeps_next
  simp

theorem execPortDown_keeps (port : Nat) (s : State) : Keeps s (execPortDown port s) := by
  unfold execPortDown
  apply keeps_next
  simp

theorem execCodewordUncorrectable_keeps (port : Nat) (s : State) : Keeps s (execCodewordUncorrectable port s) := by
  unfold execCodewordUncorrectable
  apply keeps_next
  simp

theorem execHopAcknowledgement_keeps (port : Nat) (count : Nat) (s : State) : Keeps s (execHopAcknowledgement port count s) := by
  unfold execHopAcknowledgement
  apply keeps_next
  simp

@[simp] theorem refuseAssoc_kept (f : AuthFrame) (cause : Nat) (s : State) : kept (refuseAssoc f cause s) = kept s := by
  unfold refuseAssoc
  repeat' first | with_reducible rfl | (simp; done) | split

@[simp] theorem newAssoc_kept (f : AuthFrame) (ports : List Nat) (s : State) : kept (newAssoc f ports s) = kept s := by
  unfold newAssoc
  first | (simp; done) | (repeat' first | with_reducible rfl | (simp; done) | with_reducible refine (foldl_kept _ _ _ fun _ _ => ?_).trans ?_ | split)

@[simp] theorem formAssoc_kept (f : AuthFrame) (s : State) : kept (formAssoc f s) = kept s := by
  unfold formAssoc
  repeat' first | with_reducible rfl | (simp; done) | split

theorem execAuthFrame_keeps (f : AuthFrame) (s : State) : Keeps s (execAuthFrame f s) := by
  unfold execAuthFrame
  apply keeps_next
  repeat' first | with_reducible rfl | (simp; done) | split

theorem execAuthRetry_keeps (peer : Nat) (s : State) : Keeps s (execAuthRetry peer s) := by
  unfold execAuthRetry
  apply keeps_next
  repeat' first | with_reducible rfl | (simp; done) | split

@[simp] theorem dropFrame_kept (port : Nat) (tag : Bool) (s : State) : kept (dropFrame port tag s) = kept s := by
  unfold dropFrame
  simp

@[simp] theorem acceptFrame_kept (port src counter : Nat) (gen tagOk : Bool) (s : State) :
    kept (acceptFrame port src counter gen tagOk s).1 = kept s := by
  unfold acceptFrame
  repeat' first | with_reducible rfl | (simp; done) | split

@[simp] theorem awaitInput_kept (w : Waiting) (s : State) : kept (awaitInput w s) = kept s := by
  unfold awaitInput
  repeat' first | with_reducible rfl | (simp; done) | split

@[simp] theorem lateInput_kept (c : Consumer) (dueIx : Nat) (s : State) : kept (lateInput c dueIx s) = kept s := by
  unfold lateInput
  first | (simp; done) | (repeat' first | with_reducible rfl | (simp; done) | with_reducible refine (foldl_kept _ _ _ fun _ _ => ?_).trans ?_ | split)

theorem execDataFrame_keeps (f : DataFrame) (s : State) : Keeps s (execDataFrame f s) := by
  unfold execDataFrame
  apply keeps_next
  repeat' first | with_reducible rfl | (simp; done) | split

@[simp] theorem followTime_kept (f : ControlFrame) (s : State) : kept (followTime f s) = kept s := by
  unfold followTime
  simp

@[simp] theorem announcedRelabel_kept (atTide : Nat) (count : Nat) (s : State) : kept (announcedRelabel atTide count s) = kept s := by
  unfold announcedRelabel
  simp

@[simp] theorem announcedPeriod_kept (atTide : Nat) (s : State) : kept (announcedPeriod atTide s) = kept s := by
  unfold announcedPeriod
  first | (simp; done) | (repeat' first | with_reducible rfl | (simp; done) | with_reducible refine (foldl_kept _ _ _ fun _ _ => ?_).trans ?_ | split)

@[simp] theorem replyStatus_kept (origin : Nat) (seq : Word) (st : Status) (r : Reason) (s : State) : kept (replyStatus origin seq st r s) = kept s := by
  unfold replyStatus
  repeat' first | with_reducible rfl | (simp; done) | split

@[simp] theorem forwardedCommand_kept (origin : Nat) (seq : Word) (c : Forwarded) (s : State) :
    kept (forwardedCommand origin seq c s) = kept s := by
  unfold forwardedCommand
  split
  · rfl
  · split
    · rfl
    · dsimp only
      split <;> simp
  · split
    · rfl
    · dsimp only
      split
      · simp
      · split
        · rename_i hd
          simp only [replyStatus_kept]
          exact (decideRelabel_keepsOpt _ _ _ _ _ hd).trans rfl
        · simp

@[simp] theorem takeRecord_kept (s : State) (r : LinkRecord) : kept (takeRecord s r) = kept s := by
  unfold takeRecord
  repeat' first | with_reducible rfl | (simp; done) | split

@[simp] theorem advanceEpoch_kept (epochNext : Nat) (s : State) : kept (advanceEpoch epochNext s) = kept s := by
  unfold advanceEpoch
  split
  · exact (decideRelabel_keepsOpt _ _ _ _).getD rfl
  · rfl

@[simp] theorem noteControl_kept (f : ControlFrame) (s : State) : kept (noteControl f s) = kept s := by
  unfold noteControl
  repeat' first | with_reducible rfl | (simp; done) | split

theorem execControlFrame_keeps (f : ControlFrame) (s : State) : Keeps s (execControlFrame f s) := by
  unfold execControlFrame
  apply keeps_next
  simp

@[simp] theorem sendControl_kept (op : Nat) (s : State) (m : Nat) : kept (sendControl op s m) = kept s := by
  unfold sendControl
  repeat' first | with_reducible rfl | (simp; done) | split

@[simp] theorem sendControls_kept (op : Nat) (s : State) : kept (sendControls op s) = kept s := by
  unfold sendControls
  simp

theorem execLinkConfig_keeps (h : Hdr) (portMask : Byte) (enableMask : Byte) (index : Nat) (s : State) : Keeps s (execLinkConfig h portMask enableMask index s) := by
  unfold execLinkConfig
  apply keeps_next
  simp

theorem execLinkStatus_keeps (h : Hdr) (port : Nat) (s : State) : Keeps s (execLinkStatus h port s) := by
  unfold execLinkStatus
  apply keeps_next
  simp

theorem execKeyRotateLink_keeps (h : Hdr) (key : Nat) (s : State) : Keeps s (execKeyRotateLink h key s) := by
  unfold execKeyRotateLink
  apply keeps_next
  simp

@[simp] theorem forGraphs_kept (f : Nat → Nat → State → State) (s : State) (h : ∀ p r s, kept (f p r s) = kept s) :
    kept (forGraphs f s) = kept s := by
  refine foldl_kept _ _ _ fun s p => ?_
  show kept (match getPolder s p with
    | some x => (x.graphs.map (·.1)).foldl (fun u h => f p h u) s
    | none => s) = kept s
  split
  · exact foldl_kept _ _ _ fun _ _ => h _ _ _
  · rfl

theorem forGraphs_tame {kk : Kept} {s : State} {f : Nat → Nat → State → State}
    (h : ∀ p r s, Tame kk (kept s) → Tame kk (kept (f p r s))) (hk : Tame kk (kept s)) : Tame kk (kept (forGraphs f s)) := by
  refine Tame.foldl (fun s p hs => ?_) hk
  split
  · exact Tame.foldl (fun _ _ h2 => h _ _ _ h2) hs
  · exact hs

@[simp] theorem clearVacated_kept (p : Nat) (h : Nat) (g : Graph) (s : State) : kept (clearVacated p h g s) = kept s := by
  unfold clearVacated
  simp

@[simp] theorem moved_kept (p : Nat) (h : Nat) (g : Graph) (s : State) : kept (moved p h g s) = kept s := by
  unfold moved
  simp

theorem putLine_tame {k : Kept} {s : State} (holder : Nat) (was : State) (key line : Nat) (h : Tame k (kept s)) :
    Tame k (kept (putLine holder was key line s)) := sramWrite_tame _ _ _ h

theorem carryGraph_tame {k : Kept} {s : State} (was : State) (p n : Nat) (h : Tame k (kept s)) :
    Tame k (kept (carryGraph was p n s)) := by
  unfold carryGraph
  split
  · split
    · exact h
    · refine Tame.foldl (fun u e hu => ?_) h
      dsimp only
      repeat' first | exact hu | exact putLine_tame _ _ _ _ hu | split
  · exact h

theorem carryMoves_tame {k : Kept} {s : State} (was : State) (h : Tame k (kept s)) : Tame k (kept (carryMoves was s)) := by
  unfold carryMoves forGraphs
  refine Tame.foldl (fun u e hu => ?_) h
  split
  · exact Tame.foldl (fun v x hv => carryGraph_tame _ _ _ hv) hu
  · exact hu

theorem leaveFrames_tame {kk : Kept} {s : State} (p k : Nat) (q : Plan) (hk : Tame kk (kept s)) :
    Tame kk (kept (leaveFrames p k q s).2) := by
  unfold leaveFrames
  dsimp only
  split
  · exact hk
  · exact claimAll_tame _ _ _ (by simpa using hk)

theorem leaveHbm_tame {kk : Kept} {s : State} (p h k : Nat) (hk : Tame kk (kept s)) : Tame kk (kept (leaveHbm p h k s)) := by
  unfold leaveHbm
  split
  · dsimp only; rw [setGraph_kept]; exact leaveFrames_tame _ _ _ hk
  · exact hk

@[simp] theorem shedGraph_kept (p : Nat) (h : Nat) (s : State) : kept (shedGraph p h s) = kept s := by
  unfold shedGraph
  first | (simp; done) | (repeat' first | with_reducible rfl | (simp; done) | with_reducible refine (foldl_kept _ _ _ fun _ _ => ?_).trans ?_ | split)

@[simp] theorem moveB_kept (p : Nat) (h : Nat) (leave : TileUse → Bool) (s : State) : kept (moveB p h leave s) = kept s := by
  unfold moveB
  repeat' first | with_reducible rfl | (simp; done) | split

@[simp] theorem decideMove_kept (cause : MoveCause) (p : Nat) (h : Nat) (place : Nat) (s : State) : kept (decideMove cause p h place s) = kept s := by
  unfold decideMove
  first | (simp; done) | (repeat' first | with_reducible rfl | (simp; done) | with_reducible refine (foldl_kept _ _ _ fun _ _ => ?_).trans ?_ | split)

@[simp] theorem decideMoves_kept (cause : MoveCause) (place : Nat) (s : State) : kept (decideMoves cause place s) = kept s := by
  unfold decideMoves
  first | (simp; done) | (repeat' first | with_reducible rfl | (simp; done) | with_reducible refine (foldl_kept _ _ _ fun _ _ => ?_).trans ?_ | split)

@[simp] theorem switchMoves_kept (s : State) : kept (switchMoves s) = kept s := by
  unfold switchMoves
  repeat' first | with_reducible rfl | (simp; done) | split | (refine (foldl_kept _ _ _ fun _ _ => ?_).trans ?_) | (refine (forRuns_kept _ _ fun _ _ _ => ?_).trans ?_) | (refine (forGraphs_kept _ _ fun _ _ _ => ?_).trans ?_) | dsimp only | rfl

@[simp] theorem degradeQ_kept (p : Nat) (h : Nat) (s : State) : kept (degradeQ p h s) = kept s := by
  unfold degradeQ
  repeat' first | with_reducible rfl | (simp; done) | split

@[simp] theorem retire_kept (k : Nat) (s : State) : kept (retire k s) = kept s := by
  unfold retire
  simp

theorem moveBuffers_tame {kk : Kept} {s : State} (k : Nat) (hk : Tame kk (kept s)) : Tame kk (kept (moveBuffers k s)) := by
  unfold moveBuffers
  repeat' first | assumption | with_reducible apply claimAll_tame | with_reducible refine Tame.foldl (fun _ _ _ => ?_) ?_ | (simp only [kept_mk, kept_mk_mem, kept_mk_ident]; done) | (simp only [kept_mk, kept_mk_mem, kept_mk_ident, startScrub_kept, vacate_kept]) | split | dsimp only

@[simp] theorem loseKv_kept (k : Nat) (s : State) : kept (loseKv k s) = kept s := by
  unfold loseKv
  first | (simp; done) | (repeat' first | with_reducible rfl | (simp; done) | with_reducible refine (foldl_kept _ _ _ fun _ _ => ?_).trans ?_ | split)

theorem leaveStack_tame {kk : Kept} {s : State} (was : State) (k : Nat) (hk : Tame kk (kept s)) :
    Tame kk (kept (leaveStack was k s)) := by
  unfold leaveStack
  extract_lets out s1
  have h1 : Tame kk (kept s1) := by
    simp only [s1]
    split
    · exact moveBuffers_tame _ (by rw [loseKv_kept]; exact hk)
    · exact hk
  clear_value s1 out
  refine forGraphs_tame (fun p h t ht => ?_) h1
  split
  · split
    · exact ht
    · extract_lets t1
      have h2 : Tame kk (kept t1) := by
        simp only [t1]
        split
        · exact leaveHbm_tame _ _ _ ht
        · exact ht
      clear_value t1
      split
      · split
        · rw [degradeQ_kept]; exact h2
        · rw [moveB_kept]; exact h2
      · exact h2
  · exact ht

@[simp] theorem loseSlots_kept (k : Nat) (s : State) : kept (loseSlots k s) = kept s := by
  unfold loseSlots
  simp

@[simp] theorem loseWork_kept (k : Nat) (s : State) : kept (loseWork k s) = kept s := by
  unfold loseWork
  repeat' first | with_reducible rfl | (simp; done) | split | (refine (foldl_kept _ _ _ fun _ _ => ?_).trans ?_) | (refine (forRuns_kept _ _ fun _ _ _ => ?_).trans ?_) | (refine (forGraphs_kept _ _ fun _ _ _ => ?_).trans ?_) | dsimp only | rfl

@[simp] theorem markBreached_kept (c seen : Nat) (s : State) : kept (markBreached c seen s) = kept s := by
  unfold markBreached
  simp

@[simp] theorem removeStack_kept (k : Nat) (cause : Nat) (s : State) : kept (removeStack k cause s) = kept s := by
  unfold removeStack
  simp

@[simp] theorem loseStacks_kept (s : State) : kept (loseStacks s) = kept s := by
  unfold loseStacks
  simp

theorem leaveVote_tame {kk : Kept} {s : State} (c : Nat) (hk : Tame kk (kept s)) : Tame kk (kept (leaveVote c s)) := by
  unfold leaveVote
  repeat' first | assumption | with_reducible apply leaveStack_tame | with_reducible refine Tame.foldl (fun _ _ _ => ?_) ?_ | (simp only [kept_mk, kept_mk_mem, kept_mk_ident]; done) | (simp only [kept_mk, kept_mk_mem, kept_mk_ident, retire_kept]) | split | dsimp only

theorem takeStack_tame {kk : Kept} {s : State} (k : Nat) (cause : Nat) (hk : Tame kk (kept s)) : Tame kk (kept (takeStack k cause s)) := by
  unfold takeStack
  repeat' first | assumption | with_reducible apply leaveStack_tame | with_reducible refine Tame.foldl (fun _ _ _ => ?_) ?_ | (simp only [kept_mk, kept_mk_mem, kept_mk_ident]; done) | (simp only [kept_mk, kept_mk_mem, kept_mk_ident, recordBreach_kept, markBreached_kept, retire_kept]) | split | dsimp only

@[simp] theorem dropChannel_kept (k : Nat) (s : State) : kept (dropChannel k s) = kept s := by
  unfold dropChannel
  simp

theorem settleChannels_tame {kk : Kept} {s : State}  (hk : Tame kk (kept s)) : Tame kk (kept (settleChannels s)) := by
  unfold settleChannels
  repeat' first | assumption | with_reducible apply takeStack_tame | with_reducible apply leaveVote_tame | with_reducible refine Tame.foldl (fun _ _ _ => ?_) ?_ | (simp only [kept_mk, kept_mk_mem, kept_mk_ident]; done) | (simp only [kept_mk, kept_mk_mem, kept_mk_ident, enterHold_kept, dropChannel_kept]) | split | dsimp only

@[simp] theorem clearStack_kept (k : Nat) (s : State) : kept (clearStack k s) = kept s := by
  unfold clearStack
  simp

theorem mirrorStack_tame {k : Kept} {s : State} (src dst : Nat) (h : Tame k (kept s)) : Tame k (kept (mirrorStack src dst s)) := by
  unfold mirrorStack
  refine Tame.foldl (fun u e hu => ?_) h
  dsimp only
  split
  · exact putLine_tame _ _ _ _ hu
  · exact hu

theorem stepPromotion_tame {kk : Kept} {s : State} (hk : Tame kk (kept s)) : Tame kk (kept (stepPromotion s)) := by
  unfold stepPromotion
  split
  · exact hk
  · extract_lets src s1
    have h1 : Tame kk (kept s1) := by
      simp only [s1]
      split
      · rw [clearStack_kept]; exact leaveStack_tame _ _ hk
      · exact hk
    clear_value s1
    split
    · exact mirrorStack_tame _ _ h1
    · exact h1

@[simp] theorem restartPromotion_kept (s : State) : kept (restartPromotion s) = kept s := by
  unfold restartPromotion
  simp

theorem execPromotionCopyDone_keeps (ok : Bool) (s : State) : Keeps s (execPromotionCopyDone ok s) := by
  unfold execPromotionCopyDone
  apply keeps_next
  repeat' first | with_reducible rfl | (simp; done) | split

@[simp] theorem sendVote_kept (p : Nat) (r : Nat) (c : Nat) (f : VoteFrame) (d : Option (BitVec 128)) (s : State) : kept (sendVote p r c f d s) = kept s := by
  unfold sendVote
  simp

@[simp] theorem sendMarker_kept (p : Nat) (r : Nat) (c : Nat) (s : State) : kept (sendMarker p r c s) = kept s := by
  unfold sendMarker
  simp

@[simp] theorem markChannel_kept (pick : Nat → Nat → Bool) (c : Nat) (s : State) : kept (markChannel pick c s) = kept s := by
  unfold markChannel
  simp

@[simp] theorem placeGolden_kept (p : Nat) (h : Nat) (s : State) : kept (placeGolden p h s) = kept s := by
  unfold placeGolden
  repeat' first | with_reducible rfl | (simp; done) | split

@[simp] theorem placeGoldens_kept (s : State) : kept (placeGoldens s) = kept s := by
  unfold placeGoldens
  simp

@[simp] theorem noteGolden_kept (p : Nat) (h : Nat) (c : Nat) (d : Option (BitVec 128)) (s : State) : kept (noteGolden p h c d s) = kept s := by
  unfold noteGolden
  repeat' first | with_reducible rfl | (simp; done) | split

@[simp] theorem endGolden_kept (p : Nat) (h : Nat) (c : Nat) (s : State) : kept (endGolden p h c s) = kept s := by
  unfold endGolden
  first | (simp; done) | (repeat' first | with_reducible rfl | (simp; done) | with_reducible refine (foldl_kept _ _ _ fun _ _ => ?_).trans ?_ | split)

@[simp] theorem markGoldens_kept (p : Nat) (c : Nat) (s : State) : kept (markGoldens p c s) = kept s := by
  unfold markGoldens
  simp

@[simp] theorem learnGolden_kept (p : Nat) (h : Nat) (g : Graph) (y : Golden) (d : BitVec 128) (s : State) : kept (learnGolden p h g y d s) = kept s := by
  unfold learnGolden
  simp

@[simp] theorem breachGolden_kept (y : Golden) (cs : List Nat) (s : State) : kept (breachGolden y cs s) = kept s := by
  unfold breachGolden
  simp

@[simp] theorem judgeGolden_kept (lostIx : Nat) (p : Nat) (h : Nat) (s : State) : kept (judgeGolden lostIx p h s) = kept s := by
  unfold judgeGolden
  repeat' first | with_reducible rfl | (simp; done) | split | dsimp only

@[simp] theorem judgeGoldens_kept (lostIx : Nat) (s : State) : kept (judgeGoldens lostIx s) = kept s := by
  unfold judgeGoldens
  simp

@[simp] theorem dropGoldens_kept (s : State) : kept (dropGoldens s) = kept s := by
  unfold dropGoldens
  repeat' first | with_reducible rfl | (simp; done) | split | (refine (foldl_kept _ _ _ fun _ _ => ?_).trans ?_) | (refine (forRuns_kept _ _ fun _ _ _ => ?_).trans ?_) | (refine (forGraphs_kept _ _ fun _ _ _ => ?_).trans ?_) | dsimp only | rfl

@[simp] theorem starve_kept (inst : Nat) (input : Nat) (s : State) : kept (starve inst input s) = kept s := by
  unfold starve
  first | (simp; done) | (repeat' first | with_reducible rfl | (simp; done) | with_reducible refine (foldl_kept _ _ _ fun _ _ => ?_).trans ?_ | split)

theorem execArbiterStarvation_keeps (inst : Nat) (input : Nat) (s : State) : Keeps s (execArbiterStarvation inst input s) := by
  unfold execArbiterStarvation
  apply keeps_next
  simp

@[simp] theorem repace_kept (s : State) : kept (repace s) = kept s := by
  unfold repace
  first | (simp; done) | (repeat' first | with_reducible rfl | (simp; done) | with_reducible refine (foldl_kept _ _ _ fun _ _ => ?_).trans ?_ | split)

@[simp] theorem cycleAt_kept (inst : Nat) (rs : List Requester) (s : State) : kept (cycleAt inst rs s) = kept s := by
  unfold cycleAt
  first | (simp; done) | (repeat' first | with_reducible rfl | (simp; done) | with_reducible refine (foldl_kept _ _ _ fun _ _ => ?_).trans ?_ | split)

@[simp] theorem trafficAt_kept (inst : Nat) (cycles : List (List Requester)) (s : State) : kept (trafficAt inst cycles s) = kept s := by
  unfold trafficAt
  first | (simp; done) | (repeat' first | with_reducible rfl | (simp; done) | with_reducible refine (foldl_kept _ _ _ fun _ _ => ?_).trans ?_ | split)

@[simp] theorem runTraffic_kept (ts : List (Nat × List (List Requester))) (s : State) : kept (runTraffic ts s) = kept s := by
  unfold runTraffic
  first | (simp; done) | (repeat' first | with_reducible rfl | (simp; done) | with_reducible refine (foldl_kept _ _ _ fun _ _ => ?_).trans ?_ | split)

@[simp] theorem grantLine_kept (tile : Nat) (line : Nat) (r : Requester) (s : State) : kept (grantLine tile line r s) = kept s := by
  unfold grantLine
  first | (simp; done) | (repeat' first | with_reducible rfl | (simp; done) | with_reducible refine (foldl_kept _ _ _ fun _ _ => ?_).trans ?_ | split)

@[simp] theorem setTile_kept (s : State) (stack : Nat) (tile : Nat) (t : TileTest) : kept (setTile s stack tile t) = kept s := by
  unfold setTile
  simp

@[simp] theorem withholdTide_kept (p : Nat) (s : State) : kept (withholdTide p s) = kept s := by
  unfold withholdTide
  simp

@[simp] theorem faultS_kept (p : Nat) (run : Nat) (pick : Nat → Nat → Bool) (c : Nat) (s : State) : kept (faultS p run pick c s) = kept s := by
  unfold faultS
  simp

@[simp] theorem arithFailure_kept (polder run inv stack tile unit : Nat) (s : State) :
    kept (arithFailure polder run inv stack tile unit s) = kept s := by
  unfold arithFailure
  extract_lets s1 s2 t n s3
  have h1 : kept s1 = kept s := recordBreach_kept _ _ _ _ _ _ _ _
  have h2 : kept s2 = kept s := by
    simp only [s2]
    split
    · split
      · rw [faultS_kept]; exact h1
      · exact h1
    · rw [withholdTide_kept]; exact h1
  have h3 : kept s3 = kept s := (setTile_kept _ _ _ _).trans h2
  split
  · rw [removeStack_kept]; exact h3
  · exact h3

theorem execArithCheck_keeps (polder : Nat) (run : Nat) (inv : Nat) (stack : Nat) (tile : Nat) (unit : Nat) (s : State) : Keeps s (execArithCheck polder run inv stack tile unit s) := by
  unfold execArithCheck
  apply keeps_next
  repeat' first | with_reducible rfl | (simp; done) | split | dsimp only

@[simp] theorem dataError_kept (p : Nat) (pick : Nat → Run → Bool) (s : State) : kept (dataError p pick s) = kept s := by
  unfold dataError
  simp

@[simp] theorem pictureError_kept (ref : Bool) (session : Nat) (s : State) : kept (pictureError ref session s) = kept s := by
  unfold pictureError
  simp

@[simp] theorem recordRow_kept (key : Nat) (s : State) : kept (recordRow key s) = kept s := by
  unfold recordRow
  first | (simp; done) | (repeat' first | with_reducible rfl | (simp; done) | with_reducible refine (foldl_kept _ _ _ fun _ _ => ?_).trans ?_ | split)

theorem memWf_filter (m : List Host.Cell) (f : Host.Cell → Bool) (h : memWf m = true) : memWf (m.filter f) = true := by
  induction m with
  | nil => rfl
  | cons e m ih =>
    obtain ⟨k, v⟩ := e
    have h' := (memWf_cons k v m).1 h
    rw [List.filter_cons]
    split
    · rw [memWf_cons]
      exact ⟨fun c hc => h'.1 c (List.mem_of_mem_filter hc), h'.2.1, ih h'.2.2⟩
    · exact ih h'.2.2

theorem memWf_foldl_writeByte (g : Host.Cell → Nat) (l m : List Host.Cell) (h : memWf m = true) :
    memWf (l.foldl (fun m c => writeByte m (g c) c.2) m) = true := by
  induction l generalizing m with
  | nil => exact h
  | cons c l ih => exact ih _ (memWf_writeByte _ _ _ h)

theorem rewriteCopy_tame {kk : Kept} {s : State} (hk : Tame kk (kept s)) : Tame kk (kept (rewriteCopy s)) := by
  unfold rewriteCopy
  split
  · exact hk.mem rfl fun h => memWf_foldl_writeByte _ _ _ (memWf_filter _ _ h)
  · exact hk

theorem errorOutcome_tame {kk : Kept} {s : State} (p : Nat) (role : ErrRole) (hk : Tame kk (kept s)) : Tame kk (kept (errorOutcome p role s)) := by
  unfold errorOutcome
  repeat' first | assumption | with_reducible apply rewriteCopy_tame | with_reducible refine Tame.foldl (fun _ _ _ => ?_) ?_ | (simp only [kept_mk, kept_mk_mem, kept_mk_ident]; done) | (simp only [kept_mk, kept_mk_mem, kept_mk_ident, dataError_kept, setGraph_kept, setRun_kept, modPolder_kept, faultS_kept, enterHold_kept, pictureError_kept]) | split | dsimp only

theorem execUncorrectable_tame (polder : Nat) (tier : Tier) (tensor : Nat) (stack : Nat) (tile : Nat) (row : Nat) (error : HardError) (s : State) : TameOut s (execUncorrectable polder tier tensor stack tile row error s) := by
  refine tameOut_next ?_
  have hk := Tame.refl (kept s)
  repeat' first | assumption | with_reducible apply errorOutcome_tame | with_reducible refine Tame.foldl (fun _ _ _ => ?_) ?_ | (simp only [kept_mk, kept_mk_mem, kept_mk_ident]; done) | (simp only [kept_mk, kept_mk_mem, kept_mk_ident, recordBreach_kept, setTile_kept, removeStack_kept, recordRow_kept]) | split | dsimp only

theorem settleTransfers_tame {kk : Kept} {s : State}  (hk : Tame kk (kept s)) : Tame kk (kept (settleTransfers s)) := by
  unfold settleTransfers
  repeat' first | assumption | with_reducible apply errorOutcome_tame | with_reducible refine Tame.foldl (fun _ _ _ => ?_) ?_ | (simp only [kept_mk, kept_mk_mem, kept_mk_ident]; done) | (simp only [kept_mk, kept_mk_mem, kept_mk_ident]) | split | dsimp only

@[simp] theorem noteFlaw_kept (tier : Tier) (addr : Nat) (rmw : Bool) (s : State) : kept (noteFlaw tier addr rmw s) = kept s := by
  unfold noteFlaw
  first | (simp; done) | (repeat' first | with_reducible rfl | (simp; done) | with_reducible refine (foldl_kept _ _ _ fun _ _ => ?_).trans ?_ | split)

theorem execCorrectableError_keeps (polder : Nat) (tier : Tier) (error : SoftError) (s : State) : Keeps s (execCorrectableError polder tier error s) := by
  refine keeps_next ?_
  first | (simp; done) | (repeat' first | with_reducible rfl | (simp; done) | with_reducible refine (foldl_kept _ _ _ fun _ _ => ?_).trans ?_ | split)

theorem serveAccess_tame {k : Kept} {s : State} (io : Nat) (l : List ScrAccess) (a : ScrAccess) (h : Tame k (kept s)) :
    Tame k (kept (serveAccess io l s a)) := by
  unfold serveAccess
  dsimp only
  split
  · simpa using h
  · simpa using h
  · simpa using h
  · split
    · split
      · simpa using h
      · simp only [setScr_kept]
        exact h.mem rfl (memWf_writeBytes _ _ _)
    · simpa using h

theorem execScratchpadAccess_tame (io : Nat) (accesses : List ScrAccess) (s : State) :
    TameOut s (execScratchpadAccess io accesses s) := by
  unfold execScratchpadAccess
  apply tameOut_next
  split
  · exact Tame.refl _
  · refine Tame.foldl (fun s a h => serveAccess_tame _ _ _ h) ?_
    simpa using Tame.refl _

theorem endScrub_tame {kk : Kept} {s : State} (j : ScrubJob) (hk : Tame kk (kept s)) : Tame kk (kept (endScrub j s)) := by
  unfold endScrub
  have g : ∀ t : State, Tame kk (kept t) → Tame kk (kept (match j.cmd with
      | some c => finishCmd c .ok .none [] t
      | none => t)) := by
    intro t ht; split
    · simpa using ht
    · exact ht
  have h1 := scrubbed_tame j hk
  generalize scrubbed j s = s1 at h1
  dsimp only
  split
  · exact g _ h1
  · split
    · rw [emit_kept, setTdi_kept]; exact g _ (by simpa using h1)
    · exact g _ (by simpa using h1)
  · exact g _ (by simpa using h1)
  · first | exact unlocked_tame h1 | (rw [unlocked_kept]; exact h1)
  · first | exact decommissioned_tame h1 | (rw [decommissioned_kept]; exact h1)

theorem execScrubDone_tame (job : Nat) (s : State) : TameOut s (execScrubDone job s) := by
  unfold execScrubDone
  apply tameOut_next
  split
  · split
    · exact endScrub_tame _ (Tame.refl _)
    · exact Tame.refl _
  · exact Tame.refl _

@[simp] theorem toBoot_kept (w : Warden) (s : State) : kept (toBoot w s) = kept s := by
  unfold toBoot
  simp

@[simp] theorem endHold_kept (s : State) : kept (endHold s) = kept s := by
  unfold endHold
  simp

theorem execResultReady_keeps (polder : Nat) (run : Nat) (channel : Nat) (payload : List Byte) (s : State) : Keeps s (execResultReady polder run channel payload s) := by
  unfold execResultReady
  apply keeps_next
  repeat' first | with_reducible rfl | (simp; done) | split

@[simp] theorem keepTrajectory_kept (w : Warden) (v : Vote) (d : BitVec 128) (s : State) : kept (keepTrajectory w v d s) = kept s := by
  unfold keepTrajectory
  repeat' first | with_reducible rfl | (simp; done) | split

@[simp] theorem releaseHold_kept (traj : Option Trajectory) (v : Vote) (s : State) : kept (releaseHold traj v s) = kept s := by
  unfold releaseHold
  repeat' first | with_reducible rfl | (simp; done) | split

@[simp] theorem setVote_kept (w : Warden) (v : Vote) (s : State) : kept (setVote w v s) = kept s := by
  unfold setVote
  simp

@[simp] theorem emitVoted_kept (w : Warden) (v : Vote) (d : BitVec 128) (s : State) : kept (emitVoted w v d s) = kept s := by
  unfold emitVoted
  simp

@[simp] theorem badLane_kept (w : Warden) (lane : Nat) (s : State) : kept (badLane w lane s) = kept s := by
  unfold badLane
  simp

@[simp] theorem discardFrame_kept (crc : Bool) (w : Warden) (stack : Nat) (s : State) : kept (discardFrame crc w stack s) = kept s := by
  unfold discardFrame
  first | (simp; done) | (repeat' first | with_reducible rfl | (simp; done) | with_reducible refine (foldl_kept _ _ _ fun _ _ => ?_).trans ?_ | split)

theorem execVoteFrame_keeps (w : Warden) (f : VoteFrame) (s : State) : Keeps s (execVoteFrame w f s) := by
  unfold execVoteFrame
  apply keeps_next
  repeat' first | with_reducible rfl | (simp; done) | split | dsimp only

theorem execVoteCutoff_keeps (w : Warden) (s : State) : Keeps s (execVoteCutoff w s) := by
  unfold execVoteCutoff
  apply keeps_next
  simp

theorem execVerdict_keeps (w : Warden) (lines : List VerdictLine) (s : State) : Keeps s (execVerdict w lines s) := by
  unfold execVerdict
  apply keeps_next
  simp

@[simp] theorem applyDecided_kept (d : Decided) (s : State) : kept (applyDecided d s) = kept s := by
  unfold applyDecided
  simp

@[simp] theorem mute_kept (w : Warden) (s : State) : kept (mute w s) = kept s := by
  unfold mute
  simp

@[simp] theorem judgeConflict_kept (s : State) : kept (judgeConflict s) = kept s := by
  unfold judgeConflict
  simp

@[simp] theorem decideVotes_kept (s : State) : kept (decideVotes s) = kept s := by
  unfold decideVotes
  simp

@[simp] theorem newVotes_kept (s : State) : kept (newVotes s) = kept s := by
  unfold newVotes
  simp

@[simp] theorem missResult_kept (p : Nat) (r : Nat) (y : Run) (i : Invocation) (s : State) : kept (missResult p r y i s) = kept s := by
  unfold missResult
  simp

theorem commitS_tame {kk : Kept} {s : State} (ix : Nat) (p : Nat) (r : Nat) (i : Invocation) (hk : Tame kk (kept s)) : Tame kk (kept (commitS ix p r i s)) := by
  unfold commitS
  repeat' first | assumption | with_reducible apply commitResult_tame | with_reducible refine Tame.foldl (fun _ _ _ => ?_) ?_ | (simp only [kept_mk, kept_mk_mem, kept_mk_ident]; done) | (simp only [kept_mk, kept_mk_mem, kept_mk_ident, completeInv_kept, setRun_kept, missResult_kept]) | split | dsimp only

theorem commitClassS_tame {kk : Kept} {s : State} (ix : Nat) (hk : Tame kk (kept s)) : Tame kk (kept (commitClassS ix s)) := by
  refine forRuns_tame (fun p r s h => ?_) hk
  split
  · exact h
  · split
    · exact Tame.foldl (fun _ _ h => commitS_tame _ _ _ _ h) h
    · exact h

theorem execSegmentSent_keeps (w : Warden) (port : Nat) (s : State) : Keeps s (execSegmentSent w port s) := by
  unfold execSegmentSent
  apply keeps_next
  repeat' first | with_reducible rfl | (simp; done) | split | dsimp only

theorem execFallbackPointRelease_keeps (w : Warden) (s : State) : Keeps s (execFallbackPointRelease w s) := by
  unfold execFallbackPointRelease
  apply keeps_next
  repeat' first | with_reducible rfl | (simp; done) | split | dsimp only

@[simp] theorem marksResumed_kept (w : Warden) (s : State) : kept (marksResumed w s) = kept s := by
  unfold marksResumed
  simp

@[simp] theorem marksReturn_kept (s : State) : kept (marksReturn s) = kept s := by
  unfold marksReturn
  repeat' first | with_reducible rfl | (simp; done) | split

theorem execWardenTideMark_keeps (w : Warden) (count : Nat) (relabel : Bool) (late : Bool) (s : State) : Keeps s (execWardenTideMark w count relabel late s) := by
  unfold execWardenTideMark
  apply keeps_next
  simp

@[simp] theorem wardenHold_kept (w : Warden) (s : State) : kept (wardenHold w s) = kept s := by
  unfold wardenHold
  simp

theorem execTideMarkMissing_keeps (w : Warden) (s : State) : Keeps s (execTideMarkMissing w s) := by
  unfold execTideMarkMissing
  apply keeps_next
  simp

theorem execWardenBootDone_keeps (w : Warden) (injectionOk : Bool) (s : State) : Keeps s (execWardenBootDone w injectionOk s) := by
  unfold execWardenBootDone
  apply keeps_next
  simp

theorem execWardenLockstepMismatch_keeps (w : Warden) (s : State) : Keeps s (execWardenLockstepMismatch w s) := by
  unfold execWardenLockstepMismatch
  apply keeps_next
  simp

@[simp] theorem forceDrop_kept (s : State) : kept (forceDrop s) = kept s := by
  unfold forceDrop
  simp

@[simp] theorem recordEnergy_kept (e : EdgeIn) (s : State) : kept (recordEnergy e s) = kept s := by
  unfold recordEnergy
  simp

@[simp] theorem setHotspot_kept (s : State) (i : Nat) (h : Hotspot) : kept (setHotspot s i h) = kept s := by
  unfold setHotspot
  simp

@[simp] theorem takeReading_kept (s : State) (x : Nat × Option Int × Option Int) : kept (takeReading s x) = kept s := by
  unfold takeReading
  simp

@[simp] theorem paceTiles_kept (s : State) : kept (paceTiles s) = kept s := by
  unfold paceTiles
  simp

@[simp] theorem latchCoolant_kept (s : State) : kept (latchCoolant s) = kept s := by
  unfold latchCoolant
  simp

@[simp] theorem senseHeat_kept (e : EdgeIn) (s : State) : kept (senseHeat e s) = kept s := by
  unfold senseHeat
  simp

@[simp] theorem prepareOp_kept (k : Nat) (s : State) : kept (prepareOp k s) = kept s := by
  unfold prepareOp
  first | (simp; done) | (repeat' first | with_reducible rfl | (simp; done) | with_reducible refine (foldl_kept _ _ _ fun _ _ => ?_).trans ?_ | split)

@[simp] theorem switchOp_kept (k : Nat) (s : State) : kept (switchOp k s) = kept s := by
  unfold switchOp
  first | (simp; done) | (repeat' first | with_reducible rfl | (simp; done) | with_reducible refine (foldl_kept _ _ _ fun _ _ => ?_).trans ?_ | split)

@[simp] theorem finishRise_kept (s : State) : kept (finishRise s) = kept s := by
  unfold finishRise
  first | (simp; done) | (repeat' first | with_reducible rfl | (simp; done) | with_reducible refine (foldl_kept _ _ _ fun _ _ => ?_).trans ?_ | split)

@[simp] theorem chooseOp_kept (s : State) : kept (chooseOp s) = kept s := by
  unfold chooseOp
  simp

@[simp] theorem reportDeficit_kept (s : State) : kept (reportDeficit s) = kept s := by
  unfold reportDeficit
  repeat' first | with_reducible rfl | (simp; done) | split

@[simp] theorem countLadder_kept (s : State) : kept (countLadder s) = kept s := by
  unfold countLadder
  simp

theorem execRungClimb_keeps (s : State) : Keeps s (execRungClimb s) := by
  unfold execRungClimb
  apply keeps_next
  simp

theorem execRungLift_keeps (s : State) : Keeps s (execRungLift s) := by
  unfold execRungLift
  apply keeps_next
  simp

theorem execPowerModelMismatch_keeps (s : State) : Keeps s (execPowerModelMismatch s) := by
  unfold execPowerModelMismatch
  apply keeps_next
  repeat' first | with_reducible rfl | (simp; done) | split

theorem execSensorSuspect_keeps (hotspot : Nat) (s : State) : Keeps s (execSensorSuspect hotspot s) := by
  unfold execSensorSuspect
  apply keeps_next
  simp

@[simp] theorem expireLease_kept (s : State) : kept (expireLease s) = kept s := by
  unfold expireLease
  repeat' first | with_reducible rfl | (simp; done) | split

theorem execLeaseExpiry_keeps (s : State) : Keeps s (execLeaseExpiry s) := by
  unfold execLeaseExpiry
  apply keeps_next
  simp

theorem execCoolantSample_keeps (flow : Nat) (inlet : Int) (outlet : Int) (hotRise : Bool) (s : State) : Keeps s (execCoolantSample flow inlet outlet hotRise s) := by
  unfold execCoolantSample
  apply keeps_next
  simp

theorem execFlowWarning_keeps (s : State) : Keeps s (execFlowWarning s) := by
  unfold execFlowWarning
  apply keeps_next
  simp

theorem execFlowWarningEnd_keeps (s : State) : Keeps s (execFlowWarningEnd s) := by
  unfold execFlowWarningEnd
  apply keeps_next
  simp

theorem execFlowBShed_keeps (s : State) : Keeps s (execFlowBShed s) := by
  unfold execFlowBShed
  apply keeps_next
  simp

theorem execFlowBShedEnd_keeps (s : State) : Keeps s (execFlowBShedEnd s) := by
  unfold execFlowBShedEnd
  apply keeps_next
  simp

theorem execCoolantStop_keeps (s : State) : Keeps s (execCoolantStop s) := by
  unfold execCoolantStop
  apply keeps_next
  simp

@[simp] theorem stopCoolant_kept (s : State) : kept (stopCoolant s) = kept s := by
  unfold stopCoolant
  simp

theorem execCoolantStopEnd_keeps (s : State) : Keeps s (execCoolantStopEnd s) := by
  unfold execCoolantStopEnd
  apply keeps_next
  simp

theorem execThermalComparatorTrip_keeps (hotspot : Nat) (a : Int) (b : Int) (s : State) : Keeps s (execThermalComparatorTrip hotspot a b s) := by
  unfold execThermalComparatorTrip
  apply keeps_next
  simp

theorem execBrakeAssert_keeps (s : State) : Keeps s (execBrakeAssert s) := by
  unfold execBrakeAssert
  apply keeps_next
  simp

theorem execBrakeRelease_keeps (s : State) : Keeps s (execBrakeRelease s) := by
  unfold execBrakeRelease
  apply keeps_next
  simp

@[simp] theorem releaseBrake_kept (s : State) : kept (releaseBrake s) = kept s := by
  unfold releaseBrake
  repeat' first | with_reducible rfl | (simp; done) | split

@[simp] theorem applySetPhaseOp_kept (h : Hdr) (ops : List Nat) (s : State) : kept (applySetPhaseOp h ops s) = kept s := by
  unfold applySetPhaseOp
  simp

@[simp] theorem applySetPowerCap_kept (c : Instr) (capW : Nat) (windowS : Nat) (leaseS : Nat) (orphanW : Nat) (s : State) : kept (applySetPowerCap c capW windowS leaseS orphanW s) = kept s := by
  unfold applySetPowerCap
  repeat' first | with_reducible rfl | (simp; done) | split

theorem execSetPhaseOp_keeps (h : Hdr) (ops : List Nat) (s : State) : Keeps s (execSetPhaseOp h ops s) := by
  unfold execSetPhaseOp
  apply keeps_next
  simp

theorem execSetPowerCap_keeps (h : Hdr) (capW : Nat) (windowS : Nat) (leaseS : Nat) (orphanW : Nat) (s : State) : Keeps s (execSetPowerCap h capW windowS leaseS orphanW s) := by
  unfold execSetPowerCap
  apply keeps_next
  simp

@[simp] theorem setReq_kept (p : Nat) (r : Request) (s : State) : kept (setReq p r s) = kept s := by
  unfold setReq
  simp

@[simp] theorem holdEntries_kept (p : Nat) (k : Nat) (es : List PfxEntry) (s : State) : kept (holdEntries p k es s) = kept s := by
  unfold holdEntries
  simp

@[simp] theorem releaseEntries_kept (p : Nat) (k : Nat) (s : State) : kept (releaseEntries p k s) = kept s := by
  unfold releaseEntries
  simp

@[simp] theorem dropEntry_kept (e : PfxEntry) (s : State) : kept (dropEntry e s) = kept s := by
  unfold dropEntry
  simp

@[simp] theorem makeRoom_kept (share frames p n : Nat) (s : State) : kept (makeRoom share frames p n s) = kept s := by
  induction n generalizing s with
  | zero => rfl
  | succ n ih =>
    unfold makeRoom
    repeat' first | with_reducible rfl | (simp [ih]; done) | split | dsimp only

@[simp] theorem enterBlock_kept (p : Nat) (key : Nat × Nat) (model : BitVec 384) (r : Request)
    (q : BitVec 128 × BitVec 128 × List Nat) (frame : Nat) (s : State) : kept (enterBlock p key model r q frame s).1 = kept s := by
  unfold enterBlock
  repeat' first | with_reducible rfl | (simp; done) | split | dsimp only | rfl

theorem reserve_tame {kk : Kept} {s t : State} (p : Nat) (r : Request) (hk : Tame kk (kept s)) (e : reserve p r s = some t) :
    Tame kk (kept t) := by
  unfold reserve at e
  split at e
  · dsimp only at e
    split at e
    · cases e
    · cases e
      split
      · exact extentWrite_tame _ _ _ (claimAll_tame _ _ _ (by rw [setReq_kept, holdEntries_kept]; exact hk))
      · exact claimAll_tame _ _ _ (by rw [setReq_kept, holdEntries_kept]; exact hk)
  · cases e

@[simp] theorem freePage_kept (p : Nat) (k : Nat) (n : Nat) (e : PageEntry) (s : State) : kept (freePage p k n e s) = kept s := by
  unfold freePage
  first | (simp; done) | (repeat' first | with_reducible rfl | (simp; done) | with_reducible refine (foldl_kept _ _ _ fun _ _ => ?_).trans ?_ | split)

@[simp] theorem endRequest_kept (p : Nat) (r : Request) (st : Status) (s : State) : kept (endRequest p r st s) = kept s := by
  unfold endRequest
  simp

theorem admitRequest_tame {kk : Kept} {s : State} (p k : Nat) (hk : Tame kk (kept s)) : Tame kk (kept (admitRequest p k s)) := by
  unfold admitRequest
  split
  · split
    · rename_i h; exact reserve_tame _ _ hk h
    · rw [endRequest_kept]; exact hk
  · exact hk

theorem applyRequestSubmit_tame {kk : Kept} {s : State} (c : Instr) (hd : Hdr) (tag : Tag) (intakeIx : Nat) (handle : Nat) (variant : Nat) (deadline : Nat) (reqLen : Nat) (d : ReqDesc) (hk : Tame kk (kept s)) : Tame kk (kept (applyRequestSubmit c hd tag intakeIx handle variant deadline reqLen d s)) := by
  unfold applyRequestSubmit
  repeat' first | assumption | with_reducible apply admitRequest_tame | with_reducible refine Tame.foldl (fun _ _ _ => ?_) ?_ | (simp only [kept_mk, kept_mk_mem, kept_mk_ident]; done) | (simp only [kept_mk, kept_mk_mem, kept_mk_ident, finish_kept, modPolder_kept]) | split | dsimp only

@[simp] theorem cancelCommitting_kept (p : Nat) (sluice : Nat) (seq : Word) (s : State) : kept (cancelCommitting p sluice seq s) = kept s := by
  unfold cancelCommitting
  simp

@[simp] theorem applyRequestCancel_kept (h : Hdr) (seq : Word) (sluice : Nat) (s : State) : kept (applyRequestCancel h seq sluice s) = kept s := by
  unfold applyRequestCancel
  repeat' first | with_reducible rfl | (simp; done) | split | dsimp only

@[simp] theorem enterFull_kept (p : Nat) (r : Request) (s : State) : kept (enterFull p r s).1 = kept s := by
  unfold enterFull
  split
  · refine foldl_kept_fst _ _ _ fun x a => ?_
    dsimp only
    split
    · split
      · rfl
      · split
        · simp
        · rfl
    · rfl
  · rfl

@[simp] theorem writeToken_kept (p : Nat) (r : Request) (t : Nat) (s : State) : kept (writeToken p r t s) = kept s := by
  unfold writeToken
  simp

@[simp] theorem commitRequest_kept (withheld : Bool) (p : Nat) (k : Nat) (s : State) : kept (commitRequest withheld p k s) = kept s := by
  unfold commitRequest
  repeat' first | with_reducible rfl | (simp; done) | split | dsimp only

@[simp] theorem commitServing_kept (s : State) : kept (commitServing s) = kept s := by
  unfold commitServing
  simp

@[simp] theorem dropSteps_kept (s : State) : kept (dropSteps s) = kept s := by
  unfold dropSteps
  simp

@[simp] theorem switchPages_kept (s : State) : kept (switchPages s) = kept s := by
  unfold switchPages
  simp

@[simp] theorem setPage_kept (p : Nat) (k : Nat) (j : Nat) (f : PageEntry → PageEntry) (s : State) : kept (setPage p k j f s) = kept s := by
  unfold setPage
  repeat' first | with_reducible rfl | (simp; done) | split

theorem execKvCopyDone_tame (p : Nat) (sluice : Nat) (seq : Word) (page : Nat) (s : State) : TameOut s (execKvCopyDone p sluice seq page s) := by
  refine tameOut_next ?_
  have hk := Tame.refl (kept s)
  repeat' first | assumption | with_reducible apply extCopy_tame | with_reducible refine Tame.foldl (fun _ _ _ => ?_) ?_ | (simp only [kept_mk, kept_mk_mem, kept_mk_ident]; done) | (simp only [kept_mk, kept_mk_mem, kept_mk_ident, setPage_kept]) | split | dsimp only

theorem takeCopy_tame {kk : Kept} {s t : State} {f : Nat} (p c n : Nat) (x : PageEntry) (hk : Tame kk (kept s))
    (e : takeCopy p c n x s = some (f, t)) : Tame kk (kept t) := by
  unfold takeCopy at e
  rw [Option.map_eq_some_iff] at e
  obtain ⟨⟨b, u⟩, ha, hb⟩ := e
  have hu := takeRun_tame p c n hk ha
  split at hb
  · cases hb
    dsimp only
    split
    · first | exact regroup_tame _ _ _ _ hu | (rw [regroup_kept]; exact hu)
    · exact hu
  · cases hb; exact hu

theorem beginCopy_tame {kk : Kept} {s : State} (p k j st t : Nat) (hk : Tame kk (kept s)) :
    Tame kk (kept (beginCopy p k j st t s)) := by
  unfold beginCopy
  split
  · split
    · rename_i h
      rw [Option.bind_eq_some_iff] at h
      obtain ⟨e, -, h⟩ := h
      rw [setPage_kept]
      exact takeCopy_tame _ _ _ _ hk h
    · exact hk
  · exact hk

theorem beginSpill_tame {kk : Kept} {s : State} (p : Nat) (k : Nat) (j : Nat) (hk : Tame kk (kept s)) : Tame kk (kept (beginSpill p k j s)) := by
  unfold beginSpill
  repeat' first | assumption | with_reducible apply beginCopy_tame | with_reducible refine Tame.foldl (fun _ _ _ => ?_) ?_ | (simp only [kept_mk, kept_mk_mem, kept_mk_ident]; done) | (simp only [kept_mk, kept_mk_mem, kept_mk_ident, setReq_kept]) | split | dsimp only

theorem spillBlocks_tame {kk : Kept} {s : State} (p : Nat) (vs : List Nat) (l : List (Nat × Nat)) (short : Nat)
    (hk : Tame kk (kept s)) : Tame kk (kept (spillBlocks p vs l short s)) := by
  induction l generalizing short s with
  | nil => exact hk
  | cons a l ih =>
    obtain ⟨k, j⟩ := a
    unfold spillBlocks
    split
    · exact hk
    · split
      · split
        · exact ih _ (beginSpill_tame _ _ _ hk)
        · exact ih _ hk
      · exact ih _ hk
    · exact hk

theorem beginPrefetch_tame {kk : Kept} {s : State} (p : Nat) (k : Nat) (hk : Tame kk (kept s)) : Tame kk (kept (beginPrefetch p k s)) := by
  unfold beginPrefetch
  repeat' first | assumption | with_reducible apply beginCopy_tame | with_reducible refine Tame.foldl (fun _ _ _ => ?_) ?_ | (simp only [kept_mk, kept_mk_mem, kept_mk_ident]; done) | (simp only [kept_mk, kept_mk_mem, kept_mk_ident]) | split | dsimp only

theorem balancePolder_tame {kk : Kept} {s : State} (p : Nat) (hk : Tame kk (kept s)) : Tame kk (kept (balancePolder p s)) := by
  unfold balancePolder
  split
  · exact hk
  · dsimp only
    split
    · rw [makeRoom_kept]; exact hk
    · exact Tame.foldl (fun _ _ h => beginPrefetch_tame _ _ h) (spillBlocks_tame _ _ _ _ (by rw [makeRoom_kept]; exact hk))

theorem addBlocks_tame {kk : Kept} {s : State} (p k n : Nat) (hk : Tame kk (kept s)) : Tame kk (kept (addBlocks p k n s)) := by
  induction n generalizing s with
  | zero => exact hk
  | succ n ih =>
    unfold addBlocks
    split
    · split
      · rename_i h
        exact ih (by rw [setReq_kept]; exact takeRun_tame _ _ _ hk h)
      · exact hk
    · exact hk

theorem allocate_tame {kk : Kept} {s : State} (p k pages : Nat) (hk : Tame kk (kept s)) :
    Tame kk (kept (allocate p k pages s)) := addBlocks_tame _ _ _ hk

@[simp] theorem charge_kept (p : Nat) (k : Nat) (n : Nat) (s : State) : kept (charge p k n s) = kept s := by
  unfold charge
  repeat' first | with_reducible rfl | (simp; done) | split | dsimp only

@[simp] theorem abandonSpill_kept (p : Nat) (k : Nat) (n : Nat) (s : State) (j : Nat) : kept (abandonSpill p k n s j) = kept s := by
  unfold abandonSpill
  first | (simp; done) | (repeat' first | with_reducible rfl | (simp; done) | with_reducible refine (foldl_kept _ _ _ fun _ _ => ?_).trans ?_ | split)

theorem launchStep_tame {kk : Kept} {s : State} (p : Nat) (k : Nat) (w : StepWork) (positions : Nat) (tokens : Nat) (hk : Tame kk (kept s)) : Tame kk (kept (launchStep p k w positions tokens s)) := by
  unfold launchStep
  repeat' first | assumption | with_reducible apply allocate_tame | with_reducible refine Tame.foldl (fun _ _ _ => ?_) ?_ | (simp only [kept_mk, kept_mk_mem, kept_mk_ident]; done) | (simp only [kept_mk, kept_mk_mem, kept_mk_ident, abandonSpill_kept, charge_kept, setReq_kept]) | split | dsimp only

theorem tryDecode_tame {kk : Kept} (p batch : Nat) (a : State × Nat) (k : Nat) (hk : Tame kk (kept a.1)) :
    Tame kk (kept (tryDecode p batch a k).1) := by
  unfold tryDecode
  split
  · dsimp only
    split
    · exact launchStep_tame _ _ _ _ _ hk
    · exact hk
  · exact hk

theorem tryPrefill_tame {kk : Kept} (p : Nat) (a : State × Nat) (k : Nat) (hk : Tame kk (kept a.1)) :
    Tame kk (kept (tryPrefill p a k).1) := by
  unfold tryPrefill
  split
  · split
    · exact hk
    · dsimp only
      split
      · exact hk
      · exact launchStep_tame _ _ _ _ _ hk
  · exact hk

@[simp] theorem recordSpread_kept (p : Nat) (h : Nat) (s : State) : kept (recordSpread p h s) = kept s := by
  unfold recordSpread
  repeat' first | with_reducible rfl | (simp; done) | split

theorem Tame.foldl_fst {α β : Type} {kk : Kept} {f : State × β → α → State × β}
    (h : ∀ x a, Tame kk (kept x.1) → Tame kk (kept (f x a).1)) {l : List α} {x : State × β} (hs : Tame kk (kept x.1)) :
    Tame kk (kept (l.foldl f x).1) := by
  induction l generalizing x with
  | nil => exact hs
  | cons a l ih => exact ih (h _ _ hs)

theorem serveGraph_tame {kk : Kept} {s : State} (p h : Nat) (hk : Tame kk (kept s)) : Tame kk (kept (serveGraph p h s)) := by
  unfold serveGraph
  split
  · split
    · exact hk
    · split
      · exact hk
      · extract_lets pending s1
        have h1 : Tame kk (kept s1) := by
          refine Tame.foldl (fun t k ht => ?_) hk
          split
          · exact admitRequest_tame _ _ ht
          · exact ht
        clear_value s1
        split
        · exact h1
        · dsimp only
          refine Tame.foldl_fst (fun _ _ h => tryPrefill_tame _ _ _ h) ?_
          exact Tame.foldl_fst (fun _ _ h => tryDecode_tame _ _ _ _ h) h1
  · exact hk

theorem syncTable_tame {kk : Kept} {s : State} (p : Nat) (k : Nat) (hk : Tame kk (kept s)) : Tame kk (kept (syncTable p s k)) := by
  unfold syncTable
  repeat' first | assumption | with_reducible apply extentWrite_tame | with_reducible refine Tame.foldl (fun _ _ _ => ?_) ?_ | (simp only [kept_mk, kept_mk_mem, kept_mk_ident]; done) | (simp only [kept_mk, kept_mk_mem, kept_mk_ident]) | split | dsimp only

theorem serveEdge_tame {kk : Kept} {s : State}  (hk : Tame kk (kept s)) : Tame kk (kept (serveEdge s)) := by
  unfold serveEdge
  repeat' first | assumption | with_reducible apply balancePolder_tame | with_reducible apply serveGraph_tame | with_reducible apply syncTable_tame | with_reducible refine Tame.foldl (fun _ _ _ => ?_) ?_ | (simp only [kept_mk, kept_mk_mem, kept_mk_ident]; done) | (simp only [kept_mk, kept_mk_mem, kept_mk_ident, recordSpread_kept]) | split | dsimp only

theorem execRequestSubmit_keeps (h : Hdr) (handle : Nat) (variant : Nat) (deadline : Nat) (reqLen : Nat) (req : ReqDesc) (s : State) : Keeps s (execRequestSubmit h handle variant deadline reqLen req s) := by
  unfold execRequestSubmit
  apply keeps_next
  simp

theorem execRequestCancel_keeps (h : Hdr) (reqSeq : Word) (reqSluice : Nat) (s : State) : Keeps s (execRequestCancel h reqSeq reqSluice s) := by
  unfold execRequestCancel
  apply keeps_next
  simp

@[simp] theorem startSlice_kept (stack : Nat) (tile : Nat) (s : State) : kept (startSlice stack tile s) = kept s := by
  unfold startSlice
  repeat' first | with_reducible rfl | (simp; done) | split | dsimp only

@[simp] theorem patrolled_kept (stack : Nat) (tile : Nat) (k : Nat) (s : State) : kept (patrolled stack tile k s) = kept s := by
  unfold patrolled
  first | (simp; done) | (repeat' first | with_reducible rfl | (simp; done) | with_reducible refine (foldl_kept _ _ _ fun _ _ => ?_).trans ?_ | split)

@[simp] theorem slicePassed_kept (stack : Nat) (tile : Nat) (key : Nat) (s : State) : kept (slicePassed stack tile key s) = kept s := by
  unfold slicePassed
  simp

@[simp] theorem sliceFailed_kept (stack : Nat) (tile : Nat) (key : Nat) (s : State) : kept (sliceFailed stack tile key s) = kept s := by
  unfold sliceFailed
  simp

@[simp] theorem outsideEnd_kept (item : Nat) (k : Nat) (passed : Bool) (s : State) : kept (outsideEnd item k passed s) = kept s := by
  unfold outsideEnd
  repeat' first | with_reducible rfl | (simp; done) | split | dsimp only

theorem execSelftestSliceEnd_keeps (stack : Nat) (tile : Nat) (item : Nat) (number : Nat) (passed : Bool) (s : State) : Keeps s (execSelftestSliceEnd stack tile item number passed s) := by
  unfold execSelftestSliceEnd
  apply keeps_next
  simp

theorem execSlicePreempt_keeps (stack : Nat) (tile : Nat) (s : State) : Keeps s (execSlicePreempt stack tile s) := by
  unfold execSlicePreempt
  apply keeps_next
  simp

@[simp] theorem judgeTile_kept (swell : Bool) (key : Nat) (t : TileTest) (s : State) : kept (judgeTile swell key t s) = kept s := by
  unfold judgeTile
  repeat' first | with_reducible rfl | (simp; done) | split

@[simp] theorem judgeTiles_kept (s : State) : kept (judgeTiles s) = kept s := by
  unfold judgeTiles
  simp

@[simp] theorem saveLine_kept (p : Nat) (a : Nat) (s : State) : kept (saveLine p a s) = kept s := by
  unfold saveLine
  first | (simp; done) | (repeat' first | with_reducible rfl | (simp; done) | with_reducible refine (foldl_kept _ _ _ fun _ _ => ?_).trans ?_ | split)

theorem storeLine_tame {kk : Kept} {s : State} (p : Nat) (holder : Nat) (stack : Nat) (tile : Nat) (line : Nat) (offset : Nat) (bytes : List Byte) (hk : Tame kk (kept s)) : Tame kk (kept (storeLine p holder stack tile line offset bytes s)) := by
  unfold storeLine
  repeat' first | assumption | with_reducible apply sramWrite_tame | with_reducible refine Tame.foldl (fun _ _ _ => ?_) ?_ | (simp only [kept_mk, kept_mk_mem, kept_mk_ident]; done) | (simp only [kept_mk, kept_mk_mem, kept_mk_ident, saveLine_kept, grantLine_kept]) | split | dsimp only

theorem storeSram_tame {kk : Kept} {s : State} (p : Nat) (holder : Nat) (stack : Nat) (tile : Nat) (line : Nat) (offset : Nat) (bytes : List Byte) (hk : Tame kk (kept s)) : Tame kk (kept (storeSram p holder stack tile line offset bytes s)) := by
  unfold storeSram
  repeat' first | assumption | with_reducible apply storeLine_tame | with_reducible refine Tame.foldl (fun _ _ _ => ?_) ?_ | (simp only [kept_mk, kept_mk_mem, kept_mk_ident]; done) | (simp only [kept_mk, kept_mk_mem, kept_mk_ident]) | split | dsimp only

theorem storeFrame_tame {kk : Kept} {s : State} (p : Nat) (t : Nat) (es : List Extent) (line : Nat) (offset : Nat) (bytes : List Byte) (hk : Tame kk (kept s)) : Tame kk (kept (storeFrame p t es line offset bytes s)) := by
  unfold storeFrame
  repeat' first | assumption | with_reducible apply extWrite_tame | with_reducible refine Tame.foldl (fun _ _ _ => ?_) ?_ | (simp only [kept_mk, kept_mk_mem, kept_mk_ident]; done) | (simp only [kept_mk, kept_mk_mem, kept_mk_ident, saveLine_kept]) | split | dsimp only

@[simp] theorem touchTensor_kept (p : Nat) (h : Nat) (tensor : Nat) (s : State) : kept (touchTensor p h tensor s) = kept s := by
  unfold touchTensor
  first | (simp; done) | (repeat' first | with_reducible rfl | (simp; done) | with_reducible refine (foldl_kept _ _ _ fun _ _ => ?_).trans ?_ | split)

theorem storeWork_tame {kk : Kept} {s : State} (who : WorkRef) (stack : Nat) (tile : Nat) (tensor : Nat) (line : Nat) (offset : Nat) (bytes : List Byte) (hk : Tame kk (kept s)) : Tame kk (kept (storeWork who stack tile tensor line offset bytes s)) := by
  unfold storeWork
  repeat' first | assumption | with_reducible apply storeSram_tame | with_reducible apply storeFrame_tame | with_reducible refine Tame.foldl (fun _ _ _ => ?_) ?_ | (simp only [kept_mk, kept_mk_mem, kept_mk_ident]; done) | (simp only [kept_mk, kept_mk_mem, kept_mk_ident, touchTensor_kept]) | split | dsimp only

@[simp] theorem grantRead_kept (q : QuantumEnd) (s : State) : kept (grantRead q s) = kept s := by
  unfold grantRead
  first | (simp; done) | (repeat' first | with_reducible rfl | (simp; done) | with_reducible refine (foldl_kept _ _ _ fun _ _ => ?_).trans ?_ | split)

theorem restoreLine_tame {kk : Kept} {s : State} (l : SavedLine) (hk : Tame kk (kept s)) : Tame kk (kept (restoreLine l s)) := by
  unfold restoreLine
  dsimp only
  split
  · exact hk.mem rfl (memWf_writeBytes _ _ _)
  · exact extWrite_tame _ _ _ _ hk

theorem undoStores_tame {kk : Kept} {s : State} (p : Nat) (hk : Tame kk (kept s)) : Tame kk (kept (undoStores p s)) := by
  unfold undoStores
  repeat' first | assumption | with_reducible apply restoreLine_tame | with_reducible refine Tame.foldl (fun _ _ _ => ?_) ?_ | (simp only [kept_mk, kept_mk_mem, kept_mk_ident]; done) | (simp only [kept_mk, kept_mk_mem, kept_mk_ident, modPolder_kept]) | split | dsimp only

theorem undoAll_tame {kk : Kept} {s : State}  (hk : Tame kk (kept s)) : Tame kk (kept (undoAll s)) := by
  unfold undoAll
  repeat' first | assumption | with_reducible apply undoStores_tame | with_reducible refine Tame.foldl (fun _ _ _ => ?_) ?_ | (simp only [kept_mk, kept_mk_mem, kept_mk_ident]; done) | (simp only [kept_mk, kept_mk_mem, kept_mk_ident]) | split | dsimp only

theorem blockWrite_tame {kk : Kept} {s : State} (t : Nat) (frame : Nat) (off : Nat) (bs : List Byte) (hk : Tame kk (kept s)) : Tame kk (kept (blockWrite t frame off bs s)) := by
  unfold blockWrite
  repeat' first | assumption | with_reducible apply extWrite_tame | with_reducible refine Tame.foldl (fun _ _ _ => ?_) ?_ | (simp only [kept_mk, kept_mk_mem, kept_mk_ident]; done) | (simp only [kept_mk, kept_mk_mem, kept_mk_ident]) | split | dsimp only

@[simp] theorem kvRingWrite_kept (p : Nat) (h : Nat) (position : Nat) (off : Nat) (bs : List Byte) (s : State) : kept (kvRingWrite p h position off bs s) = kept s := by
  unfold kvRingWrite
  first | (simp; done) | (repeat' first | with_reducible rfl | (simp; done) | with_reducible refine (foldl_kept _ _ _ fun _ _ => ?_).trans ?_ | split)

theorem kvWork_tame {kk : Kept} {s : State} (who : WorkRef) (op : Nat) (position : Nat) (layer : Nat) (head : Nat) (values : Bool) (elems : List Nat) (hk : Tame kk (kept s)) : Tame kk (kept (kvWork who op position layer head values elems s)) := by
  unfold kvWork
  repeat' first | assumption | with_reducible apply blockWrite_tame | with_reducible refine Tame.foldl (fun _ _ _ => ?_) ?_ | (simp only [kept_mk, kept_mk_mem, kept_mk_ident]; done) | (simp only [kept_mk, kept_mk_mem, kept_mk_ident, kvRingWrite_kept]) | split | dsimp only

@[simp] theorem runQuantum_kept (p : Nat) (r : Nat) (no : Nat) (isS : Bool) (last : Bool) (tideLast : Bool) (f : Table TensorData → Table TensorData) (w : QWork) (s : State) : kept (runQuantum p r no isS last tideLast f w s) = kept s := by
  unfold runQuantum
  first | (simp; done) | (repeat' first | with_reducible rfl | (simp; done) | with_reducible refine (foldl_kept _ _ _ fun _ _ => ?_).trans ?_ | split)

@[simp] theorem goldenQuantum_kept (p : Nat) (h : Nat) (c : Nat) (last : Bool) (f : Table TensorData → Table TensorData) (s : State) : kept (goldenQuantum p h c last f s) = kept s := by
  unfold goldenQuantum
  first | (simp; done) | (repeat' first | with_reducible rfl | (simp; done) | with_reducible refine (foldl_kept _ _ _ fun _ _ => ?_).trans ?_ | split)

@[simp] theorem stepQuantum_kept (p : Nat) (key : Nat) (last : Bool) (work : QWork) (s : State) : kept (stepQuantum p key last work s) = kept s := by
  unfold stepQuantum
  repeat' first | with_reducible rfl | (simp; done) | split

@[simp] theorem countExc_kept (p : Nat) (n : Nat) (s : State) : kept (countExc p n s) = kept s := by
  unfold countExc
  simp

@[simp] theorem leaveUnits_kept (q : QuantumEnd) (r : Computed) (s : State) : kept (leaveUnits q r s) = kept s := by
  unfold leaveUnits
  first | (simp; done) | (repeat' first | with_reducible rfl | (simp; done) | with_reducible refine (foldl_kept _ _ _ fun _ _ => ?_).trans ?_ | split)

@[simp] theorem checkQuantum_kept (q : QuantumEnd) (r : Computed) (s : State) : kept (checkQuantum q r s) = kept s := by
  unfold checkQuantum
  first | (simp; done) | (repeat' first | with_reducible rfl | (simp; done) | with_reducible refine (foldl_kept _ _ _ fun _ _ => ?_).trans ?_ | split)

theorem memoryWork_tame {kk : Kept} {s : State} (q : QuantumEnd) (hk : Tame kk (kept s)) : Tame kk (kept (memoryWork q s)) := by
  unfold memoryWork
  repeat' first | assumption | with_reducible apply storeWork_tame | with_reducible apply kvWork_tame | with_reducible refine Tame.foldl (fun _ _ _ => ?_) ?_ | (simp only [kept_mk, kept_mk_mem, kept_mk_ident]; done) | (simp only [kept_mk, kept_mk_mem, kept_mk_ident]) | split | dsimp only

@[simp] theorem touchOutput_kept (q : QuantumEnd) (o : OpOut) (s : State) : kept (touchOutput q o s) = kept s := by
  unfold touchOutput
  first | (simp; done) | (repeat' first | with_reducible rfl | (simp; done) | with_reducible refine (foldl_kept _ _ _ fun _ _ => ?_).trans ?_ | split)

theorem quantumEffect_tame {kk : Kept} {s : State} (q : QuantumEnd) (hk : Tame kk (kept s)) :
    Tame kk (kept (quantumEffect q s)) := by
  unfold quantumEffect
  extract_lets r into p s1 s2 s3
  have h1 : kept s1 = kept s := by simp [s1]
  have h2 : Tame kk (kept s2) := by
    simp only [s2]; rw [touchOutput_kept]; exact memoryWork_tame _ (by rw [h1]; exact hk)
  have h3 : kept s3 = kept s2 := by
    simp only [s3]
    split
    · exact runQuantum_kept _ _ _ _ _ _ _ _ _
    · exact stepQuantum_kept _ _ _ _ _
    · exact goldenQuantum_kept _ _ _ _ _ _
  rw [checkQuantum_kept]
  show Tame kk (kept s3)
  rw [h3]; exact h2

theorem execQuantumEnd_tame (q : QuantumEnd) (s : State) : TameOut s (execQuantumEnd q s) := by
  unfold execQuantumEnd
  apply tameOut_next
  split
  · exact Tame.refl _
  · dsimp only
    have := quantumEffect_tame (s := s) q (Tame.refl _)
    split <;> simpa using this

@[simp] theorem stopQuanta_kept (s : State) : kept (stopQuanta s) = kept s := by
  unfold stopQuanta
  simp

theorem execEdgeBand_keeps (s : State) : Keeps s (execEdgeBand s) := by
  unfold execEdgeBand
  apply keeps_next
  simp

@[simp] theorem setSession_kept (n : Nat) (c : Session) (s : State) : kept (setSession n c s) = kept s := by
  unfold setSession
  simp

@[simp] theorem applyCodecOpen_kept (c : Instr) (h : Hdr) (kind : Nat) (profile : Nat) (width : Nat) (height : Nat) (interval : Nat) (k : CodecCfg) (s : State) : kept (applyCodecOpen c h kind profile width height interval k s) = kept s := by
  unfold applyCodecOpen
  simp

theorem openSession_tame {kk : Kept} {s : State} (c : Instr) (y : Session) (hk : Tame kk (kept s)) : Tame kk (kept (openSession c y s)) := by
  unfold openSession
  repeat' first | assumption | with_reducible apply claimAll_tame | with_reducible refine Tame.foldl (fun _ _ _ => ?_) ?_ | (simp only [kept_mk, kept_mk_mem, kept_mk_ident]; done) | (simp only [kept_mk, kept_mk_mem, kept_mk_ident, finishCmd_kept, setSession_kept]) | split | dsimp only

theorem decideCodec_tame {kk : Kept} {s t : State} (c : Instr) (h : Hdr) (kind profile width height interval : Nat) (k : CodecCfg)
    (plans : List Plan) (hk : Tame kk (kept s)) (e : decideCodec c h kind profile width height interval k plans s = some t) :
    Tame kk (kept t) := by
  unfold decideCodec at e
  split at e
  · cases e; rw [finishCmd_kept]; exact hk
  · dsimp only at e
    split at e
    · cases e; rw [finishCmd_kept]; exact hk
    · split at e
      · cases e; rw [finishCmd_kept]; exact hk
      · split at e
        · cases e; exact openSession_tame _ _ hk
        · cases e
        · cases e; rw [finishCmd_kept]; exact hk

@[simp] theorem ringWrite_kept (n : Nat) (c : Session) (bs : List Byte) (s : State) : kept (ringWrite n c bs s) = kept s := by
  unfold ringWrite
  simp

@[simp] theorem emitRecord_kept (n count type flags index arg : Nat) (payload : List Byte) (q : Picture) (s : State) :
    kept (emitRecord n count type flags index arg payload q s).1 = kept s := by
  unfold emitRecord
  repeat' first | with_reducible rfl | (simp; done) | split | dsimp only

theorem emitSlices_kept' (n count f : Nat) (x : State × Picture) : kept (emitSlices n count f x).1 = kept x.1 := by
  induction f generalizing x with
  | zero => rfl
  | succ f ih =>
    obtain ⟨s, q⟩ := x
    unfold emitSlices
    split
    · split
      rename_i heq
      exact (ih _).trans (kept_fst heq (by simp))
    · rfl

@[simp] theorem emitSlices_kept (n count f : Nat) (s : State) (q : Picture) : kept (emitSlices n count f (s, q)).1 = kept s :=
  emitSlices_kept' _ _ _ _

@[simp] theorem withdraw_kept (n : Nat) (count : Nat) (q : Picture) (s : State) : kept (withdraw n count q s) = kept s := by
  unfold withdraw
  simp

@[simp] theorem abandon_kept (n : Nat) (count : Nat) (q : Picture) (s : State) : kept (abandon n count q s) = kept s := by
  unfold abandon
  simp

@[simp] theorem commitRing_kept (n : Nat) (s : State) : kept (commitRing n s) = kept s := by
  unfold commitRing
  repeat' first | with_reducible rfl | (simp; done) | split

@[simp] theorem putPicture_kept (q : Picture) (s : State) : kept (putPicture q s) = kept s := by
  unfold putPicture
  simp

@[simp] theorem dropPicture_kept (q : Picture) (s : State) : kept (dropPicture q s) = kept s := by
  unfold dropPicture
  simp

@[simp] theorem startNext_kept (s : State) : kept (startNext s) = kept s := by
  unfold startNext
  repeat' first | with_reducible rfl | (simp; done) | split

theorem execCodecSliceDone_keeps (session : Nat) (index : Nat) (payload : List Byte) (rows : List Nat) (s : State) : Keeps s (execCodecSliceDone session index payload rows s) := by
  refine keeps_next ?_
  first | (simp; done) | (repeat' first | with_reducible rfl | (simp; done) | with_reducible refine (foldl_kept _ _ _ fun _ _ => ?_).trans ?_ | split)

theorem execCodecPictureDone_keeps (codedBytes : Nat) (planes : List Byte) (found : DecodeFound) (refs : List Nat) (order : Int)
    (head : PictureHead) (s : State) : Keeps s (execCodecPictureDone codedBytes planes found refs order head s) := by
  refine keeps_next ?_
  first | (simp; done) | (repeat' first | with_reducible rfl | (simp; done) | with_reducible refine (foldl_kept _ _ _ fun _ _ => ?_).trans ?_ | split)

@[simp] theorem recode_kept (notBefore : Nat) (q : Picture) (s : State) : kept (recode notBefore q s) = kept s := by
  unfold recode
  repeat' first | with_reducible rfl | (simp; done) | split

theorem execCodecCore_keeps (core : Nat) (s : State) : Keeps s (execCodecCore core s) := by
  unfold execCodecCore
  apply keeps_next
  repeat' first | with_reducible rfl | (simp; done) | split | dsimp only

@[simp] theorem skipPicture_kept (p : Nat) (s : State) : kept (skipPicture p s) = kept s := by
  unfold skipPicture
  simp

@[simp] theorem queuePicture_kept (n : Nat) (c : Session) (cmd : Option Instr) (tag : Tag) (ix : Nat) (input : List Byte) (s : State) : kept (queuePicture n c cmd tag ix input s) = kept s := by
  unfold queuePicture
  first | (simp; done) | (repeat' first | with_reducible rfl | (simp; done) | with_reducible refine (foldl_kept _ _ _ fun _ _ => ?_).trans ?_ | split)

@[simp] theorem streamPicture_kept (n : Nat) (tag : Tag) (input : List Byte) (s : State) : kept (streamPicture n tag input s) = kept s := by
  unfold streamPicture
  first | (simp; done) | (repeat' first | with_reducible rfl | (simp; done) | with_reducible refine (foldl_kept _ _ _ fun _ _ => ?_).trans ?_ | split)

@[simp] theorem deliverCodec_kept (n : Nat) (tag : Tag) (d : Datum) (s : State) : kept (deliverCodec n tag d s) = kept s := by
  unfold deliverCodec
  repeat' first | with_reducible rfl | (simp; done) | split

@[simp] theorem applyCodecPicture_kept (c : Instr) (h : Hdr) (tag : Tag) (session inLen outLen : Nat) (fault : Bool) (s : State) :
    kept (applyCodecPicture c h tag session inLen outLen fault s) = kept s := by
  unfold applyCodecPicture
  dsimp only
  repeat' first | with_reducible rfl | (simp; done) | split

@[simp] theorem endPictures_kept (n : Nat) (st : Status) (shed : Bool) (pick : Picture → Bool) (s : State) : kept (endPictures n st shed pick s) = kept s := by
  unfold endPictures
  repeat' first | with_reducible rfl | (simp; done) | split | (refine (foldl_kept _ _ _ fun _ _ => ?_).trans ?_) | (refine (forRuns_kept _ _ fun _ _ _ => ?_).trans ?_) | (refine (forGraphs_kept _ _ fun _ _ _ => ?_).trans ?_) | dsimp only | rfl

@[simp] theorem applyCodecClose_kept (h : Hdr) (session : Nat) (s : State) : kept (applyCodecClose h session s) = kept s := by
  unfold applyCodecClose
  repeat' first | with_reducible rfl | (simp; done) | split

@[simp] theorem shedPictures_kept (s : State) : kept (shedPictures s) = kept s := by
  unfold shedPictures
  repeat' first | with_reducible rfl | (simp; done) | split | (refine (foldl_kept _ _ _ fun _ _ => ?_).trans ?_) | (refine (forRuns_kept _ _ fun _ _ _ => ?_).trans ?_) | (refine (forGraphs_kept _ _ fun _ _ _ => ?_).trans ?_) | dsimp only | rfl

@[simp] theorem deliverGraph_kept (p : Nat) (h : Nat) (port : Nat) (tag : Tag) (bytes : List Byte) (s : State) : kept (deliverGraph p h port tag bytes s) = kept s := by
  unfold deliverGraph
  repeat' first | with_reducible rfl | (simp; done) | split

@[simp] theorem deliverDecoded_kept (n : Nat) (count : Nat) (bytes : List Byte) (s : State) : kept (deliverDecoded n count bytes s) = kept s := by
  unfold deliverDecoded
  repeat' first | with_reducible rfl | (simp; done) | split

@[simp] theorem finishPicture_kept (q : Picture) (st : Status) (bytes : Nat) (concealed : Bool) (s : State) : kept (finishPicture q st bytes concealed s) = kept s := by
  unfold finishPicture
  repeat' first | with_reducible rfl | (simp; done) | split

@[simp] theorem nextPictureState_kept (n : Nat) (q : Picture) (s : State) : kept (nextPictureState n q s) = kept s := by
  unfold nextPictureState
  repeat' first | with_reducible rfl | (simp; done) | split

@[simp] theorem commitEncode_kept (n : Nat) (count : Nat) (c : Session) (q : Picture) (s : State) : kept (commitEncode n count c q s) = kept s := by
  unfold commitEncode
  repeat' first | with_reducible rfl | (simp; done) | split | dsimp only

@[simp] theorem commitDecode_kept (n : Nat) (count : Nat) (c : Session) (q : Picture) (s : State) : kept (commitDecode n count c q s) = kept s := by
  unfold commitDecode
  repeat' first | with_reducible rfl | (simp; done) | split | dsimp only

@[simp] theorem commitCodec_kept (s : State) : kept (commitCodec s) = kept s := by
  unfold commitCodec
  repeat' first | with_reducible rfl | (simp; done) | split | (refine (foldl_kept _ _ _ fun _ _ => ?_).trans ?_) | (refine (forRuns_kept _ _ fun _ _ _ => ?_).trans ?_) | (refine (forGraphs_kept _ _ fun _ _ _ => ?_).trans ?_) | dsimp only | rfl

@[simp] theorem discardCodec_kept (s : State) : kept (discardCodec s) = kept s := by
  unfold discardCodec
  simp

@[simp] theorem markClosing_kept (p : Nat) (session : Nat) (s : State) : kept (markClosing p session s) = kept s := by
  unfold markClosing
  repeat' first | with_reducible rfl | (simp; done) | split

@[simp] theorem openCodec_kept (s : State) : kept (openCodec s) = kept s := by
  unfold openCodec
  simp

@[simp] theorem feedSessions_kept (p : Nat) (handle : Nat) (tag : Tag) (output : Nat → List Byte) (s : State) : kept (feedSessions p handle tag output s) = kept s := by
  unfold feedSessions
  first | (simp; done) | (repeat' first | with_reducible rfl | (simp; done) | with_reducible refine (foldl_kept _ _ _ fun _ _ => ?_).trans ?_ | split)

theorem execCodecSessionOpen_keeps (h : Hdr) (kind : Nat) (profile : Nat) (width : Nat) (height : Nat) (interval : Nat) (cfg : CodecCfg) (s : State) : Keeps s (execCodecSessionOpen h kind profile width height interval cfg s) := by
  unfold execCodecSessionOpen
  apply keeps_next
  simp

theorem execCodecSessionClose_keeps (h : Hdr) (session : Nat) (s : State) : Keeps s (execCodecSessionClose h session s) := by
  unfold execCodecSessionClose
  apply keeps_next
  simp

theorem execCodecPicture_keeps (h : Hdr) (session : Nat) (inLen : Nat) (inAddr : Word64) (outAddr : Word64) (out : OutArea) (s : State) : Keeps s (execCodecPicture h session inLen inAddr outAddr out s) := by
  refine keeps_next ?_
  first | (simp; done) | (repeat' first | with_reducible rfl | (simp; done) | with_reducible refine (foldl_kept _ _ _ fun _ _ => ?_).trans ?_ | split)

@[simp] theorem resetCounter_kept (b : Bind) (s : State) : kept (resetCounter b s) = kept s := by
  unfold resetCounter
  repeat' first | with_reducible rfl | (simp; done) | split

@[simp] theorem applyStreamBind_kept (h : Hdr) (rank : Nat) (port : Nat) (srcLocal : Nat) (handle : Nat) (unbind : Nat) (srcMod : Nat) (s : State) : kept (applyStreamBind h rank port srcLocal handle unbind srcMod s) = kept s := by
  unfold applyStreamBind
  repeat' first | with_reducible rfl | (simp; done) | split | dsimp only

@[simp] theorem forwardInput_kept (tag : Tag) (d : Datum) (s : State) (m : Nat × Consumer) : kept (forwardInput tag d s m) = kept s := by
  unfold forwardInput
  first | (simp; done) | (repeat' first | with_reducible rfl | (simp; done) | with_reducible refine (foldl_kept _ _ _ fun _ _ => ?_).trans ?_ | split)

theorem execInputArrival_keeps (d : Datum) (s : State) : Keeps s (execInputArrival d s) := by
  unfold execInputArrival
  apply keeps_next
  simp

@[simp] theorem deliverInput_kept (w : Waiting) (s : State) : kept (deliverInput w s) = kept s := by
  unfold deliverInput
  simp

@[simp] theorem deliverInputs_kept (s : State) : kept (deliverInputs s) = kept s := by
  unfold deliverInputs
  simp

theorem execStreamBind_keeps (h : Hdr) (rank : Nat) (port : Nat) (srcLocal : Nat) (handle : Nat) (unbind : Nat) (srcMod : Nat) (s : State) : Keeps s (execStreamBind h rank port srcLocal handle unbind srcMod s) := by
  unfold execStreamBind
  apply keeps_next
  simp

theorem decideCreate_keepsOpt (no : Nat) (h : Hdr) (cls : Nat) (sluices : Nat) (bw : Nat) (sram : Nat) (hbm : Nat) (spill : Nat) (s : State) : KeepsOpt s (decideCreate no h cls sluices bw sram hbm spill s) := by
  unfold decideCreate
  repeat' first | exact keepsOpt_none _ | exact keepsOpt_some (by simp) | split

theorem decideCommand_tame {kk : Kept} {s t : State} (c : Instr) (no : Nat) (plans : List Plan) (hk : Tame kk (kept s))
    (e : decideCommand c no plans s = some t) : Tame kk (kept t) := by
  unfold decideCommand at e
  split at e
  · rw [decideCreate_keepsOpt _ _ _ _ _ _ _ _ _ _ e]; exact hk
  · exact decideGraph_tame _ _ _ _ _ _ _ _ hk e
  · exact decideVariant_tame _ _ _ _ _ _ _ hk e
  · exact decideCodec_tame _ _ _ _ _ _ _ _ _ hk e
  · cases e; exact hk

theorem execAdmissionDecision_tame (plans : List Plan) (s : State) : TameOut s (execAdmissionDecision plans s) := by
  refine tameOut_next ?_
  split
  · exact Tame.refl _
  · split
    · exact Tame.refl _
    · rename_i d rest _
      cases h : decideCommand d.cmd d.no plans { s with work.decisions := rest } with
      | none => exact Tame.refl _
      | some t =>
        show Tame (kept s) (kept (dropReleased t))
        rw [dropReleased_kept]
        exact decideCommand_tame (s := { s with work.decisions := rest }) _ _ _ (Tame.refl (kept s)) h

@[simp] theorem rewriteRecords_kept (fmt : Nat) (s : State) : kept (rewriteRecords fmt s) = kept s := by
  unfold rewriteRecords
  simp

@[simp] theorem reloadLog_kept (s : State) : kept (reloadLog s) = kept s := by
  unfold reloadLog
  simp

@[simp] theorem takeKept_kept (s : State) : kept (takeKept s) = kept s := by
  unfold takeKept
  repeat' first | with_reducible rfl | (simp; done) | split | (refine (foldl_kept _ _ _ fun _ _ => ?_).trans ?_) | (refine (forRuns_kept _ _ fun _ _ _ => ?_).trans ?_) | (refine (forGraphs_kept _ _ fun _ _ _ => ?_).trans ?_) | dsimp only | rfl

@[simp] theorem closeDebug_kept (s : State) : kept (closeDebug s) = kept s := by
  unfold closeDebug
  simp

theorem coldReset_tame {k : Kept} {s : State} (h : Tame k (kept s)) : Tame k (kept (coldReset s)) :=
  h.mem rfl fun _ => rfl

@[simp] theorem failStage_kept (k : Nat) (item : Option Nat) (s : State) : kept (failStage k item s) = kept s := by
  unfold failStage
  repeat' first | with_reducible rfl | (simp; done) | split

@[simp] theorem repairRow_kept (s : State) (key : Nat) : kept (repairRow s key) = kept s := by
  unfold repairRow
  first | (simp; done) | (repeat' first | with_reducible rfl | (simp; done) | with_reducible refine (foldl_kept _ _ _ fun _ _ => ?_).trans ?_ | split)

@[simp] theorem repairRows_kept (s : State) : kept (repairRows s) = kept s := by
  unfold repairRows
  first | (simp; done) | (repeat' first | with_reducible rfl | (simp; done) | with_reducible refine (foldl_kept _ _ _ fun _ _ => ?_).trans ?_ | split)

theorem memoryStage_tame {kk : Kept} {s : State}  (hk : Tame kk (kept s)) : Tame kk (kept (memoryStage s)) := by
  unfold memoryStage
  repeat' first | assumption | with_reducible apply zeroFrames_tame | with_reducible refine Tame.foldl (fun _ _ _ => ?_) ?_ | (simp only [kept_mk, kept_mk_mem, kept_mk_ident]; done) | (simp only [kept_mk, kept_mk_mem, kept_mk_ident, repairRows_kept]) | split | dsimp only

theorem finishStages_tame {kk : Kept} {s : State} (ok : List Bool) (fromQ : Nat) (join : Option Join) (hk : Tame kk (kept s)) : Tame kk (kept (finishStages ok fromQ join s)) := by
  unfold finishStages
  repeat' first | assumption | with_reducible apply memoryStage_tame | with_reducible refine Tame.foldl (fun _ _ _ => ?_) ?_ | (simp only [kept_mk, kept_mk_mem, kept_mk_ident]; done) | (simp only [kept_mk, kept_mk_mem, kept_mk_ident]) | split | dsimp only

@[simp] theorem exhaust_kept (s : State) : kept (exhaust s) = kept s := by
  unfold exhaust
  simp

@[simp] theorem adoptImage_kept (i : BankImage) (s : State) : kept (adoptImage i s) = kept s := by
  unfold adoptImage
  first | (simp; done) | (repeat' first | with_reducible rfl | (simp; done) | with_reducible refine (foldl_kept _ _ _ fun _ _ => ?_).trans ?_ | split)

@[simp] theorem fallBack_kept (n : Nat) (s : State) : kept (fallBack n s) = kept s := by
  unfold fallBack
  repeat' first | with_reducible rfl | (simp; done) | split

@[simp] theorem startPorts_kept (s : State) : kept (startPorts s) = kept s := by
  unfold startPorts
  first | (simp; done) | (repeat' first | with_reducible rfl | (simp; done) | with_reducible refine (foldl_kept _ _ _ fun _ _ => ?_).trans ?_ | split)

theorem bootOn_tame {kk : Kept} {s : State} (b : BootIn) (hk : Tame kk (kept s)) : Tame kk (kept (bootOn b s)) := by
  unfold bootOn
  split
  · rw [failStage_kept]
    split
    · exact hk
    · rw [startPorts_kept]; exact hk
  · extract_lets s1
    have h1 : Tame kk (kept s1) := by simp only [s1]; rw [startPorts_kept]; exact hk
    clear_value s1
    split
    · exact h1
    · rename_i s2 _
      have h2 : Tame kk (kept s2) := finishStages_tame _ _ _ h1
      clear_value s2
      split
      · rw [exhaust_kept]; exact h2
      · exact h2

theorem coldStart_tame {kk : Kept} {s : State} (b : BootIn) (hk : Tame kk (kept s)) : Tame kk (kept (coldStart b s)) := by
  unfold coldStart
  extract_lets named bank s1 s2 src
  have h1 : Tame kk (kept s1) := by simp only [s1]; rw [takeKept_kept]; exact coldReset_tame (by simpa using hk)
  have h2 : Tame kk (kept s2) := by
    simp only [s2]
    rw [foldl_kept _ _ _ fun _ _ => recordBreach_kept _ _ _ _ _ _ _ _]
    exact h1
  clear_value src s2 bank
  split
  · rw [failStage_kept]; exact h2
  · split
    · rw [failStage_kept]; exact h2
    · refine bootOn_tame _ ?_
      split
      · exact h2
      · rw [fallBack_kept]; exact h2

@[simp] theorem arriveFwStage_kept (c : Instr) (h : Hdr) (offset : Nat) (len : Nat) (buf : Buf) (s : State) : kept (arriveFwStage c h offset len buf s) = kept s := by
  unfold arriveFwStage
  simp

theorem execFwStage_keeps (h : Hdr) (offset : Nat) (len : Nat) (last : Bool) (buf : Buf) (image : BankImage) (s : State) : Keeps s (execFwStage h offset len last buf image s) := by
  unfold execFwStage
  apply keeps_next
  simp

@[simp] theorem writeChunk_kept (offset : Nat) (len : Nat) (last : Bool) (image : BankImage) (s : State) : kept (writeChunk offset len last image s) = kept s := by
  unfold writeChunk
  simp

theorem execFwStageDone_keeps (s : State) : Keeps s (execFwStageDone s) := by
  unfold execFwStageDone
  apply keeps_next
  repeat' first | with_reducible rfl | (simp; done) | split

@[simp] theorem arriveFwVerify_kept (h : Hdr) (s : State) : kept (arriveFwVerify h s) = kept s := by
  unfold arriveFwVerify
  simp

theorem execFwVerify_keeps (h : Hdr) (s : State) : Keeps s (execFwVerify h s) := by
  unfold execFwVerify
  apply keeps_next
  simp

theorem execFwVerifyDone_keeps (s : State) : Keeps s (execFwVerifyDone s) := by
  unfold execFwVerifyDone
  apply keeps_next
  repeat' first | with_reducible rfl | (simp; done) | split | dsimp only

theorem execFwActivate_keeps (h : Hdr) (condition : Nat) (overrun : Option (Nat × Nat)) (s : State) : Keeps s (execFwActivate h condition overrun s) := by
  unfold execFwActivate
  apply keeps_next
  simp

@[simp] theorem trialBoot_kept (w : Warden) (s : State) : kept (trialBoot w s) = kept s := by
  unfold trialBoot
  simp

@[simp] theorem applyFwActivate_kept (c : Instr) (h : Hdr) (condition : Nat) (overrun : Option (Nat × Nat)) (s : State) : kept (applyFwActivate c h condition overrun s) = kept s := by
  unfold applyFwActivate
  repeat' first | with_reducible rfl | (simp; done) | split

@[simp] theorem failActivation_kept (part : Nat) (s : State) : kept (failActivation part s) = kept s := by
  unfold failActivation
  repeat' first | with_reducible rfl | (simp; done) | split

theorem execWardenTrialBoot_keeps (w : Warden) (reachedVoting : Bool) (s : State) : Keeps s (execWardenTrialBoot w reachedVoting s) := by
  unfold execWardenTrialBoot
  apply keeps_next
  repeat' first | with_reducible rfl | (simp; done) | split

@[simp] theorem beginPause_kept (s : State) : kept (beginPause s) = kept s := by
  unfold beginPause
  repeat' first | with_reducible rfl | (simp; done) | split

@[simp] theorem relearn_kept (s : State) : kept (relearn s) = kept s := by
  unfold relearn
  repeat' first | with_reducible rfl | (simp; done) | split | (refine (foldl_kept _ _ _ fun _ _ => ?_).trans ?_) | (refine (forRuns_kept _ _ fun _ _ _ => ?_).trans ?_) | (refine (forGraphs_kept _ _ fun _ _ _ => ?_).trans ?_) | dsimp only | rfl

@[simp] theorem relaunchActivation_kept (s : State) : kept (relaunchActivation s) = kept s := by
  unfold relaunchActivation
  repeat' first | with_reducible rfl | (simp; done) | split

theorem commitActivation_tame {k : Kept} {s : State} (h : Tame k (kept s)) : Tame k (kept (commitActivation s)) := by
  unfold commitActivation
  split
  · split
    · exact h
    · simp only [finishCmd_kept]
      exact h.trans ⟨rfl, .inl rfl, id, Nat.le_refl _, Nat.le_refl _, Nat.le_max_left _ _, id⟩
  · exact h

@[simp] theorem returnWardens_kept (s : State) : kept (returnWardens s) = kept s := by
  unfold returnWardens
  simp

@[simp] theorem judgeDormant_kept (s : State) : kept (judgeDormant s) = kept s := by
  unfold judgeDormant
  simp

theorem execDormantEntryDone_keeps (s : State) : Keeps s (execDormantEntryDone s) := by
  unfold execDormantEntryDone
  apply keeps_next
  simp

@[simp] theorem mergeEvent_kept (hub : Nat) (src : Nat) (s : State) : kept (mergeEvent hub src s) = kept s := by
  unfold mergeEvent
  simp

@[simp] theorem mergeLatched_kept (hub : Nat) (s : State) : kept (mergeLatched hub s) = kept s := by
  unfold mergeLatched
  simp

@[simp] theorem wakeTiles_kept (s : State) : kept (wakeTiles s) = kept s := by
  unfold wakeTiles
  simp

theorem execDormantWake_keeps (s : State) : Keeps s (execDormantWake s) := by
  unfold execDormantWake
  apply keeps_next
  simp

theorem execMateSenseOpen_keeps (pin : Nat) (s : State) : Keeps s (execMateSenseOpen pin s) := by
  unfold execMateSenseOpen
  apply keeps_next
  simp

theorem execSwitch48vClose_tame (boot : BootIn) (s : State) : TameOut s (execSwitch48vClose boot s) := by
  unfold execSwitch48vClose
  apply tameOut_next
  split
  · exact coldStart_tame _ (Tame.refl _)
  · exact Tame.refl _

@[simp] theorem setAux_kept (w : Warden) (tenMv : Nat) (present : Bool) (warn : Bool) (s : State) : kept (setAux w tenMv present warn s) = kept s := by
  unfold setAux
  repeat' first | with_reducible rfl | (simp; done) | split

theorem execAuxWarn_keeps (w : Warden) (tenMv : Nat) (s : State) : Keeps s (execAuxWarn w tenMv s) := by
  unfold execAuxWarn
  apply keeps_next
  simp

theorem execAuxWarnEnd_keeps (w : Warden) (tenMv : Nat) (s : State) : Keeps s (execAuxWarnEnd w tenMv s) := by
  unfold execAuxWarnEnd
  apply keeps_next
  simp

@[simp] theorem seenOff_kept (w : Warden) (s : State) : kept (seenOff w s) = kept s := by
  unfold seenOff
  repeat' first | with_reducible rfl | (simp; done) | split

theorem execAuxOff_keeps (w : Warden) (s : State) : Keeps s (execAuxOff w s) := by
  unfold execAuxOff
  apply keeps_next
  simp

@[simp] theorem wardenRise_kept (w : Warden) (s : State) : kept (wardenRise w s) = kept s := by
  unfold wardenRise
  simp

theorem execAuxRise_keeps (w : Warden) (tenMv : Nat) (s : State) : Keeps s (execAuxRise w tenMv s) := by
  unfold execAuxRise
  apply keeps_next
  simp

theorem execAonPowerOn_keeps (w : Warden) (slotId : Nat) (s : State) : Keeps s (execAonPowerOn w slotId s) := by
  unfold execAonPowerOn
  apply keeps_next
  simp

theorem execSagWarn_keeps (tenMv : Nat) (s : State) : Keeps s (execSagWarn tenMv s) := by
  unfold execSagWarn
  apply keeps_next
  simp

theorem execSagWarnEnd_keeps (tenMv : Nat) (s : State) : Keeps s (execSagWarnEnd tenMv s) := by
  unfold execSagWarnEnd
  apply keeps_next
  simp

theorem execTrip48_keeps (tenMv : Nat) (s : State) : Keeps s (execTrip48 tenMv s) := by
  unfold execTrip48
  apply keeps_next
  simp

theorem execSupplyRestart_tame (boot : BootIn) (s : State) : TameOut s (execSupplyRestart boot s) := by
  unfold execSupplyRestart
  apply tameOut_next
  split
  · exact coldStart_tame _ (Tame.refl _)
  · exact Tame.refl _

theorem execCoolantRestart_tame (boot : BootIn) (s : State) : TameOut s (execCoolantRestart boot s) := by
  unfold execCoolantRestart
  apply tameOut_next
  split
  · exact coldStart_tame _ (Tame.refl _)
  · exact Tame.refl _

@[simp] theorem setDomain_kept (s : State) (d : Nat) (x : Domain) : kept (setDomain s d x) = kept s := by
  unfold setDomain
  simp

theorem loseDomain_tame {k : Kept} {s : State} (d : Nat) (h : Tame k (kept s)) : Tame k (kept (loseDomain d s)) := by
  unfold loseDomain
  dsimp only
  split <;> first | exact breakSeal_tame (by simpa using h) | simpa using h

theorem execClockMonitorFlag_tame (domain : Nat) (duringSwitch : Bool) (s : State) :
    TameOut s (execClockMonitorFlag domain duringSwitch s) := by
  refine tameOut_next ?_
  split
  · exact Tame.refl _
  · extract_lets src s1 s2 src2
    have h1 : Tame (kept s) (kept s1) := by simp only [s1]; rw [setDomain_kept]; exact Tame.refl _
    have h2 : Tame (kept s) (kept s2) := by
      simp only [s2]
      split
      · rw [raise_kept]; exact h1
      · exact h1
    clear_value src2 s2
    split
    · exact h2
    · split
      · exact loseDomain_tame _ h2
      · exact h2

@[simp] theorem breachUsers_kept (moved : Plan → List (Nat × Nat)) (pick : Nat → Bool) (s : State) : kept (breachUsers moved pick s) = kept s := by
  unfold breachUsers
  first | (simp; done) | (repeat' first | with_reducible rfl | (simp; done) | with_reducible refine (foldl_kept _ _ _ fun _ _ => ?_).trans ?_ | split)

@[simp] theorem hangStack_kept (n : Nat) (k : Nat) (s : State) : kept (hangStack n k s) = kept s := by
  unfold hangStack
  first | (simp; done) | (repeat' first | with_reducible rfl | (simp; done) | with_reducible refine (foldl_kept _ _ _ fun _ _ => ?_).trans ?_ | split)

@[simp] theorem hangPort_kept (n : Nat) (s : State) : kept (hangPort n s) = kept s := by
  unfold hangPort
  simp

@[simp] theorem hangEffect_kept (d : Nat) (s : State) : kept (hangEffect d s) = kept s := by
  unfold hangEffect
  repeat' first | with_reducible rfl | (simp; done) | split

theorem execClockWatchdogExpiry_keeps (domain : Nat) (s : State) : Keeps s (execClockWatchdogExpiry domain s) := by
  unfold execClockWatchdogExpiry
  apply keeps_next
  repeat' first | with_reducible rfl | (simp; done) | split

theorem execControlCoreWatchdog_keeps (io : Nat) (core : Nat) (s : State) : Keeps s (execControlCoreWatchdog io core s) := by
  unfold execControlCoreWatchdog
  apply keeps_next
  simp

theorem execJudgeWindow_keeps (osc : Nat) (ratioPpm : Int) (s : State) : Keeps s (execJudgeWindow osc ratioPpm s) := by
  unfold execJudgeWindow
  apply keeps_next
  simp

theorem execRejudgeTimer_keeps (osc : Nat) (s : State) : Keeps s (execRejudgeTimer osc s) := by
  unfold execRejudgeTimer
  apply keeps_next
  simp

theorem execLossOfSignal_keeps (domain : Nat) (s : State) : Keeps s (execLossOfSignal domain s) := by
  unfold execLossOfSignal
  apply keeps_next
  repeat' first | with_reducible rfl | (simp; done) | split

theorem execSignalReturn_keeps (domain : Nat) (s : State) : Keeps s (execSignalReturn domain s) := by
  unfold execSignalReturn
  apply keeps_next
  repeat' first | with_reducible rfl | (simp; done) | split

theorem execTapInstruction_keeps (code : Byte) (s : State) : Keeps s (execTapInstruction code s) := by
  unfold execTapInstruction
  apply keeps_next
  simp

@[simp] theorem setUnit_kept (s : State) (t : Nat) (u : Unit_) : kept (setUnit s t u) = kept s := by
  unfold setUnit
  simp

@[simp] theorem respond_kept (cmd : Nat) (seq : Byte) (result : Nat) (data : Word64) (st : Nat) (s : State) : kept (respond cmd seq result data st s) = kept s := by
  unfold respond
  simp

@[simp] theorem onUnit_kept (cmd : Nat) (seq : Byte) (act : Nat → State → State) (s : State)
    (h : ∀ t s, kept (act t s) = kept s) : kept (onUnit cmd seq act s) = kept s := by
  unfold onUnit
  repeat' first | with_reducible rfl | (simp [h]; done) | split

theorem execDbgSelect_keeps (seq : Byte) (target : Nat) (s : State) : Keeps s (execDbgSelect seq target s) := by
  unfold execDbgSelect
  apply keeps_next
  simp

@[simp] theorem forgetPoked_kept (t : Nat) (s : State) : kept (forgetPoked t s) = kept s := by
  unfold forgetPoked
  simp

theorem execDbgHalt_keeps (seq : Byte) (s : State) : Keeps s (execDbgHalt seq s) := by
  unfold execDbgHalt
  apply keeps_next
  simp

theorem execDbgResume_keeps (seq : Byte) (s : State) : Keeps s (execDbgResume seq s) := by
  unfold execDbgResume
  apply keeps_next
  simp

theorem execDbgStep_keeps (seq : Byte) (arg : Nat) (s : State) : Keeps s (execDbgStep seq arg s) := by
  unfold execDbgStep
  apply keeps_next
  simp

theorem execDbgBreakSet_keeps (seq : Byte) (slot : Nat) (addr : Word64) (s : State) : Keeps s (execDbgBreakSet seq slot addr s) := by
  unfold execDbgBreakSet
  apply keeps_next
  simp

theorem execDbgBreakClear_keeps (seq : Byte) (slot : Nat) (s : State) : Keeps s (execDbgBreakClear seq slot s) := by
  unfold execDbgBreakClear
  apply keeps_next
  simp

theorem lineWrite_tame {kk : Kept} {s : State} (a : Nat) (bs : List Byte) (hk : Tame kk (kept s)) : Tame kk (kept (lineWrite a bs s)) := by
  unfold lineWrite
  repeat' first | assumption | with_reducible apply sramWrite_tame | with_reducible refine Tame.foldl (fun _ _ _ => ?_) ?_ | (simp only [kept_mk, kept_mk_mem, kept_mk_ident]; done) | (simp only [kept_mk, kept_mk_mem, kept_mk_ident]) | split | dsimp only

theorem dbgStore_tame {kk : Kept} {s : State} (t : Nat) (pl : DbgPlace) (bs : List Byte) (hk : Tame kk (kept s)) :
    Tame kk (kept (dbgStore t pl bs s)) := by
  unfold dbgStore
  split
  · exact hk.mem rfl (memWf_writeBytes _ _ _)
  · dsimp only
    split
    · exact lineWrite_tame _ _ hk
    · exact lineWrite_tame _ _ (lineWrite_tame _ _ hk)
  · exact blockWrite_tame _ _ _ _ hk
  · split
    · exact hk
    · exact hk

@[simp] theorem dbgGrant_kept (pl : DbgPlace) (s : State) : kept (dbgGrant pl s) = kept s := by
  unfold dbgGrant
  first | (simp; done) | (repeat' first | with_reducible rfl | (simp; done) | with_reducible refine (foldl_kept _ _ _ fun _ _ => ?_).trans ?_ | split)

theorem execDbgSetAddr_keeps (seq : Byte) (space : Nat) (addr : Word64) (s : State) : Keeps s (execDbgSetAddr seq space addr s) := by
  unfold execDbgSetAddr
  apply keeps_next
  refine onUnit_kept _ _ _ _ fun t s => ?_
  dsimp only
  split <;> simp

theorem execDbgRead_keeps (seq : Byte) (s : State) : Keeps s (execDbgRead seq s) := by
  unfold execDbgRead
  apply keeps_next
  refine onUnit_kept _ _ _ _ fun t s => ?_
  dsimp only
  split <;> simp

theorem execDbgWrite_tame (seq : Byte) (data : Word64) (s : State) : TameOut s (execDbgWrite seq data s) := by
  unfold execDbgWrite onUnit
  apply tameOut_next
  split
  · exact Tame.refl _
  · split
    · simpa using Tame.refl _
    · split
      · dsimp only
        split
        · rw [respond_kept]
          exact dbgStore_tame _ _ _ (by show Tame (kept s) (kept (dbgGrant _ s)); rw [dbgGrant_kept]; exact Tame.refl _)
        · simpa using Tame.refl _
      · simpa using Tame.refl _

theorem execDbgStatus_keeps (seq : Byte) (s : State) : Keeps s (execDbgStatus seq s) := by
  unfold execDbgStatus
  apply keeps_next
  simp

theorem execBreakpointHit_keeps (target : Nat) (slot : Nat) (stepEnd : Bool) (pc : Word64) (s : State) : Keeps s (execBreakpointHit target slot stepEnd pc s) := by
  unfold execBreakpointHit
  apply keeps_next
  simp

@[simp] theorem answerBus_kept (addr : Nat) (cmd : Nat) (milli : Int) (s : State) : kept (answerBus addr cmd milli s) = kept s := by
  unfold answerBus
  simp

theorem execReadVin_keeps (addr : Nat) (s : State) : Keeps s (execReadVin addr s) := by
  unfold execReadVin
  apply keeps_next
  simp

theorem execReadIin_keeps (addr : Nat) (s : State) : Keeps s (execReadIin addr s) := by
  unfold execReadIin
  apply keeps_next
  simp

theorem execReadTemperature1_keeps (addr : Nat) (s : State) : Keeps s (execReadTemperature1 addr s) := by
  unfold execReadTemperature1
  apply keeps_next
  simp

theorem execReadTemperature2_keeps (addr : Nat) (s : State) : Keeps s (execReadTemperature2 addr s) := by
  unfold execReadTemperature2
  apply keeps_next
  simp

theorem execReadPin_keeps (addr : Nat) (s : State) : Keeps s (execReadPin addr s) := by
  unfold execReadPin
  apply keeps_next
  simp

theorem applyOp_tame {kk : Kept} {s : State} (q : Queued) (hd : Hdr) (hk : Tame kk (kept s)) : Tame kk (kept (applyOp q hd s)) := by
  unfold applyOp
  dsimp only
  split
  all_goals first
    | exact applyLifecycleAdvance_tame _ _ _ hk
    | exact applyDebugUnlock_tame _ _ hk
    | exact applyRequestSubmit_tame _ _ _ _ _ _ _ _ _ hk
    | exact hk
    | (simp; exact hk)

theorem applyQueued_tame {k : Kept} {s : State} (q : Queued) (h : Tame k (kept s)) : Tame k (kept (applyQueued q s)) := by
  unfold applyQueued
  split
  · simpa using h
  · simpa using h
  · split
    · split
      · simpa using h
      · split
        · simpa using h
        · exact applyOp_tame _ _ (by simpa using h)
    · exact h

theorem applyVisible_tame {k : Kept} {s : State} (v : Visible) (h : Tame k (kept s)) : Tame k (kept (applyVisible v s)) := by
  unfold applyVisible
  repeat' first | exact applyQueued_tame _ h | (simpa using h; done) | split

theorem mergeInputs_tame {k : Kept} {s : State} (h : Tame k (kept s)) : Tame k (kept (mergeInputs s)) :=
  Tame.foldl (fun _ _ => applyVisible_tame _) (by simpa using h)

@[simp] theorem dropPolder_kept (p : Nat) (s : State) : kept (dropPolder p s) = kept s := by
  unfold dropPolder
  simp

@[simp] theorem dropPolders_kept (s : State) : kept (dropPolders s) = kept s := by
  unfold dropPolders
  simp

@[simp] theorem dropFor_kept (c : Instr) (s : State) : kept (dropFor c s) = kept s := by
  unfold dropFor
  repeat' first | with_reducible rfl | (simp; done) | split

@[simp] theorem dropDue_kept (s : State) : kept (dropDue s) = kept s := by
  unfold dropDue
  simp

@[simp] theorem feedResult_kept (f : Nat × Nat × Tag × Invocation) (s : State) : kept (feedResult f s) = kept s := by
  unfold feedResult
  first | (simp; done) | (repeat' first | with_reducible rfl | (simp; done) | with_reducible refine (foldl_kept _ _ _ fun _ _ => ?_).trans ?_ | split)

@[simp] theorem decideClosing_kept (s : State) : kept (decideClosing s) = kept s := by
  unfold decideClosing
  simp

theorem clearWithheld_tame {kk : Kept} {s : State}  (hk : Tame kk (kept s)) : Tame kk (kept (clearWithheld s)) := by
  unfold clearWithheld
  repeat' first | assumption | with_reducible apply undoStores_tame | with_reducible refine Tame.foldl (fun _ _ _ => ?_) ?_ | (simp only [kept_mk, kept_mk_mem, kept_mk_ident]; done) | (simp only [kept_mk, kept_mk_mem, kept_mk_ident]) | split | dsimp only

theorem discardTide_tame {kk : Kept} {s : State} (closed : Nat) (hk : Tame kk (kept s)) : Tame kk (kept (discardTide closed s)) := by
  unfold discardTide
  repeat' first | assumption | with_reducible apply undoAll_tame | with_reducible refine Tame.foldl (fun _ _ _ => ?_) ?_ | (simp only [kept_mk, kept_mk_mem, kept_mk_ident]; done) | (simp only [kept_mk, kept_mk_mem, kept_mk_ident, dropInProgress_kept, dropSteps_kept, discardCodec_kept, dropGoldens_kept, resumeSluices_kept, newVotes_kept]) | split | dsimp only

theorem commitTide_tame {kk : Kept} {s : State} (closed : Nat) (hk : Tame kk (kept s)) : Tame kk (kept (commitTide closed s)) := by
  unfold commitTide
  extract_lets s1 fed s2 s3 s4
  have h1 : Tame kk (kept s1) := by simpa [s1] using hk
  have h2 : Tame kk (kept s2) := by
    simp only [s2]
    rw [commitCodec_kept, commitServing_kept]
    exact commitRuns_tame (commitClassS_tame _ h1)
  have h3 : Tame kk (kept s3) := by simpa [s3] using h2
  have h4 : Tame kk (kept s4) := by simpa [s4] using h3
  clear_value s4
  exact commitActivation_tame <| clearWithheld_tame (by rw [newVotes_kept]; exact carryMoves_tame _ (settleChannels_tame h4))

@[simp] theorem answerOpt_kept (c : Option Instr) (st : Status) (payload : List Byte) (s : State) : kept (answerOpt c st payload s) = kept s := by
  unfold answerOpt
  repeat' first | with_reducible rfl | (simp; done) | split

@[simp] theorem noteEpoch_kept (s : State) : kept (noteEpoch s) = kept s := by
  unfold noteEpoch
  simp

@[simp] theorem advanceLabel_kept (s : State) : kept (advanceLabel s) = kept s := by
  unfold advanceLabel
  simp

@[simp] theorem applyRelabels_kept (s : State) : kept (applyRelabels s) = kept s := by
  unfold applyRelabels
  simp

@[simp] theorem changePeriod_kept (s : State) : kept (changePeriod s) = kept s := by
  unfold changePeriod
  repeat' first | with_reducible rfl | (simp; done) | split

@[simp] theorem sendMarks_kept (relabel : Bool) (s : State) : kept (sendMarks relabel s) = kept s := by
  unfold sendMarks
  simp

@[simp] theorem notePorts_kept (e : EdgeIn) (s : State) : kept (notePorts e s) = kept s := by
  unfold notePorts
  simp

@[simp] theorem deliverPending_kept (s : State) : kept (deliverPending s) = kept s := by
  unfold deliverPending
  simp

@[simp] theorem powerEdge_kept (s : State) : kept (powerEdge s) = kept s := by
  unfold powerEdge
  simp

theorem launchEdge_tame {kk : Kept} {s : State} (hk : Tame kk (kept s)) : Tame kk (kept (launchEdge s)) := by
  unfold launchEdge
  extract_lets s1 s2
  have h1 : Tame kk (kept s1) := by simpa [s1] using hk
  clear_value s1
  have h2 : Tame kk (kept s2) := carryMoves_tame _ (stepPromotion_tame (by rw [switchMoves_kept]; exact h1))
  clear_value s2
  rw [openCodec_kept, placeGoldens_kept]
  exact launchRuns_tame (serveEdge_tame (by rw [shedPictures_kept]; exact h2))

theorem openTide_tame {kk : Kept} {s : State} (e : EdgeIn) (hk : Tame kk (kept s)) : Tame kk (kept (openTide e s)) := by
  unfold openTide
  extract_lets src s1 s2 s3
  have h1 : Tame kk (kept s1) := mergeInputs_tame hk
  clear_value s1
  have h2 : Tame kk (kept s2) := by
    simp only [s2]
    rw [settleRotations_kept, switchKeys_kept, switchPages_kept, retireRotations_kept]
    exact runSweeps_tame _ (by rw [refillBudgets_kept]; exact h1)
  clear_value s2
  have h3 : Tame kk (kept s3) := by simp only [s3]; rw [senseHeat_kept]; exact h2
  clear_value s3
  split
  · rw [enterHold_kept]; exact h3
  · rename_i s4 s5 s6 src2 _
    have h4 : Tame kk (kept s4) := launchEdge_tame (by rw [powerEdge_kept]; exact h3)
    clear_value s4
    have h5 : Tame kk (kept s5) := by
      simp only [s5]
      split
      · exact h4
      · rw [judgeTiles_kept]; exact h4
    clear_value s5
    have h6 : Tame kk (kept s6) := by simp only [s6]; rw [deliverPending_kept, sendControls_kept]; exact h5
    clear_value s6
    show Tame kk (kept (countAlign e.keeperOffsetNs s6))
    rw [countAlign_kept]; exact h6

theorem darkEdge_tame {kk : Kept} {s : State} (e : EdgeIn) (hk : Tame kk (kept s)) : Tame kk (kept (darkEdge e s)) := by
  unfold darkEdge
  extract_lets src s1
  have h1 : Tame kk (kept s1) := by
    simp only [s1]
    rw [foldl_kept _ _ _ fun _ _ => takeReading_kept _ _, latchCoolant_kept]
    exact hk
  clear_value s1
  split
  · rw [enterHold_kept]; exact h1
  · rw [countAlign_kept, placeGoldens_kept]
    exact forRuns_tame (fun _ _ _ h => launchRun_tame _ _ h) h1

@[simp] theorem passInjections_kept (s : State) : kept (passInjections s) = kept s := by
  unfold passInjections
  simp

@[simp] theorem resendSchedules_kept (s : State) : kept (resendSchedules s) = kept s := by
  unfold resendSchedules
  repeat' first | with_reducible rfl | (simp; done) | split | (refine (foldl_kept _ _ _ fun _ _ => ?_).trans ?_) | (refine (forRuns_kept _ _ fun _ _ _ => ?_).trans ?_) | (refine (forGraphs_kept _ _ fun _ _ _ => ?_).trans ?_) | dsimp only | rfl

@[simp] theorem holdRelaunch_kept (s : State) : kept (holdRelaunch s) = kept s := by
  unfold holdRelaunch
  simp

@[simp] theorem resumeHost_kept (s : State) : kept (resumeHost s) = kept s := by
  unfold resumeHost
  simp

theorem relaunch_tame {kk : Kept} {s : State} (hk : Tame kk (kept s)) : Tame kk (kept (relaunch s)) := by
  unfold relaunch
  extract_lets a b c d e f s1 s2 s3
  have h1 : Tame kk (kept s1) := by simp only [s1]; rw [passInjections_kept]; exact hk
  clear_value s1
  split
  · rw [enterHold_kept]; exact h1
  · skip
    have h2 : Tame kk (kept s2) := by simp only [s2]; rw [relaunchActivation_kept, holdRelaunch_kept]; exact h1
    clear_value s2
    have h3 : Tame kk (kept s3) := by
      simp only [s3]
      rw [commitServing_kept]
      exact commitRuns_tame (by rw [resendSchedules_kept, rephaseClassS_kept, restartPromotion_kept, dropDue_kept]; exact h2)
    clear_value s3
    rw [resumeHost_kept, commitSluices_kept]; exact h3

theorem openNext_tame {kk : Kept} {s : State} (e : EdgeIn) (hk : Tame kk (kept s)) : Tame kk (kept (openNext e s)) := by
  unfold openNext
  split
  · exact hk
  · split
    · exact openTide_tame _ hk
    · split
      · extract_lets s1
        have h1 : Tame kk (kept s1) := relaunch_tame hk
        clear_value s1
        split
        · exact openTide_tame _ h1
        · exact h1
      · exact darkEdge_tame _ hk

theorem nextEdge_tame {kk : Kept} {s : State} (e : EdgeIn) (hk : Tame kk (kept s)) : Tame kk (kept (nextEdge e s)) := by
  unfold nextEdge
  extract_lets closed idle last s1 lost s2 rl s3 s4 s5
  have h1 : Tame kk (kept s1) := by
    simp only [s1]
    split
    · exact hk
    · rw [decideClosing_kept]; exact hk
  clear_value s1 closed idle
  split
  · exact h1
  · have h2 : Tame kk (kept s2) := by
      simp only [s2]
      exact settleTransfers_tame (by
        rw [repace_kept, beginGather_kept, recordEnergy_kept, advanceLabel_kept, runTraffic_kept]; exact h1)
    clear_value s2 lost
    have h3 : Tame kk (kept s3) := by
      simp only [s3]
      split
      · exact h2
      · rw [sendMarks_kept, changePeriod_kept, applyRelabels_kept]; exact h2
    clear_value s3
    have h4 : Tame kk (kept s4) := by
      simp only [s4]
      split
      · exact discardTide_tame _ h3
      · split
        · exact h3
        · exact commitTide_tame _ h3
    clear_value s4
    have h5 : Tame kk (kept s5) := by simp only [s5]; rw [beginPause_kept, notePorts_kept, countWindow_kept]; exact h4
    clear_value s5
    rw [endGather_kept]
    split
    · rw [exhaust_kept]; exact h5
    · exact openNext_tame _ h5

@[simp] theorem adoptGrid_kept (s : State) : kept (adoptGrid s) = kept s := by
  unfold adoptGrid
  first | (simp; done) | (repeat' first | with_reducible rfl | (simp; done) | with_reducible refine (foldl_kept _ _ _ fun _ _ => ?_).trans ?_ | split)

theorem openFirst_tame {kk : Kept} {s : State} (e : EdgeIn) (hk : Tame kk (kept s)) : Tame kk (kept (openFirst e s)) := by
  unfold openFirst
  extract_lets s1 own s2 fl ti
  have h1 : Tame kk (kept s1) := by
    simp only [s1]
    split
    · exact finishStages_tame _ _ _ hk
    · exact hk
  clear_value s1
  split
  · rw [exhaust_kept]; exact h1
  · have h2 : Tame kk (kept s2) := by simp only [s2]; rw [adoptGrid_kept]; exact h1
    clear_value s2 own fl ti
    extract_lets s3 t3 s4 s5
    have h3 : Tame kk (kept s3) := h2
    clear_value s3
    have h4 : Tame kk (kept s4) := by simp only [s4]; rw [advanceEpoch_kept]; exact h3
    clear_value s4
    have h5 : Tame kk (kept s5) := by simp only [s5]; rw [startScrub_kept, sendMarks_kept, holdRelaunch_kept]; exact h4
    clear_value s5
    exact openTide_tame _ (by rw [notePorts_kept, releaseDoorbells_kept, commitSluices_kept]; exact h5)

theorem execTideEdge_tame (e : EdgeIn) (s : State) : TameOut s (execTideEdge e s) := by
  unfold execTideEdge
  apply tameOut_next
  repeat' first | exact Tame.refl _ | exact nextEdge_tame _ (Tame.refl _) | exact openFirst_tame _ (Tame.refl _) | split

end Sys2Proof.Laws
end

