-- ==== Sys2Proof/Laws/Order.lean ====
section
/-! SUPPORT. Laws/Order.lean: the orders of the tags, of the sources and of what an edge merges; majorities; rounding and
residues. -/

namespace Sys2Proof.Laws
open Sys2Proof Sys2Proof.Machine

theorem serialLt_comparable (a b : Word) : ¬ (serialLt a b = true ∧ serialLt b a = true) ∧
    (a ≠ b → b - a ≠ 2147483648 → serialLt a b = true ∨ serialLt b a = true) := by
  unfold serialLt
  simp only [Bool.and_eq_true, decide_eq_true_eq]
  constructor
  · rintro ⟨⟨h1, h2⟩, h3, h4⟩
    bv_omega
  · intro h1 h2
    have : (b - a).toNat ≠ 2147483648 := by
      intro e; apply h2; apply BitVec.eq_of_toNat_eq; simpa using e
    have h1' : a.toNat ≠ b.toNat := fun e => h1 (BitVec.eq_of_toNat_eq e)
    bv_omega

theorem mem_insertSource {f : Nat → Nat} {x : Nat} {l : List Nat} {y : Nat} (h : y ∈ insertSource f x l) : y = x ∨ y ∈ l := by
  induction l with
  | nil => simp [insertSource] at h; exact .inl h
  | cons a l ih =>
    simp only [insertSource] at h
    split at h
    · simpa using h
    · rcases List.mem_cons.mp h with h | h
      · exact .inr (by simp [h])
      · rcases ih h with h | h
        · exact .inl h
        · exact .inr (by simp [h])

def SourcesOrdered (f : Nat → Nat) (l : List Nat) : Prop := l.Pairwise fun a b => f b ≤ f a ∧ (f b = f a → b ≤ a)

theorem insertSource_ordered {f : Nat → Nat} {x : Nat} {l : List Nat} (h : SourcesOrdered f l) : SourcesOrdered f (insertSource f x l) := by
  induction l with
  | nil => simp [insertSource, SourcesOrdered]
  | cons a l ih =>
    simp only [insertSource]
    have ha := List.pairwise_cons.mp h
    split
    · rename_i hc
      simp only [Bool.or_eq_true, decide_eq_true_eq, Bool.and_eq_true] at hc
      refine List.pairwise_cons.mpr ⟨?_, h⟩
      intro b hb
      rcases List.mem_cons.mp hb with rfl | hb
      · omega
      · have := ha.1 b hb; omega
    · rename_i hc
      simp only [Bool.or_eq_true, decide_eq_true_eq, Bool.and_eq_true] at hc
      refine List.pairwise_cons.mpr ⟨?_, ih ha.2⟩
      intro b hb
      rcases mem_insertSource hb with rfl | hb
      · omega
      · exact ha.1 b hb

theorem foldl_insertSource_ordered {α : Type} {f : Nat → Nat} {g : α → Nat} (l : List α) (acc : List Nat) (h : SourcesOrdered f acc) :
    SourcesOrdered f (l.foldl (fun acc p => insertSource f (g p) acc) acc) := by
  induction l generalizing acc with
  | nil => exact h
  | cons a l ih => exact ih _ (insertSource_ordered h)

theorem serialLt_asymm (a b : Word) : serialLt a b = true → serialLt b a = false := by
  simp only [serialLt]
  intro h
  simp only [Bool.and_eq_true, decide_eq_true_eq, ne_eq] at h
  simp
  revert h
  intro h
  bv_omega

def lexOrder (c d r q s t : Nat) (x : Bool) : Bool :=
  if c ≠ d then decide (c < d) else if r ≠ q then decide (r < q) else if s ≠ t then decide (s < t) else x

theorem lexOrder_true {c d r q s t : Nat} {x : Bool} : lexOrder c d r q s t x = true ↔
    c < d ∨ (c = d ∧ (r < q ∨ (r = q ∧ (s < t ∨ (s = t ∧ x = true))))) := by
  unfold lexOrder
  by_cases h1 : c = d
  · by_cases h2 : r = q
    · by_cases h3 : s = t
      · simp [h1, h2, h3]
      · simp [h1, h2, h3]
    · simp [h1, h2]
  · simp [h1]

theorem lexOrder_asymm {c d r q s t : Nat} {x y : Bool} (h : lexOrder c d r q s t x = true) (g : x = true → y = false) : lexOrder d c q r t s y = false := by
  rw [Bool.eq_false_iff]; intro k
  rw [lexOrder_true] at h k
  have : x = true → ¬ y = true := fun e => by simp [g e]
  by_cases hx : x = true <;> by_cases hy : y = true <;> simp [hx, hy] at * <;> omega

theorem lexOrder_tie {c d r q s t : Nat} {x : Bool} (h : lexOrder c d r q s t x = false) : lexOrder c d r q s t false = false := by
  rw [Bool.eq_false_iff] at *; intro k; apply h
  rw [lexOrder_true] at *; simp at k; omega

theorem lexOrder_trans {c d e r q p s t u : Nat} (h : lexOrder d c q r t s false = false) (g : lexOrder e d p q u t false = false) :
    lexOrder e c p r u s false = false := by
  rw [Bool.eq_false_iff, Ne, lexOrder_true] at *; simp at *; omega

def tagCount (a : Tag) : Nat := a.epoch * 4294967296 + a.tn

def tagSource (a : Tag) : Nat := a.srcMod * 32768 + a.srcLocal

theorem tagBefore_lexOrder (a b : Tag) : tagBefore a b =
    lexOrder (tagCount a) (tagCount b) a.rank b.rank (tagSource a) (tagSource b) (serialLt a.seq b.seq) := by
  rfl

theorem serialLt_self : serialLt 0 0 = false := by decide

theorem tagBefore_sameSeq (a b : Tag) : tagBefore { a with seq := 0 } { b with seq := 0 } =
    lexOrder (tagCount a) (tagCount b) a.rank b.rank (tagSource a) (tagSource b) false := by
  rw [tagBefore_lexOrder]; simp only [serialLt_self]; rfl

theorem tagBefore_asymm {a b : Tag} (h : tagBefore a b = true) : tagBefore b a = false := by
  rw [tagBefore_lexOrder] at h ⊢; exact lexOrder_asymm h (serialLt_asymm _ _)

theorem tagBefore_reverse {a b : Tag} (h : tagBefore a b = true) : tagBefore { b with seq := 0 } { a with seq := 0 } = false := by
  rw [tagBefore_lexOrder] at h; rw [tagBefore_sameSeq]; exact lexOrder_asymm h (fun _ => rfl)

theorem tagBefore_tie {a b : Tag} (h : tagBefore a b = false) : tagBefore { a with seq := 0 } { b with seq := 0 } = false := by
  rw [tagBefore_lexOrder] at h; rw [tagBefore_sameSeq]; exact lexOrder_tie h

theorem tagBefore_tie_trans {a b c : Tag} (h : tagBefore { b with seq := 0 } { a with seq := 0 } = false)
    (g : tagBefore { c with seq := 0 } { b with seq := 0 } = false) : tagBefore { c with seq := 0 } { a with seq := 0 } = false := by
  rw [tagBefore_sameSeq] at h g ⊢; exact lexOrder_trans h g

theorem insertVisible_perm (v : Visible) (l : List Visible) : (insertVisible v l).Perm (v :: l) := by
  induction l with
  | nil => exact .refl _
  | cons x r ih =>
    simp only [insertVisible]
    split
    · exact .refl _
    · exact (List.Perm.cons x ih).trans (.swap _ _ _)

theorem insertVisible_pairwise {v : Visible} {l : List Visible}
    (h : l.Pairwise (fun a b => tagBefore { visibleTag b with seq := 0 } { visibleTag a with seq := 0 } = false)) :
    (insertVisible v l).Pairwise (fun a b => tagBefore { visibleTag b with seq := 0 } { visibleTag a with seq := 0 } = false) := by
  induction l with
  | nil => simp [insertVisible]
  | cons x r ih =>
    have hx := List.pairwise_cons.mp h
    simp only [insertVisible]
    split
    · rename_i hb
      refine List.pairwise_cons.mpr ⟨fun b hm => ?_, h⟩
      rcases List.mem_cons.mp hm with rfl | hm
      · exact tagBefore_reverse hb
      · exact tagBefore_tie_trans (tagBefore_reverse hb) (hx.1 b hm)
    · rename_i hb
      refine List.pairwise_cons.mpr ⟨fun b hm => ?_, ih hx.2⟩
      rcases List.mem_cons.mp ((insertVisible_perm v r).mem_iff.mp hm) with rfl | hm
      · exact tagBefore_tie (by simpa using hb)
      · exact hx.1 b hm

def NeighboursOrdered (l : List Visible) : Prop :=
  ∀ i a b, l[i]? = some a → l[i + 1]? = some b → tagBefore (visibleTag b) (visibleTag a) = false

theorem insertVisible_head (v x : Visible) (r : List Visible) : (insertVisible v (x :: r))[0]? = some v ∨ (insertVisible v (x :: r))[0]? = some x := by
  simp only [insertVisible]; split <;> simp

theorem insertVisible_neighbours {v : Visible} {l : List Visible} (h : NeighboursOrdered l) : NeighboursOrdered (insertVisible v l) := by
  induction l with
  | nil => intro i a b h1 h2; simp [insertVisible] at h2
  | cons x r ih =>
    have hr : NeighboursOrdered r := fun i a b h1 h2 => h (i + 1) a b (by simpa using h1) (by simpa using h2)
    simp only [insertVisible]
    split
    · rename_i hb
      intro i a b h1 h2
      cases i with
      | zero => simp at h1 h2; subst h1 h2; exact tagBefore_asymm hb
      | succ i => exact h i a b (by simpa using h1) (by simpa using h2)
    · rename_i hb
      intro i a b h1 h2
      cases i with
      | zero =>
        simp at h1 h2; subst h1
        cases r with
        | nil => simp [insertVisible] at h2; subst h2; simpa using hb
        | cons y r =>
          have h2 : (insertVisible v (y :: r))[0]? = some b := by simpa using h2
          rcases insertVisible_head v y r with e | e
          · rw [e] at h2; cases h2; simpa using hb
          · rw [e] at h2; cases h2; exact h 0 _ _ (by simp) (by simp)
      | succ i => exact ih hr i a b (by simpa using h1) (by simpa using h2)

theorem disjoint_counts {α : Type} (l : List α) (p q : α → Bool) (h : ∀ a, ¬ (p a = true ∧ q a = true)) :
    (l.filter p).length + (l.filter q).length ≤ l.length := by
  induction l with
  | nil => simp
  | cons a l ih =>
    simp only [List.filter_cons, List.length_cons]
    have := h a
    by_cases h1 : p a = true <;> by_cases h2 : q a = true <;> simp only [h1, h2, if_true, if_false, Bool.false_eq_true, List.length_cons] <;> first | omega | exact absurd ⟨h1, h2⟩ this

theorem majority_iff (ds : List (Option (BitVec 128))) (d : BitVec 128) (h : ds.length ≤ 3) :
    majority ds = some d ↔ 2 ≤ (ds.filter (· = some d)).length := by
  have fwd : ∀ e, majority ds = some e → 2 ≤ (ds.filter (· = some e)).length := by
    intro e he
    obtain ⟨x, _, hx⟩ := List.exists_of_findSome?_eq_some he
    cases x with
    | none => cases hx
    | some y =>
      simp only [Option.bind_some] at hx
      split at hx
      · cases hx; assumption
      · cases hx
  refine ⟨fwd d, fun hd => ?_⟩
  cases hm : majority ds with
  | some e =>
    have he := fwd e hm
    by_cases h' : e = d
    · rw [h']
    · have := disjoint_counts ds (· = some e) (· = some d) (by
        intro a; simp only [decide_eq_true_eq]; rintro ⟨rfl, h2⟩; exact h' (Option.some.inj h2))
      omega
  | none =>
    have hn := List.findSome?_eq_none_iff.mp hm
    have : ∃ a ∈ ds, a = some d := by
      have : ds.filter (· = some d) ≠ [] := by intro e; rw [e] at hd; simp at hd
      obtain ⟨a, ha⟩ := List.exists_mem_of_ne_nil _ this
      have := List.mem_filter.mp ha
      exact ⟨a, this.1, by simpa using this.2⟩
    obtain ⟨a, ha, rfl⟩ := this
    have := hn _ ha
    simp only [Option.bind_some] at this
    rw [if_pos hd] at this; cases this

theorem roundNearest {m d : Nat} (hd : 0 < d) :
   ∃ q, q = (if d < 2 * (m % d) || (2 * (m % d) = d && (m / d) % 2 = 1) then m / d + 1 else m / d) ∧
    2 * (q * d) ≤ 2 * m + d ∧ 2 * m ≤ 2 * (q * d) + d ∧
    ((2 * m = 2 * (q * d) + d ∨ 2 * (q * d) = 2 * m + d) → q % 2 = 0) := by
  have h := Nat.div_add_mod m d
  have h2 := Nat.mod_lt m hd
  generalize m % d = r at *
  generalize m / d = k at *
  rw [Nat.mul_comm] at h
  refine ⟨_, rfl, ?_⟩
  split
  · rename_i hc
    simp only [Bool.or_eq_true, Bool.and_eq_true, decide_eq_true_eq] at hc
    rw [Nat.add_mul, Nat.one_mul]
    generalize k * d = p at *
    refine ⟨by omega, by omega, by omega⟩
  · rename_i hc
    simp only [Bool.or_eq_true, Bool.and_eq_true, decide_eq_true_eq] at hc
    generalize k * d = p at *
    refine ⟨by omega, by omega, by omega⟩

theorem two_pow_mod (k : Nat) : (2 : Nat) ^ k % 127 = 2 ^ (k % 7) := by
  conv_lhs => rw [← Nat.div_add_mod k 7, pow_add, pow_mul, Nat.mul_mod, Nat.pow_mod]
  norm_num
  have : k % 7 < 7 := Nat.mod_lt _ (by omega)
  generalize k % 7 = j at *
  interval_cases j <;> norm_num

theorem residue_congr (a b : Int) (h : a % 127 = b % 127) : residue a = residue b := by unfold residue; rw [h]

theorem residue_int (a : Int) : ((residue a : Nat) : Int) = a % 127 := by unfold residue; omega

end Sys2Proof.Laws
end

