-- ==== Sys2Proof/Laws/PerInstr.lean ====
section
/-! SUPPORT. Laws/PerInstr.lean: of every command as syntax, that it carries a header exactly where the table of opcodes lists
it, and that the table gives it an OPCODE of 16 bits. -/

namespace Sys2Proof.Laws
open Sys2Proof Sys2Proof.Machine

/-- A command carries a sluice header exactly where the table of opcodes lists it, under a 16-bit OPCODE. -/
def Listed.Statement (c : Instr) : Prop :=
  (hdrOf c).isSome = (opInfo c).isSome ∧ ∀ i, opInfo c = some i → i.code < 65536

theorem listed (c : Instr) : Listed.Statement c := by
  cases c <;> simp [Listed.Statement, hdrOf, opInfo]

theorem Listed.identify (h : Hdr) : Listed.Statement (.identify h) := listed _
theorem Listed.setTide (h : Hdr) (periodQ swellLen : Nat) : Listed.Statement (.setTide h periodQ swellLen) := listed _
theorem Listed.setTimebase (h : Hdr) (source domain : Nat) : Listed.Statement (.setTimebase h source domain) := listed _
theorem Listed.getHealth (h : Hdr) : Listed.Statement (.getHealth h) := listed _
theorem Listed.polderCreate (h : Hdr) (cls sluices bwWeight sramMiB hbmUnits spillGiB : Nat) :
    Listed.Statement (.polderCreate h cls sluices bwWeight sramMiB hbmUnits spillGiB) := listed _
theorem Listed.polderDestroy (h : Hdr) : Listed.Statement (.polderDestroy h) := listed _
theorem Listed.polderReset (h : Hdr) : Listed.Statement (.polderReset h) := listed _
theorem Listed.polderQuery (h : Hdr) : Listed.Statement (.polderQuery h) := listed _
theorem Listed.setTokenBudget (h : Hdr) (refill burst : Nat) : Listed.Statement (.setTokenBudget h refill burst) := listed _
theorem Listed.graphLoad (h : Hdr) (handle t d imageLen : Nat) (img : Image) :
    Listed.Statement (.graphLoad h handle t d imageLen img) := listed _
theorem Listed.graphUnload (h : Hdr) (handle : Nat) : Listed.Statement (.graphUnload h handle) := listed _
theorem Listed.graphQueryPlacement (h : Hdr) (handle : Nat) (buf : Buf) :
    Listed.Statement (.graphQueryPlacement h handle buf) := listed _
theorem Listed.runAtTide (h : Hdr) (handle run deadline descCount : Nat) (descs : List Desc) (fault : Bool) :
    Listed.Statement (.runAtTide h handle run deadline descCount descs fault) := listed _
theorem Listed.runPeriodic (h : Hdr) (handle run period deadline descCount count : Nat) (descs : List Desc) (fault : Bool) :
    Listed.Statement (.runPeriodic h handle run period deadline descCount count descs fault) := listed _
theorem Listed.streamBind (h : Hdr) (rank port srcLocal handle unbind srcMod : Nat) :
    Listed.Statement (.streamBind h rank port srcLocal handle unbind srcMod) := listed _
theorem Listed.runStop (h : Hdr) (handle run : Nat) : Listed.Statement (.runStop h handle run) := listed _
theorem Listed.modelVariantAdd (h : Hdr) (handle variant imageLen : Nat) (img : Image) :
    Listed.Statement (.modelVariantAdd h handle variant imageLen img) := listed _
theorem Listed.requestSubmit (h : Hdr) (handle variant deadline reqLen : Nat) (req : ReqDesc) :
    Listed.Statement (.requestSubmit h handle variant deadline reqLen req) := listed _
theorem Listed.requestCancel (h : Hdr) (reqSeq : Word) (reqSluice : Nat) :
    Listed.Statement (.requestCancel h reqSeq reqSluice) := listed _
theorem Listed.commonsJoin (h : Hdr) (group : Nat) : Listed.Statement (.commonsJoin h group) := listed _
theorem Listed.codecSessionOpen (h : Hdr) (kind profile width height interval : Nat) (cfg : CodecCfg) :
    Listed.Statement (.codecSessionOpen h kind profile width height interval cfg) := listed _
theorem Listed.codecSessionClose (h : Hdr) (session : Nat) : Listed.Statement (.codecSessionClose h session) := listed _
theorem Listed.codecPicture (h : Hdr) (session inLen : Nat) (inAddr outAddr : Word64) (out : OutArea) :
    Listed.Statement (.codecPicture h session inLen inAddr outAddr out) := listed _
theorem Listed.setPhaseOp (h : Hdr) (ops : List Nat) : Listed.Statement (.setPhaseOp h ops) := listed _
theorem Listed.setPowerCap (h : Hdr) (capW windowS leaseS orphanW : Nat) :
    Listed.Statement (.setPowerCap h capW windowS leaseS orphanW) := listed _
theorem Listed.getTelemetry (h : Hdr) (buf : Buf) : Listed.Statement (.getTelemetry h buf) := listed _
theorem Listed.safetyProfileSet (h : Hdr) (sShare qAdmit : Nat) :
    Listed.Statement (.safetyProfileSet h sShare qAdmit) := listed _
theorem Listed.goldenSet (h : Hdr) (handle : Nat) (digest : BitVec 128) :
    Listed.Statement (.goldenSet h handle digest) := listed _
theorem Listed.breachLogRead (h : Hdr) (first : Nat) (buf : Buf) : Listed.Statement (.breachLogRead h first buf) := listed _
theorem Listed.attest (h : Hdr) (nonce : BitVec 256) (buf : Buf) : Listed.Statement (.attest h nonce buf) := listed _
theorem Listed.keyRotateMemory (h : Hdr) : Listed.Statement (.keyRotateMemory h) := listed _
theorem Listed.keyRotateLink (h : Hdr) (key : Nat) : Listed.Statement (.keyRotateLink h key) := listed _
theorem Listed.lifecycleAdvance (h : Hdr) (target : Nat) : Listed.Statement (.lifecycleAdvance h target) := listed _
theorem Listed.fwStage (h : Hdr) (offset len : Nat) (last : Bool) (buf : Buf) (image : BankImage) :
    Listed.Statement (.fwStage h offset len last buf image) := listed _
theorem Listed.fwVerify (h : Hdr) : Listed.Statement (.fwVerify h) := listed _
theorem Listed.fwActivate (h : Hdr) (condition : Nat) (overrun : Option (Nat × Nat)) :
    Listed.Statement (.fwActivate h condition overrun) := listed _
theorem Listed.selftestReport (h : Hdr) (buf : Buf) : Listed.Statement (.selftestReport h buf) := listed _
theorem Listed.debugUnlock (h : Hdr) (scope : Nat) : Listed.Statement (.debugUnlock h scope) := listed _
theorem Listed.tidePreset (h : Hdr) (epoch tn : Nat) : Listed.Statement (.tidePreset h epoch tn) := listed _
theorem Listed.linkConfig (h : Hdr) (portMask enableMask : Byte) (index : Nat) :
    Listed.Statement (.linkConfig h portMask enableMask index) := listed _
theorem Listed.linkStatus (h : Hdr) (port : Nat) : Listed.Statement (.linkStatus h port) := listed _
theorem Listed.sluiceEnable (fn : Fn) (n : Nat) (value : Word) : Listed.Statement (.sluiceEnable fn n value) := listed _
theorem Listed.sluiceDisable (fn : Fn) (n : Nat) (value : Word) : Listed.Statement (.sluiceDisable fn n value) := listed _
theorem Listed.doorbell (fn : Fn) (n : Nat) (value : Word) : Listed.Statement (.doorbell fn n value) := listed _
theorem Listed.cplOnly (fn : Fn) (n : Nat) (value : Word) : Listed.Statement (.cplOnly fn n value) := listed _
theorem Listed.ringFaultClear (fn : Fn) (n : Nat) (data : WriteIn) :
    Listed.Statement (.ringFaultClear fn n data) := listed _
theorem Listed.tideNowLoRead (fn : Fn) (read : ReadIn) : Listed.Statement (.tideNowLoRead fn read) := listed _
theorem Listed.rearm (data : RearmIn) : Listed.Statement (.rearm data) := listed _
theorem Listed.modCtrClr (value : Word) : Listed.Statement (.modCtrClr value) := listed _
theorem Listed.vfCtrClr (p : Nat) (value : Word) : Listed.Statement (.vfCtrClr p value) := listed _
theorem Listed.arbClrClear (value : Word) : Listed.Statement (.arbClrClear value) := listed _
theorem Listed.arbClrClearAll (value : Word) : Listed.Statement (.arbClrClearAll value) := listed _
theorem Listed.scrClr (io : Nat) (value : Word) : Listed.Statement (.scrClr io value) := listed _
theorem Listed.dormantRequest : Listed.Statement (.dormantRequest) := listed _
theorem Listed.dormantWakeWrite : Listed.Statement (.dormantWakeWrite) := listed _
theorem Listed.holdSet (hub : Nat) : Listed.Statement (.holdSet hub) := listed _
theorem Listed.holdRelease (hub : Nat) : Listed.Statement (.holdRelease hub) := listed _
theorem Listed.registerWrite (fn : Fn) (offset size : Nat) (data : WriteIn) :
    Listed.Statement (.registerWrite fn offset size data) := listed _
theorem Listed.interruptClaim (hub core : Nat) : Listed.Statement (.interruptClaim hub core) := listed _
theorem Listed.endOfInterrupt (hub core : Nat) : Listed.Statement (.endOfInterrupt hub core) := listed _
theorem Listed.msixUnmask (fn : Fn) (vector : Nat) : Listed.Statement (.msixUnmask fn vector) := listed _
theorem Listed.busMasterEnable (fn : Fn) : Listed.Statement (.busMasterEnable fn) := listed _
theorem Listed.numVfsEnable (n : Nat) : Listed.Statement (.numVfsEnable n) := listed _
theorem Listed.pcieConventionalReset : Listed.Statement (.pcieConventionalReset) := listed _
theorem Listed.pf0FunctionLevelReset (link : Nat) : Listed.Statement (.pf0FunctionLevelReset link) := listed _
theorem Listed.vfFunctionLevelReset (p : Nat) : Listed.Statement (.vfFunctionLevelReset p) := listed _
theorem Listed.ringBusError (fn : Fn) (n : Nat) : Listed.Statement (.ringBusError fn n) := listed _
theorem Listed.presenceHoldTimeout : Listed.Statement (.presenceHoldTimeout) := listed _
theorem Listed.presenceAssert : Listed.Statement (.presenceAssert) := listed _
theorem Listed.presenceDeassert : Listed.Statement (.presenceDeassert) := listed _
theorem Listed.buttonStuck : Listed.Statement (.buttonStuck) := listed _
theorem Listed.sealBreak : Listed.Statement (.sealBreak) := listed _
theorem Listed.glitchDetect (clock : Bool) : Listed.Statement (.glitchDetect clock) := listed _
theorem Listed.wipeDone (io : Nat) : Listed.Statement (.wipeDone io) := listed _
theorem Listed.mateSenseOpen (pin : Nat) : Listed.Statement (.mateSenseOpen pin) := listed _
theorem Listed.switch48vClose (boot : BootIn) : Listed.Statement (.switch48vClose boot) := listed _
theorem Listed.aonPowerOn (w : Warden) (slotId : Nat) : Listed.Statement (.aonPowerOn w slotId) := listed _
theorem Listed.auxWarn (w : Warden) (tenMv : Nat) : Listed.Statement (.auxWarn w tenMv) := listed _
theorem Listed.auxWarnEnd (w : Warden) (tenMv : Nat) : Listed.Statement (.auxWarnEnd w tenMv) := listed _
theorem Listed.auxOff (w : Warden) : Listed.Statement (.auxOff w) := listed _
theorem Listed.auxRise (w : Warden) (tenMv : Nat) : Listed.Statement (.auxRise w tenMv) := listed _
theorem Listed.sagWarn (tenMv : Nat) : Listed.Statement (.sagWarn tenMv) := listed _
theorem Listed.sagWarnEnd (tenMv : Nat) : Listed.Statement (.sagWarnEnd tenMv) := listed _
theorem Listed.trip48 (tenMv : Nat) : Listed.Statement (.trip48 tenMv) := listed _
theorem Listed.supplyRestart (boot : BootIn) : Listed.Statement (.supplyRestart boot) := listed _
theorem Listed.brakeAssert : Listed.Statement (.brakeAssert) := listed _
theorem Listed.brakeRelease : Listed.Statement (.brakeRelease) := listed _
theorem Listed.coolantSample (flow : Nat) (inlet outlet : Int) (hotRise : Bool) :
    Listed.Statement (.coolantSample flow inlet outlet hotRise) := listed _
theorem Listed.flowWarning : Listed.Statement (.flowWarning) := listed _
theorem Listed.flowWarningEnd : Listed.Statement (.flowWarningEnd) := listed _
theorem Listed.flowBShed : Listed.Statement (.flowBShed) := listed _
theorem Listed.flowBShedEnd : Listed.Statement (.flowBShedEnd) := listed _
theorem Listed.coolantStop : Listed.Statement (.coolantStop) := listed _
theorem Listed.coolantStopEnd : Listed.Statement (.coolantStopEnd) := listed _
theorem Listed.coolantRestart (boot : BootIn) : Listed.Statement (.coolantRestart boot) := listed _
theorem Listed.thermalComparatorTrip (hotspot : Nat) (a b : Int) :
    Listed.Statement (.thermalComparatorTrip hotspot a b) := listed _
theorem Listed.tideEdge (e : EdgeIn) : Listed.Statement (.tideEdge e) := listed _
theorem Listed.timeAlignFault : Listed.Statement (.timeAlignFault) := listed _
theorem Listed.leaseExpiry : Listed.Statement (.leaseExpiry) := listed _
theorem Listed.rungClimb : Listed.Statement (.rungClimb) := listed _
theorem Listed.rungLift : Listed.Statement (.rungLift) := listed _
theorem Listed.powerModelMismatch : Listed.Statement (.powerModelMismatch) := listed _
theorem Listed.sensorSuspect (hotspot : Nat) : Listed.Statement (.sensorSuspect hotspot) := listed _
theorem Listed.gptpSync (port : Nat) (domain : Nat) (offsetNs : Int) :
    Listed.Statement (.gptpSync port domain offsetNs) := listed _
theorem Listed.syncTimeout : Listed.Statement (.syncTimeout) := listed _
theorem Listed.clockMonitorFlag (domain : Nat) (duringSwitch : Bool) :
    Listed.Statement (.clockMonitorFlag domain duringSwitch) := listed _
theorem Listed.clockWatchdogExpiry (domain : Nat) : Listed.Statement (.clockWatchdogExpiry domain) := listed _
theorem Listed.judgeWindow (osc : Nat) (ratioPpm : Int) : Listed.Statement (.judgeWindow osc ratioPpm) := listed _
theorem Listed.rejudgeTimer (osc : Nat) : Listed.Statement (.rejudgeTimer osc) := listed _
theorem Listed.controlCoreWatchdog (io core : Nat) : Listed.Statement (.controlCoreWatchdog io core) := listed _
theorem Listed.inputArrival (d : Datum) : Listed.Statement (.inputArrival d) := listed _
theorem Listed.arithCheck (polder run inv stack tile unit : Nat) :
    Listed.Statement (.arithCheck polder run inv stack tile unit) := listed _
theorem Listed.uncorrectable (polder : Nat) (tier : Tier) (tensor stack tile row : Nat) (error : HardError) :
    Listed.Statement (.uncorrectable polder tier tensor stack tile row error) := listed _
theorem Listed.correctableError (polder : Nat) (tier : Tier) (error : SoftError) :
    Listed.Statement (.correctableError polder tier error) := listed _
theorem Listed.arbiterStarvation (inst input : Nat) : Listed.Statement (.arbiterStarvation inst input) := listed _
theorem Listed.scratchpadAccess (io : Nat) (accesses : List ScrAccess) :
    Listed.Statement (.scratchpadAccess io accesses) := listed _
theorem Listed.scrubDone (job : Nat) : Listed.Statement (.scrubDone job) := listed _
theorem Listed.scrubPending (fn : Fn) (sluice : Nat) (seq : Word) : Listed.Statement (.scrubPending fn sluice seq) := listed _
theorem Listed.keySweepDone (p : Nat) : Listed.Statement (.keySweepDone p) := listed _
theorem Listed.kvCopyDone (p sluice : Nat) (seq : Word) (page : Nat) :
    Listed.Statement (.kvCopyDone p sluice seq page) := listed _
theorem Listed.selftestSliceEnd (stack tile item number : Nat) (passed : Bool) :
    Listed.Statement (.selftestSliceEnd stack tile item number passed) := listed _
theorem Listed.slicePreempt (stack tile : Nat) : Listed.Statement (.slicePreempt stack tile) := listed _
theorem Listed.promotionCopyDone (ok : Bool) : Listed.Statement (.promotionCopyDone ok) := listed _
theorem Listed.resultReady (polder run channel : Nat) (payload : List Byte) :
    Listed.Statement (.resultReady polder run channel payload) := listed _
theorem Listed.voteFrame (w : Warden) (f : VoteFrame) : Listed.Statement (.voteFrame w f) := listed _
theorem Listed.voteCutoff (w : Warden) : Listed.Statement (.voteCutoff w) := listed _
theorem Listed.verdict (w : Warden) (lines : List VerdictLine) : Listed.Statement (.verdict w lines) := listed _
theorem Listed.segmentSent (w : Warden) (port : Nat) : Listed.Statement (.segmentSent w port) := listed _
theorem Listed.wardenTideMark (w : Warden) (count : Nat) (relabel late : Bool) :
    Listed.Statement (.wardenTideMark w count relabel late) := listed _
theorem Listed.tideMarkMissing (w : Warden) : Listed.Statement (.tideMarkMissing w) := listed _
theorem Listed.fallbackPointRelease (w : Warden) : Listed.Statement (.fallbackPointRelease w) := listed _
theorem Listed.wardenBootDone (w : Warden) (injectionOk : Bool) : Listed.Statement (.wardenBootDone w injectionOk) := listed _
theorem Listed.wardenLockstepMismatch (w : Warden) : Listed.Statement (.wardenLockstepMismatch w) := listed _
theorem Listed.codecSliceDone (session index : Nat) (payload : List Byte) (rows : List Nat) :
    Listed.Statement (.codecSliceDone session index payload rows) := listed _
theorem Listed.codecCore (core : Nat) : Listed.Statement (.codecCore core) := listed _
theorem Listed.dormantEntryDone : Listed.Statement (.dormantEntryDone) := listed _
theorem Listed.dormantWake : Listed.Statement (.dormantWake) := listed _
theorem Listed.wardenTrialBoot (w : Warden) (reachedVoting : Bool) :
    Listed.Statement (.wardenTrialBoot w reachedVoting) := listed _
theorem Listed.cableDetect (port : Nat) (cable : Cable) : Listed.Statement (.cableDetect port cable) := listed _
theorem Listed.trainingTimeout (port : Nat) : Listed.Statement (.trainingTimeout port) := listed _
theorem Listed.laneFailure (port lane : Nat) : Listed.Statement (.laneFailure port lane) := listed _
theorem Listed.portDown (port : Nat) : Listed.Statement (.portDown port) := listed _
theorem Listed.authFrame (f : AuthFrame) : Listed.Statement (.authFrame f) := listed _
theorem Listed.authRetry (peer : Nat) : Listed.Statement (.authRetry peer) := listed _
theorem Listed.dataFrame (f : DataFrame) : Listed.Statement (.dataFrame f) := listed _
theorem Listed.controlFrame (f : ControlFrame) : Listed.Statement (.controlFrame f) := listed _
theorem Listed.peerFailed (member : Nat) : Listed.Statement (.peerFailed member) := listed _
theorem Listed.codewordUncorrectable (port : Nat) : Listed.Statement (.codewordUncorrectable port) := listed _
theorem Listed.keySwitchTimeout (peer : Nat) : Listed.Statement (.keySwitchTimeout peer) := listed _
theorem Listed.attestSigned (fn : Fn) : Listed.Statement (.attestSigned fn) := listed _
theorem Listed.breachLogFlush : Listed.Statement (.breachLogFlush) := listed _
theorem Listed.getMeasurements (fn : Fn) (nonce : BitVec 256) : Listed.Statement (.getMeasurements fn nonce) := listed _
theorem Listed.ideKm (fn : Fn) (stream : Nat) : Listed.Statement (.ideKm fn stream) := listed _
theorem Listed.lockInterfaceRequest (p : Nat) : Listed.Statement (.lockInterfaceRequest p) := listed _
theorem Listed.getDeviceInterfaceReport (p : Nat) : Listed.Statement (.getDeviceInterfaceReport p) := listed _
theorem Listed.stopInterfaceRequest (p : Nat) : Listed.Statement (.stopInterfaceRequest p) := listed _
theorem Listed.ideIntegrityFailure (p : Nat) : Listed.Statement (.ideIntegrityFailure p) := listed _
theorem Listed.spdmSessionEnd (fn : Fn) : Listed.Statement (.spdmSessionEnd fn) := listed _
theorem Listed.readVin (addr : Nat) : Listed.Statement (.readVin addr) := listed _
theorem Listed.readIin (addr : Nat) : Listed.Statement (.readIin addr) := listed _
theorem Listed.readTemperature1 (addr : Nat) : Listed.Statement (.readTemperature1 addr) := listed _
theorem Listed.readTemperature2 (addr : Nat) : Listed.Statement (.readTemperature2 addr) := listed _
theorem Listed.readPin (addr : Nat) : Listed.Statement (.readPin addr) := listed _
theorem Listed.tapInstruction (code : Byte) : Listed.Statement (.tapInstruction code) := listed _
theorem Listed.dbgSelect (seq : Byte) (target : Nat) : Listed.Statement (.dbgSelect seq target) := listed _
theorem Listed.dbgHalt (seq : Byte) : Listed.Statement (.dbgHalt seq) := listed _
theorem Listed.dbgResume (seq : Byte) : Listed.Statement (.dbgResume seq) := listed _
theorem Listed.dbgStep (seq : Byte) (arg : Nat) : Listed.Statement (.dbgStep seq arg) := listed _
theorem Listed.dbgBreakSet (seq : Byte) (slot : Nat) (addr : Word64) :
    Listed.Statement (.dbgBreakSet seq slot addr) := listed _
theorem Listed.dbgBreakClear (seq : Byte) (slot : Nat) : Listed.Statement (.dbgBreakClear seq slot) := listed _
theorem Listed.dbgSetAddr (seq : Byte) (space : Nat) (addr : Word64) :
    Listed.Statement (.dbgSetAddr seq space addr) := listed _
theorem Listed.dbgRead (seq : Byte) : Listed.Statement (.dbgRead seq) := listed _
theorem Listed.dbgWrite (seq : Byte) (data : Word64) : Listed.Statement (.dbgWrite seq data) := listed _
theorem Listed.dbgStatus (seq : Byte) : Listed.Statement (.dbgStatus seq) := listed _
theorem Listed.breakpointHit (target slot : Nat) (stepEnd : Bool) (pc : Word64) :
    Listed.Statement (.breakpointHit target slot stepEnd pc) := listed _
theorem Listed.admissionDecision (plans : List Plan) : Listed.Statement (.admissionDecision plans) := listed _
theorem Listed.quantumEnd (q : QuantumEnd) : Listed.Statement (.quantumEnd q) := listed _
theorem Listed.edgeBand : Listed.Statement (.edgeBand) := listed _
theorem Listed.codecPictureDone (codedBytes : Nat) (planes : List Byte) (found : DecodeFound) (refs : List Nat) (order : Int)
    (head : PictureHead) :
    Listed.Statement (.codecPictureDone codedBytes planes found refs order head) := listed _
theorem Listed.trainingStepDone (port : Nat) : Listed.Statement (.trainingStepDone port) := listed _
theorem Listed.hopAcknowledgement (port : Nat) (count : Nat) : Listed.Statement (.hopAcknowledgement port count) := listed _
theorem Listed.lossOfSignal (domain : Nat) : Listed.Statement (.lossOfSignal domain) := listed _
theorem Listed.signalReturn (domain : Nat) : Listed.Statement (.signalReturn domain) := listed _
theorem Listed.buttonRelease : Listed.Statement (.buttonRelease) := listed _
theorem Listed.coalescingTimer (hub source : Nat) : Listed.Statement (.coalescingTimer hub source) := listed _
theorem Listed.ihTgtThrWrite (fn : Fn) (offset : Nat) (value : Word) :
    Listed.Statement (.ihTgtThrWrite fn offset value) := listed _
theorem Listed.hostLinkDown : Listed.Statement (.hostLinkDown) := listed _
theorem Listed.keyExchange (fn : Fn) : Listed.Statement (.keyExchange fn) := listed _
theorem Listed.challenge (fn : Fn) (nonce : BitVec 256) : Listed.Statement (.challenge fn nonce) := listed _
theorem Listed.startInterfaceRequest (p : Nat) : Listed.Statement (.startInterfaceRequest p) := listed _
theorem Listed.fwStageDone : Listed.Statement (.fwStageDone) := listed _
theorem Listed.fwVerifyDone : Listed.Statement (.fwVerifyDone) := listed _

end Sys2Proof.Laws
end

