-- ==== Sys2Proof/WellFormed.lean ====
section
/-! DEFINITION. WellFormed.lean: which commands can be spelled at all: every field within the bits that its packet,
register or frame gives it. What a well-formed command may still be refused for is the machine's. -/

namespace Sys2Proof.WellFormed

/-- A field of `n` bits holds the value. -/
def fits (n v : Nat) : Bool := v < 2 ^ n

/-- A function number: VF0 to VF63 (R70). -/
def fnOk : Fn → Bool
  | .vf p => p < 64
  | _ => true

/-- The header's fields: OPCODE 16 bits, POLDER and SLUICE 8 bits each, a real sluice (command packet, R102). -/
def hdrOk (h : Hdr) : Bool := fnOk h.fn && h.sluice < 16 && fits 16 h.opcode && fits 8 h.polder && fits 8 h.sluiceField

/-- A host buffer's length is a 32-bit field. -/
def bufOk (b : Buf) : Bool := fits 32 b.len

/-- A run descriptor entry: a PORT of 8 bits and a LENGTH of 32. -/
def descOk (d : Desc) : Bool := fits 8 d.port && fits 32 d.len

/-- A tile number (R132): stacks CS0 to CS3 of 32 tiles. -/
def tileOk (stack tile : Nat) : Bool := stack < 4 && tile < 32

/-- An access of a scratchpad port (R196): six ports, 1 to 8 bytes. -/
def scrOk (a : ScrAccess) : Bool := a.port < 6 && 1 ≤ a.size && a.size ≤ 8

/-- A datum's source (R58): ranks 3 to 6. -/
def datumOk (d : Datum) : Bool := 3 ≤ d.rank && d.rank ≤ 6 && fits 9 d.srcMod && fits 15 d.srcLocal

/-- A command whose every field fits its place. -/
def instrOk : Instr → Bool
  | .setTide h q w => hdrOk h && fits 8 q && fits 16 w
  | .setTimebase h a d => hdrOk h && fits 8 a && fits 8 d
  | .polderCreate h c sl bw sr hb sp =>
    hdrOk h && fits 8 c && fits 8 sl && fits 8 bw && fits 16 sr && fits 16 hb && fits 16 sp
  | .setTokenBudget h r b => hdrOk h && fits 32 r && fits 32 b
  | .graphLoad h g t d l _ => hdrOk h && fits 8 g && fits 16 t && fits 16 d && fits 32 l
  | .graphUnload h g => hdrOk h && fits 8 g
  | .graphQueryPlacement h g b => hdrOk h && fits 8 g && bufOk b
  | .runAtTide h g r d n ds _ => hdrOk h && fits 8 g && fits 8 r && fits 16 d && fits 16 n && ds.all descOk
  | .runPeriodic h g r p d n c ds _ =>
    hdrOk h && fits 8 g && fits 8 r && fits 16 p && fits 16 d && fits 16 n && fits 32 c && ds.all descOk
  | .streamBind h rk p l g u m => hdrOk h && fits 8 rk && fits 8 p && fits 16 l && fits 8 g && fits 8 u && fits 16 m
  | .runStop h g r => hdrOk h && fits 8 g && fits 8 r
  | .modelVariantAdd h g v l _ => hdrOk h && fits 8 g && fits 16 v && fits 32 l
  | .requestSubmit h g v d l _ => hdrOk h && fits 8 g && fits 16 v && fits 32 d && fits 32 l
  | .requestCancel h _ sl => hdrOk h && fits 8 sl
  | .commonsJoin h g => hdrOk h && fits 16 g
  | .codecSessionOpen h k p w hh i _ => hdrOk h && fits 8 k && fits 8 p && fits 16 w && fits 16 hh && fits 16 i
  | .codecSessionClose h n => hdrOk h && fits 8 n
  | .codecPicture h n l _ _ o => hdrOk h && fits 8 n && fits 32 l && fits 32 o.len
  | .setPhaseOp h ops => hdrOk h && ops.all (fits 8)
  | .setPowerCap h c w l o => hdrOk h && fits 16 c && fits 8 w && fits 16 l && fits 16 o
  | .getTelemetry h b => hdrOk h && bufOk b
  | .safetyProfileSet h a b => hdrOk h && fits 8 a && fits 8 b
  | .goldenSet h g _ => hdrOk h && fits 8 g
  | .breachLogRead h f b => hdrOk h && fits 32 f && bufOk b
  | .attest h _ b => hdrOk h && bufOk b
  | .keyRotateLink h k => hdrOk h && fits 8 k
  | .lifecycleAdvance h t => hdrOk h && fits 8 t
  | .fwStage h o l _ b _ => hdrOk h && fits 32 o && fits 32 l && bufOk b
  | .selftestReport h b => hdrOk h && bufOk b
  | .debugUnlock h sc => hdrOk h && fits 8 sc
  | .tidePreset h e t => hdrOk h && fits 16 e && fits 32 t
  | .linkConfig h _ _ i => hdrOk h && fits 16 i
  | .linkStatus h p => hdrOk h && fits 8 p
  | .sluiceEnable fn n _ | .sluiceDisable fn n _ | .doorbell fn n _ | .cplOnly fn n _ | .ringFaultClear fn n _
  | .ringBusError fn n => fnOk fn && n < 16
  | .tideNowLoRead fn r => fnOk fn && fits 20 r.offset && 1 ≤ r.size && r.size ≤ 4
  | .registerWrite fn off sz _ => fnOk fn && fits 20 off && 1 ≤ sz && sz ≤ 4
  | .vfCtrClr p _ => p < 64
  | .scrClr io _ => io < 2
  | .quantumEnd q => tileOk q.stack q.tile || (q.stack = 4 && q.tile < 2)
  | .scratchpadAccess io as => io < 2 && as.all scrOk
  | .inputArrival d => datumOk d
  | .selftestSliceEnd st t _ _ _ => tileOk st t
  | .slicePreempt st t => tileOk st t
  | .thermalComparatorTrip h _ _ => h < 146
  | .sensorSuspect h => h < 146
  | i => match i with
    | .identify h | .getHealth h | .polderDestroy h | .polderReset h | .polderQuery h | .keyRotateMemory h
    | .fwVerify h | .fwActivate h _ _ => hdrOk h
    | _ => true

end Sys2Proof.WellFormed
end

