-- ==== Sys2Proof/Tests/Slice0.lean ====
section
/-! SUPPORT. Tests/Slice0.lean: ill-formed commands refused, the spec's worked examples, single steps, and for each statement
states and operands that meet its hypotheses. -/

namespace Sys2Proof.Tests
open Sys2Proof Sys2Proof.Machine Sys2Proof.Safety Sys2Proof.WellFormed

/-! ## Small states -/

/-- A header of PF0's sluice 0 with SEQ 1. -/
def hdr (op : Nat) : Hdr :=
  { fn := .pf0, sluice := 0, opcode := op, targetValid := false, fence := false, nowait := false, polder := 255,
    sluiceField := 0, seq := 1, targetTn := 0, bounce := 1 }

/-- Tides run, and PF0's sluice 0 has a command to fetch. -/
def up : State :=
  { State.reset with
    tide.running := true
    work.stackOk := [true, true, true, true]
    host.funcs := [(fnKey .pf0, { busMaster := true })]
    host.sluices := [(sluiceKey .pf0 0, { enable := true, cmdTail := 1 })] }

/-- `up` with one change of PF0's sluice 0. -/
def withSluice (f : Sluice → Sluice) : State := setSluice up .pf0 0 (f (getSluice up .pf0 0))

/-- A small polder of Class Q with one sluice. -/
def polder : Polder :=
  { cls := .Q, sluices := 1, bwWeight := 1, sramQuota := 0, hbmQuota := 0, spillQuota := 0, createdGen := 0, keyGen := 0 }

/-- `up` with the polder 63 and its virtual function. -/
def upP : State := { up with host.numVfs := 64, work.polders := [(63, polder)] }

/-- `up` with the main package unpowered, with the host link gone, and in DORMANT. -/
def down : State := { up with aon.switchClosed := false }
def linkless : State := { up with host.linkUp := false }
def asleep : State := { up with startup.dormant := true }

/-- `up` as module 510 of a fleet, with port 7 in its given state. -/
def upL (p : Port) : State := setPort { up with flash.index := some 510 } 7 p
/-- `upL` with a live association of module 511 on port 7. -/
def assoc : Assoc := { ports := [7], live := true, lastTide := some 0 }
def upA : State := setAssoc (upL { state := 2, lanes := 4, step := 5 }) 511 assoc

/-- `up` in the dark span of a restart. -/
def dark : State := { up with safety.restart := some ⟨0, 1, 2, false⟩ }

/-- A serving image of Class Q. -/
def img : Image :=
  { headerOk := true, size := 4096, digestOk := true, model := 1, version := 1, unknownRequired := false, hasClass := true,
    hasOperators := true, hasTensors := true, needsMaxima := false, hasMaxima := false, hasIo := true, cls := .Q,
    training := false, maxima := [], weights := [], initState := [], tensors := [], operators := [], inputs := [], lists := [],
    outPorts := [], safety := none,
    experts := some ⟨some ⟨32000, 2048, 1, 1, 16⟩, 1, 1, 1, 1, 0, 0, false⟩, fault := false }

def plan : Plan :=
  { tiles := [], degraded := [], hbm := [], spill := [], copy := [], degHbm := [], hbmBytes := [], spillBytes := [],
    d2dBytes := [], leveeBytes := [], stateBytes := 0, resultsPerTide := 0, replans := [], tiers := [], sizes := [],
    windowNs := 0, decodeNs := 0, prefillNsPerToken := 0, attnTiles := 0 }

def graph : Graph := { img := img, t := 2, d := 2, plan := plan }

def runOf : Run :=
  { handle := 15, cmd := .runStop (hdr 0) 0 0, intakeIx := 0, periodic := true, period := 2, deadline := 2, countLimit := 0,
    descs := [], originIx := 0 }

def reqDesc : ReqDesc :=
  { promptLen := 1, maxNew := 1, seed := 0, temperature := 0, topP := 0x3F800000, minP := 0, repPenalty := 0x3F800000, topK := 0,
    repWindow := 0, stop := [], outAddr := 0, outLen := 20, prompt := [31999], grammarLen := 0, grammar := none, fault := false }

def cfg : CodecCfg :=
  { source := 0, sink := 0, layout := 0, lowLatency := 0, split := 1, refs := 1, structure_ := 0, rcMode := 1, qpMin := 0,
    qpMax := 51, qpI := 20, qpP := 22, intraPeriod := 0, frameRate := 30000, bitrate := 1000, vbv := 1048576,
    maxPicBytes := 1048576, graphHandle := 0, graphPort := 0, ringLen := 0, ringAddr := 0, fault := false }

def session : Session := { polder := 63, kind := 0, profile := 0, width := 64, height := 64, interval := 5, cfg := cfg }

/-- A header of polder 63's virtual function. -/
def hdrV (op : Nat) : Hdr := { hdr op with fn := .vf 63, polder := 63 }

/-- `upP` with graph 15 in polder 63, and a session of it. -/
def upG : State :=
  { upP with
    work.polders := [(63, { polder with graphs := [(15, graph)] })]
    codec.sessions := [(63, session)] }

/-- A part of a bank whose checks all pass, and a bank with the highest security version. -/
def part (kind : Nat) : PartCheck := ⟨kind, 65535, 2, 4096 * kind, 4096, 0, true, true, true⟩
def image : BankImage := ⟨part 0, (List.range 6).map fun k => part (k + 1), 1, 2, 1, 1, 1⟩

def dueTag : Tag := ⟨0, 0, 1, 0, 1023, 1⟩

/-- A request whose page lies on the spillway, of polder 63. -/
def request : Request :=
  { cmd := .requestSubmit (hdrV 0x0402) 15 0 0 128 reqDesc, tag := dueTag, intakeIx := 0, handle := 15, variant := 0, desc := reqDesc, deadlineIx := none, pages := [{ frame := 9, state := 3 }] }
/-- A polder in a key rotation. -/
def rotating : Polder := { polder with rotation := some { cmd := .keyRotateMemory (hdrV 0x0802) }, requests := [request] }
/-- A run of Class S with one invocation in progress. -/
def inv : Invocation := { no := 1, launchIx := 0, commitIx := 2 }
def runS : Run := { runOf with invs := [inv] }
def upS : State :=
  { up with
    work.polders := [(63, { polder with cls := .S, runs := [(63, runS)] })]
    work.channels := [some 0, some 1, some 3]
    work.stackOk := [true, true, true, true]
    wardens.a.state := .voting
    wardens.b.state := .voting }

/-- A command of the queue that is due. -/
def due (c : Instr) : Queued := ⟨c, 0, 0, dueTag⟩

/-- The conditions of `AppliesAt`, computed. -/
theorem applies {c : Instr} {h : Hdr} {s : State} (a : hdrOf c = some h) (b : meetsReset s h c = false)
    (d : bounceStale c h s = false) : AppliesAt (due c) h s := ⟨a, b, d⟩

/-- The conditions of `Arrives`, computed. -/
def arrivesNow (c : Instr) (h : Hdr) (s : State) : Bool :=
  match opInfo c with
  | some i =>
    decide (hdrOf c = some h) && mayFetch s h && decide (seqFault (getSluice s h.fn h.sluice) h.seq = none) &&
      decide (h.seq ∉ (getSluice s h.fn h.sluice).applied) && !alreadyHeld s h &&
      decide (arrivalFault (taken c h s) c i h = none) && !ownResetting (taken c h s) i h &&
      (!i.gated || (taken c h s).aon.presence) && (!i.arrival || !bounceStale c h (taken c h s))
  | none => false

theorem arrives {c : Instr} {h : Hdr} {s : State} (a : arrivesNow c h s = true) : Arrives c h s := by
  unfold arrivesNow at a
  split at a
  · rename_i j hj
    simp only [Bool.and_eq_true, decide_eq_true_eq, Bool.not_eq_true', Bool.or_eq_true] at a
    obtain ⟨⟨⟨⟨⟨⟨⟨⟨a1, a2⟩, a3⟩, a4⟩, a5⟩, a6⟩, a7⟩, a8⟩, a9⟩ := a
    constructor
    all_goals first | assumption | (intro i hi; rw [hj] at hi; cases hi; first | assumption | (intro h; simp_all))
  · cases a

/-! ## States and operands that meet the statements' hypotheses -/

theorem test_meets_StepTakesOne : State.reset.pending = [] ∧ step State.reset = .next State.reset := ⟨rfl, rfl⟩
theorem test_meets_MemoryCanonicalKept : MemoryCanonical State.reset ∧ step State.reset = .next State.reset := ⟨rfl, rfl⟩
theorem test_meets_FusesOnlyAdvance : ∃ t, step { State.reset with pending := [.sealBreak] } = .next t := ⟨_, rfl⟩
theorem test_meets_DecommissionedForGood :
    let r : Nat → State := fun _ => { State.reset with ident.lifecycle := .decommissioned }
    (∀ k < 3, step (r k) = .next (r (k + 1))) ∧ (r 0).ident.lifecycle = .decommissioned := ⟨fun _ _ => rfl, rfl⟩
theorem test_meets_LinesZeroUntilWritten :
    memWf State.reset.mem.cells = true ∧ MemoryCanonical State.reset ∧ 127 % 64 + [(7 : Byte)].length ≤ 64 ∧
      tget State.reset.mem.written (127 / 64) = none ∧ 64 * (127 / 64) ≤ 64 ∧ 64 < 64 * (127 / 64) + 64 ∧ 64 < 127 :=
  ⟨rfl, rfl, by decide, rfl, by decide, by decide, by decide⟩
theorem test_meets_FewCommandsStore : writesCells (.sagWarn 4000) = false ∧ ∃ t, exec (.sagWarn 4000) up = .next t := ⟨rfl, _, rfl⟩
theorem test_meets_TnNamesNearestTide :
    resolveTn 4294967295 0 = some 4294967296 ∧ resolveTn 5 4294967295 = some (-1) ∧ resolveTn 0 2147483648 = none ∧
      resolveTn 0 2147483647 = some 2147483647 ∧ resolveTn 4294967296 2147483649 = some 2147483649 := by decide
theorem test_meets_MergeOrderTotal :
    let a : Tag := ⟨0, 0, 1, 0, 32767, 4294967295⟩
    a.tn < 4294967296 ∧ a.srcLocal < 32768 ∧ a ≠ { a with seq := 0 } ∧ (0 : Word) - a.seq ≠ 2147483648 ∧
      (a.seq - (a.seq - 1)).toNat < 2147483648 ∧ ((0 : Word) - (a.seq - 1)).toNat < 2147483648 := by decide
theorem test_meets_Writable : Writable .pf0 0 1 up := ⟨rfl, rfl, rfl, rfl, rfl, rfl, rfl⟩
theorem test_meets_SeqCheckedFirst :
    hdrOf (.identify (hdr 1)) = some (hdr 1) ∧ (opInfo (.identify (hdr 1))).isSome = true ∧ mayFetch up (hdr 1) = true ∧
      (getSluice up .pf0 0).prevSeq = none ∧
      mayFetch (withSluice fun x => { x with prevSeq := some 1 }) (hdr 1) = true ∧
      mayFetch (withSluice fun x => { x with prevSeq := some 2147483649 }) (hdr 1) = true ∧
      ¬ ((1 : Word) - 2147483649).toNat < 2147483648 ∧
      arrivalFault (taken (.identify (hdr 2)) (hdr 2) up) (.identify (hdr 2)) ⟨1, true, .none, false, true, false⟩ (hdr 2) =
        some (.badOpcode, .none) := ⟨rfl, rfl, rfl, rfl, rfl, rfl, by decide, rfl⟩
theorem test_meets_ArrivalFaultEnds :
    hdrOf (.identify (hdr 2)) = some (hdr 2) ∧ opInfo (.identify (hdr 2)) = some ⟨1, true, .none, false, true, false⟩ ∧
      mayFetch up (hdr 2) = true ∧ seqFault (getSluice up .pf0 0) (hdr 2).seq = none ∧
      (hdr 2).seq ∉ (getSluice up .pf0 0).applied ∧ alreadyHeld up (hdr 2) = false := by decide
theorem test_meets_PresenceHolds :
    let c := Instr.lifecycleAdvance (hdr 0x0803) 2
    ∃ i, opInfo c = some i ∧ i.gated = true ∧ mayFetch up (hdr 0x0803) = true ∧ alreadyHeld up (hdr 0x0803) = false ∧
      arrivalFault (taken c (hdr 0x0803) up) c i (hdr 0x0803) = none ∧ ownResetting (taken c (hdr 0x0803) up) i (hdr 0x0803) = false ∧
      (taken c (hdr 0x0803) up).aon.presence = false ∧ (taken c (hdr 0x0803) up).aon.held = none ∧ (hdr 0x0803).nowait = false ∧
      arrivalFault (taken c (hdr 0x0803) { up with aon.held := some ⟨.identify (hdr 2), 0⟩ }) c i (hdr 0x0803) = none ∧
      arrivalFault (taken c { hdr 0x0803 with nowait := true } up) (.lifecycleAdvance { hdr 0x0803 with nowait := true } 2) i
        { hdr 0x0803 with nowait := true } = none :=
  ⟨_, rfl, rfl, rfl, rfl, rfl, rfl, rfl, rfl, rfl, rfl, rfl⟩
theorem test_meets_TideLaunchedQueued :
    Arrives (.setPowerCap (hdr 0x0602) 1000 1 1 0) (hdr 0x0602) up ∧
      ∃ i, opInfo (.setPowerCap (hdr 0x0602) 1000 1 1 0) = some i ∧ i.arrival = false := ⟨arrives rfl, _, rfl, rfl⟩
theorem test_meets_ReportsComplete :
    Arrives (.identify (hdr 1)) (hdr 1) up ∧ Arrives (.getHealth (hdr 4)) (hdr 4) up ∧
      Arrives (.linkStatus (hdr 0x0B02) 7) (hdr 0x0B02) up ∧
      (let s : State := { up with work.polders := [(63, polder)] }
       ∃ x, getPolder s (polderOf { hdr 0x0104 with polder := 63 }) = some x ∧
        Arrives (.polderQuery { hdr 0x0104 with polder := 63 }) { hdr 0x0104 with polder := 63 } s) :=
  ⟨arrives rfl, arrives rfl, arrives rfl, _, rfl, arrives rfl⟩
theorem test_meets_BufferReportsComplete :
    Arrives (.getTelemetry (hdr 0x0603) ⟨648, 0, false⟩) (hdr 0x0603) up ∧
      (let s : State := recordBreach 0x15 0 255 255 255 0 0 up
       let c := Instr.breachLogRead (hdr 0x0703) 0 ⟨32, 0, false⟩
       Arrives c (hdr 0x0703) s ∧ ∃ b, readableBreaches (applying c (hdr 0x0703) s) (askerOf .pf0) 0 = [b]) ∧
      Arrives (.selftestReport (hdr 0x0A01) ⟨1048576, 0, false⟩) (hdr 0x0A01) up :=
  ⟨arrives rfl, ⟨arrives rfl, _, rfl⟩, arrives rfl⟩
theorem test_meets_ArrivalEffects :
    Arrives (.setTimebase (hdr 3) 3 0) (hdr 3) up ∧
      (signingBusy up .pf0 = false ∧ Arrives (.attest (hdr 0x0801) 5 ⟨37752, 0, false⟩) (hdr 0x0801) up) ∧
      (up.startup.activation = none ∧ 64 * 1024 * 1024 - 1 + 1 ≤ 64 * 1024 * 1024) ∧
      Arrives (.fwVerify (hdr 0x0902)) (hdr 0x0902) up ∧
      (up.ident.debugOpen = false ∧ Arrives (.linkConfig (hdr 0x0B01) 255 255 511) (hdr 0x0B01) up) ∧
      (members up = [] ∧ tideRefusal (applying (.setTide (hdr 2) 40 1024) (hdr 2) up) 40 1024 = none ∧
        Arrives (.setTide (hdr 2) 40 1024) (hdr 2) up) ∧
      (let s : State := { up with ident.lifecycle := .service, aon.presence := true }
       Arrives (.tidePreset (hdr 0x0A03) 2 0) (hdr 0x0A03) s ∧
        s.tide.count + tidesTo s (secondAfter s) < 2 * 4294967296 + 0) :=
  ⟨arrives rfl, ⟨rfl, arrives rfl⟩, ⟨rfl, by decide⟩, arrives rfl, ⟨rfl, arrives rfl⟩, ⟨rfl, rfl, arrives rfl⟩, arrives rfl, by decide⟩
theorem test_meets_ArrivalEffects_members :
    members upA = [511] ∧ tideRefusal (applying (.setTide (hdr 2) 40 1024) (hdr 2) upA) 40 1024 = none ∧
      Arrives (.setTide (hdr 2) 40 1024) (hdr 2) upA ∧
      (let s : State := { upA with ident.lifecycle := .service, aon.presence := true }
       members s = [511] ∧ Arrives (.tidePreset (hdr 0x0A03) 2 0) (hdr 0x0A03) s ∧
        s.tide.count + tidesTo s (secondAfter s) < 2 * 4294967296 + 0) :=
  ⟨rfl, rfl, arrives rfl, rfl, arrives rfl, by decide⟩
/-- What keeps an access from its register: the host link, the main package, the dark span, a polder that does not exist. -/
theorem test_meets_unreached :
    reachable linkless .pf0 = false ∧ writable linkless .pf0 = false ∧ reachable down .pf0 = false ∧ mainUp down = false ∧
      writable down .pf0 = false ∧ writable dark .pf0 = false ∧ reachable up (.vf 63) = false ∧
      writable { up with host.numVfs := 64 } (.vf 63) = false := by decide
theorem test_meets_SluiceStartsAndStops :
    writable up .pf0 = true ∧ ownsSluice up .pf0 15 = true ∧ (getSluice up .pf0 15).enable = false ∧ tdiLocked up .pf0 = false ∧
      (let v : Word := 0x0C1
       4 ≤ v.toNat / 16 % 16 ∧ v.toNat / 16 % 16 ≤ 12 ∧ v.getLsbD 8 = false) ∧
      (let v : Word := 0x0D1
       12 < v.toNat / 16 % 16) ∧
      (let v : Word := 0x1C1
       v.getLsbD 8 = true ∧ bounceOk up .pf0 = false ∧
        bounceOk (setFunc up .pf0 { getFunc up .pf0 with session := true }) .pf0 = true) ∧
      (let s := setTdi upP 63 1
       ownsSluice s (.vf 63) 0 = true ∧ writable s (.vf 63) = true ∧ tdiLocked s (.vf 63) = true ∧
        (getSluice s (.vf 63) 0).enable = false ∧ 4 ≤ (getSluice s (.vf 63) 0).sizeLog2) ∧
      ownsSluice upP (.vf 63) 1 = false ∧
      (getSluice up .pf0 0).enable = true ∧ (getSluice up .pf0 0).owed = [] ∧
      (getSluice (takeSlot (hdr 1) false up) .pf0 0).owed ≠ [] := by decide
theorem test_meets_DoorbellMovesRing :
    reachable up .pf0 = true ∧ up.startup.dormant = false ∧ up.startup.entering = false ∧ barDark up = false ∧
      polderGone up .pf0 = false ∧ ownsSluice up .pf0 0 = true ∧ (getSluice up .pf0 0).enable = true ∧
      (let x := getSluice up .pf0 0
       let v : Word := 0x000F000F
       v.toNat / 65536 % 4096 < sluiceSize x ∧ v.toNat % 4096 < sluiceSize x ∧
        (x.cmdTail + sluiceSize x - x.cmdHead) % sluiceSize x ≤ (v.toNat % 4096 + sluiceSize x - x.cmdHead) % sluiceSize x ∧
        sluiceSize x ≤ (16 : Word).toNat % 4096) ∧
      (reachable dark .pf0 = true ∧ barDark dark = true) ∧
      (let s : State := { up with host.numVfs := 64 }
       reachable s (.vf 63) = true ∧ barDark s = false ∧ polderGone s (.vf 63) = true) ∧
      (reachable upP (.vf 63) = true ∧ barDark upP = false ∧ polderGone upP (.vf 63) = false ∧ ownsSluice upP (.vf 63) 1 = false) ∧
      asleep.startup.dormant = true ∧ ({ up with startup.entering := true } : State).startup.entering = true := by decide
theorem test_meets_DoorbellMovesRing_behind :
    let x := getSluice (withSluice fun x => { x with cmdHead := 15, cmdTail := 0 }) .pf0 0
    let v : Word := 15
    (v.toNat % 4096 + sluiceSize x - x.cmdHead) % sluiceSize x < (x.cmdTail + sluiceSize x - x.cmdHead) % sluiceSize x ∧
      v.toNat / 65536 % 4096 < sluiceSize x ∧ sluiceSize x ≤ (0x100000 : Word).toNat / 65536 % 4096 := by decide
theorem test_meets_RingFaultSetAndCleared :
    ownsSluice up .pf0 0 = true ∧ (getSluice up .pf0 0).enable = true ∧ writable up .pf0 = true ∧
      (getSluice up .pf0 0).bounceStopped = false ∧ busOk up .pf0 = true ∧
      (let s := withSluice fun x => { x with ringFault := true }
       (0x2000 : Word).getLsbD 13 = true ∧ (getSluice s .pf0 0).ringFault = true ∧ writable s .pf0 = true ∧ ownsSluice s .pf0 0 = true ∧
        ((getSluice s .pf0 0).ringFault && (0 : Word).getLsbD 13) = false) ∧
      (getSluice (withSluice fun x => { x with bounceStopped := true }) .pf0 0).bounceStopped = true ∧
      (getSluice up .pf0 15).enable = false ∧ ownsSluice up .pf0 15 = true := by decide
theorem test_meets_RegisterReads :
    reachable up .pf0 = true ∧ barDark up = false ∧ (2 : Nat) ≠ 4 ∧
      (if isPf0 .pf0 = true then (0x28 : Nat) ≠ 0x24 ∧ ¬ (0x10000 ≤ 0x28 ∧ 0x28 < 0x50000 ∧ 0x28 % 4096 = 0x10) else (0x28 : Nat) ≠ 0x10) ∧
      (if isPf0 (.vf 0) = true then (0x11 : Nat) ≠ 0x24 ∧ ¬ (0x10000 ≤ 0x11 ∧ 0x11 < 0x50000 ∧ 0x11 % 4096 = 0x10) else (0x11 : Nat) ≠ 0x10) ∧
      (let s := setFunc { up with host.numVfs := 1 } (.vf 0) { getFunc up (.vf 0) with capTide := some 65535 }
       reachable s (.vf 0) = true ∧ (getFunc s (.vf 0)).capTide = some 65535) ∧
      (let s : State := { up with host.numVfs := 1 }
       reachable s (.vf 0) = true ∧ isPf0 (.vf 0) = false) ∧
      (let s := setFunc up .pf0 { getFunc up .pf0 with capTide := some 65535 }
       reachable s .pf0 = true ∧ (getFunc s .pf0).capTide = some 65535) ∧
      (reachable dark .pf0 = true ∧ barDark dark = true) := by decide
theorem test_meets_RegisterWrites :
    ((2 : Nat) ≠ 4 ∨ 6 % 4 ≠ 0) ∧
      (let s : State := { up with host.linkUp := false }
       writable s .pf0 = false ∧ isDoorbell 0x3000 = false) ∧
      isPf0 .pf0 = true ∧ writable up .pf0 = true ∧ up.mem.arbInstance ≤ 1057 ∧ (1 : Nat) < 2 ∧ (1 : Nat) ≤ 15 ∧ (15 : Nat) < 16 ∧
      (64 < 65 ∨ 64 = 65 ∧ up.host.bifurcated = true) ∧
      (let s : State := { up with host.bifurcated := true }
       (65 < 65 ∨ 65 = 65 ∧ s.host.bifurcated = true) ∧ writable s .pf0 = true) ∧
      up.host.bifurcated = false ∧ (63 : Nat) < 64 ∧ writable upP (.vf 63) = true := by decide
theorem test_meets_ClearingWrites :
    writable up .pf0 = true ∧ up.mem.arbInstance ≤ 1057 ∧ (1 : Word).getLsbD 1 = false ∧ up.aon.presence = false ∧
      (let s : State := { up with aon.presence := true }
       writable s .pf0 = true ∧ s.aon.presence = true ∧ s.aon.sense = true) ∧
      (let s : State := { up with aon.presence := true, aon.sense := false }
       writable s .pf0 = true ∧ s.aon.presence = true ∧ s.aon.sense = false) ∧
      (2 : Word).getLsbD 1 = true ∧ 1057 < ({ up with mem.arbInstance := 2047 } : State).mem.arbInstance ∧
      writable upP (.vf 63) = true ∧ writable up (.vf 63) = false := by decide
theorem test_meets_DormantRequested :
    writable up .pf0 = true ∧ up.startup.dormant = false ∧ up.startup.entering = false ∧ up.startup.waking = false ∧
      writable asleep .pf0 = true ∧ asleep.startup.dormant = true ∧
      (let s : State := { up with startup.entering := true }
       writable s .pf0 = true ∧ s.startup.dormant = false ∧ s.startup.entering = true) ∧
      (let s : State := { up with startup.waking := true }
       writable s .pf0 = true ∧ s.startup.waking = true) := by decide
theorem test_meets_EventCountsAndDelivers :
    let s : State := setFunc up .pf0 { getFunc up .pf0 with unmasked := [17] }
    up.startup.dormant = false ∧ sourceTarget 1 0 = sourceTarget 1 0 ∧ (∃ x, sourceTarget 0 16 = some x) ∧
      min ((getSource s 0 16).count + 1) 255 < (({ getSource s 0 16 with coalCount := 2 } : Source)).coalCount ∧
      (getSource s 0 16).ready = false ∧ (getSource s 0 16).coalCount ≤ min ((getSource s 0 16).count + 1) 255 ∧
      hostThreshold s .pf0 < (getSource s 0 16).priority ∧ (getHub s 0).hold = false ∧ (getHub s 0).fwHold = false ∧
      17 ∈ (getFunc s .pf0).unmasked ∧ 16 ∉ (getFunc s .pf0).unmasked ∧ 16 ∉ (getFunc s .pf0).msixPending ∧
      (({ getSource s 0 16 with priority := 0 } : Source)).priority ≤ hostThreshold s .pf0 :=
  ⟨rfl, rfl, ⟨_, rfl⟩, by decide, rfl, by decide, by decide, rfl, rfl, by decide, by decide, by decide, by decide⟩
theorem test_meets_EventCountsAndDelivers_other :
    mainUp asleep = true ∧ asleep.startup.dormant = true ∧ (getSource asleep 0 16).wake = false ∧
      (let s := setSource asleep 1 2047 { getSource asleep 1 2047 with wake := true }
       (getSource s 1 2047).wake = true ∧ s.startup.dormant = true) ∧
      sourceTarget 1 1600 = none ∧ (getSource up 1 1600).coalCount ≤ min ((getSource up 1 1600).count + 1) 255 ∧
      linkless.host.linkUp = false := by decide
theorem test_meets_ClaimTakesHighest :
    (tget (getHub up 1).running 0).getD [] = [] ∧ claimable up 1 0 = [] ∧
      claimable (setSource (setSource up 1 1600 { getSource up 1 1600 with count := 1, ready := true }) 1 1601
        { getSource up 1 1601 with count := 1, ready := true }) 1 3 = [1601, 1600] := by decide
theorem test_meets_HoldAndMask :
    writable up .pf0 = true ∧ tdiLocked up .pf0 = false ∧ 17 ∉ (getFunc up .pf0).unmasked ∧
      17 ∈ (getFunc (setFunc up .pf0 { getFunc up .pf0 with msixPending := [17] }) .pf0).msixPending ∧
      17 ∉ (getFunc up .pf0).msixPending ∧ writable linkless .pf0 = false ∧ tdiLocked (setTdi upP 63 1) (.vf 63) = true ∧
      asleep.startup.dormant = true ∧ (getSource up 0 16).count = 0 ∧
      (let s := setSource up 1 1600 { getSource up 1 1600 with count := 1 }
       (getSource s 1 1600).count ≠ 0 ∧ (getSource s 1 1600).ready = false ∧ sourceTarget 1 1600 = none) ∧
      (let s := setSource up 0 16 { getSource up 0 16 with count := 1 }
       s.startup.dormant = false ∧ (getSource s 0 16).count ≠ 0 ∧ (getSource s 0 16).ready = false ∧
        (sourceTarget 0 16).isSome = true) := by decide
theorem test_meets_HostLinkEvents :
    mainUp up = true ∧ fnEnabled upP (.vf 63) = true ∧ (∃ x, getPolder upP 63 = some x) ∧ getTdi upP 63 = 0 ∧
      getTdi (setTdi upP 63 2) 63 ≠ 0 ∧ mainUp down = false ∧ fnEnabled up (.vf 63) = false ∧ getPolder up 63 = none ∧ (1 : Nat) ≠ 0 ∧
      up.host.bifurcated = false ∧ ({ up with host.bifurcated := true } : State).host.bifurcated = true ∧
      linkless.host.linkUp = false ∧ (64 : Nat) ≤ 64 ∧ 64 < (65 : Nat) := ⟨rfl, rfl, ⟨_, rfl⟩, rfl, by decide⟩
theorem test_meets_PresenceAndButton :
    up.aon.up = true ∧ up.ident.cabinet = false ∧ up.aon.held = none ∧
      (let s : State := { up with aon.held := some ⟨.keyRotateLink (hdr 0x0802) 1, 0⟩ }
       s.aon.up = true ∧ hdrOf (.keyRotateLink (hdr 0x0802) 1) = some (hdr 0x0802) ∧
        (opInfo (.keyRotateLink (hdr 0x0802) 1)).isSome = true) ∧
      ({ up with aon.up := false } : State).aon.up = false ∧
      (let s : State := { up with ident.cabinet := true, aon.buttonLockout := true }
       s.aon.up = true ∧ s.ident.cabinet = true ∧ s.aon.buttonLockout = true ∧ s.aon.buttonHeld = false) ∧
      (let s : State := { up with ident.cabinet := true, aon.sense := false, aon.presence := true, aon.buttonHeld := true }
       s.aon.up = true ∧ s.ident.cabinet = true ∧ s.aon.buttonLockout = false ∧ s.aon.sense = false ∧ s.aon.held = none ∧
        s.aon.presence = true ∧ s.aon.buttonHeld = true) := by decide
theorem test_meets_WipesReadZero :
    mainUp up = true ∧ up.aon.sense = true ∧ (∃ t, exec .sealBreak up = .next t) ∧ (∃ t, exec (.glitchDetect true) up = .next t) ∧
      mainUp down = false ∧ ({ up with aon.sense := false } : State).aon.sense = false ∧ (1 : Nat) < 2 ∧
      (7864320 : Nat) ≤ 8388607 ∧ 8388607 < 8388608 := 
  ⟨rfl, rfl, ⟨_, rfl⟩, ⟨_, rfl⟩, rfl, rfl, by decide, by decide, by decide⟩
/-- `upP` with two commands of polder 63 that are due. -/
def twoDue : State := { upP with tide.queued := [due (.graphUnload (hdrV 0x0202) 15), due (.graphUnload (hdrV 0x0202) 14)] }
theorem test_meets_EdgeMergesInOrder :
    visibleAt twoDue = [.command (due (.graphUnload (hdrV 0x0202) 15)), .command (due (.graphUnload (hdrV 0x0202) 14))] := by
  decide
theorem test_meets_EdgeSettings :
    AppliesAt (due (.setTokenBudget { hdr 0x0105 with polder := 63 } 0 0)) { hdr 0x0105 with polder := 63 } upP ∧
      getPolder upP 63 = some polder ∧ polder.budget = none := ⟨applies rfl rfl rfl, rfl, rfl⟩
theorem test_meets_EdgeSettings_budget :
    ∃ x, getPolder (setPolder upP 63 { polder with budget := some ⟨1, 16, 0⟩ }) 63 = some x ∧ x.budget = some ⟨1, 16, 0⟩ :=
  ⟨_, rfl, rfl⟩
theorem test_meets_EdgeSettings_join :
    AppliesAt (due (.commonsJoin { hdr 0x0404 with polder := 63 } 65535)) { hdr 0x0404 with polder := 63 } upP :=
  applies rfl rfl rfl
theorem test_meets_EdgeSettings_phases :
    AppliesAt (due (.setPhaseOp (hdr 0x0601) [7, 7, 7, 7, 7, 7])) (hdr 0x0601) up := applies rfl rfl rfl
theorem test_meets_EdgeSettings_module :
      AppliesAt (due (.setPowerCap (hdr 0x0602) 1650 30 600 400)) (hdr 0x0602) up ∧ up.power.lease = none ∧
      AppliesAt (due (.safetyProfileSet (hdr 0x0701) 12 7)) (hdr 0x0701) up ∧
      workAdmitted { upG with work.polders := [(63, { polder with runs := [(0, runOf)] })] } = true ∧
      workAdmitted up = false ∧ up.tide.change = none ∧
      recost up { envNow up with sShare := 12, qOp := 7 } = none ∧
      AppliesAt (due (.goldenSet (hdrV 0x0702) 15 1)) (hdrV 0x0702) upG ∧ getGraph upG (polderOf (hdrV 0x0702)) 15 = some graph ∧
      AppliesAt (due (.streamBind (hdrV 0x0303) 3 255 3 15 0 511)) (hdrV 0x0303) upG ∧
      bindFault upG (polderOf (hdrV 0x0303)) 3 3 15 = none ∧ bindFault upG (polderOf (hdrV 0x0303)) 3 3 14 = some .noGraph :=
  ⟨applies rfl rfl rfl, rfl, applies rfl rfl rfl, rfl, rfl, rfl, rfl, applies rfl rfl rfl, rfl, applies rfl rfl rfl, rfl, rfl⟩
/-- A graph whose quanta no tide holds. -/
theorem test_meets_EdgeSettings_overrun :
    let g : Graph := { graph with plan := { plan with tiles := [⟨3, 31, [[1000000000]], 0, 0⟩] } }
    let s : State := { upP with work.polders := [(63, { polder with graphs := [(15, g)] })] }
    AppliesAt (due (.safetyProfileSet (hdr 0x0701) 12 7)) (hdr 0x0701) s ∧ workAdmitted s = false ∧ s.tide.change = none ∧
      (recost (atEdge (due (.safetyProfileSet (hdr 0x0701) 12 7)) (hdr 0x0701) s)
        { envNow (atEdge (due (.safetyProfileSet (hdr 0x0701) 12 7)) (hdr 0x0701) s) with sShare := 12, qOp := 7 }).isSome = true :=
  ⟨applies rfl rfl rfl, rfl, rfl, rfl⟩
theorem test_meets_EdgeSettings_pending :
    let s : State := { up with tide.change := some ⟨4, 1024, 0, none, false⟩, power.lease := some ⟨.setPowerCap (hdr 0x0602) 1 1 1 0, 0⟩ }
    s.tide.change.isSome = true ∧ s.power.lease.isSome = true := ⟨rfl, rfl⟩
theorem test_meets_RunsAtTheirEdge :
    AppliesAt (due (.runAtTide (hdrV 0x0301) 15 63 2 1 [] false)) (hdrV 0x0301) upG ∧
      getGraph upG (polderOf (hdrV 0x0301)) 15 = some graph ∧ upG.tide.change = none ∧ graph.copyBad = false ∧ 1 < graph.d ∧
      graph.d ≤ 2 ∧ getRun upG 63 63 = none ∧ (∀ o ∈ graph.img.outPorts, ∀ e ∈ ([] : List Desc), e.output = true → e.port = o.port → o.bytes ≤ e.len) ∧
      AppliesAt (due (.runPeriodic (hdrV 0x0302) 15 63 2 2 0 0 [] false)) (hdrV 0x0302) upG ∧ graph.t ≤ 2 ∧
      AppliesAt (due (.runStop (hdrV 0x0304) 15 63)) (hdrV 0x0304) upG ∧ getGraph upG 63 14 = none ∧
      (let s : State := { upG with work.polders := [(63, { polder with graphs := [(15, graph)], runs := [(63, runOf)] })] }
       getGraph s 63 15 = some graph ∧ getRun s 63 63 = some runOf ∧ runOf.handle = 15 ∧ runOf.handle ≠ 14) :=
  ⟨applies rfl rfl rfl, rfl, rfl, rfl, by decide, by decide, rfl, fun _ _ _ h => absurd h List.not_mem_nil, applies rfl rfl rfl, by decide,
   applies rfl rfl rfl, rfl, rfl, rfl, rfl, by decide⟩
/-- An output port of 64 bytes, with a buffer of 63. -/
theorem test_meets_RunsAtTheirEdge_faults :
    let g : Graph := { graph with img := { img with outPorts := [⟨5, 0, 64⟩] } }
    let d : Desc := ⟨5, true, 63, 0, 0, false⟩
    (∃ o ∈ g.img.outPorts, ∃ e ∈ [d], e.output = true ∧ e.port = o.port ∧ e.len < o.bytes) ∧
      (∀ o ∈ g.img.outPorts, ∀ e ∈ [{ d with len := 64 }], e.output = true → e.port = o.port → o.bytes ≤ e.len) ∧
      ({ g with copyBad := true } : Graph).copyBad = true ∧ g.copyBad = false ∧ 1 < g.d ∧ 1 < g.t := by decide
theorem test_meets_QueuesAtTheirEdge :
    AppliesAt (due (.requestSubmit (hdrV 0x0402) 15 0 0 128 reqDesc)) (hdrV 0x0402) upG ∧
      (∃ x, getPolder upG (polderOf (hdrV 0x0402)) = some x ∧ tget x.graphs 15 = some graph ∧ activeCount x 15 < 1) ∧
      servingOf graph = some ⟨32000, 2048, 1, 1, 16⟩ ∧ upG.tide.change = none ∧
      requestFault graph ⟨32000, 2048, 1, 1, 16⟩ 0 0 127 reqDesc = some .bufferShort ∧
      requestFault graph ⟨32000, 2048, 1, 1, 16⟩ 0 0 128 reqDesc = none ∧
      AppliesAt (due (.requestCancel (hdrV 0x0403) 1 0)) (hdrV 0x0403) upG ∧
      AppliesAt (due (.codecPicture (hdrV 0x0503) 63 6144 0 0 ⟨1048640, false⟩)) (hdrV 0x0503) upG ∧
      sessionFor upG (polderOf (hdrV 0x0503)) 63 = some session ∧ session.cfg.source = 0 ∧
      pictureFault upG (hdrV 0x0503) 63 6144 2097152 = none ∧ sessionShed upG session = false ∧ upG.power.stop = false ∧
      AppliesAt (due (.codecSessionClose (hdrV 0x0502) 63)) (hdrV 0x0502) upG :=
  ⟨applies rfl rfl rfl, ⟨_, rfl, rfl, by decide⟩, rfl, rfl, rfl, by decide, applies rfl rfl rfl, applies rfl rfl rfl, rfl, rfl, rfl, rfl,
   rfl, applies rfl rfl rfl⟩
/-- Requests behind an older one, of Class S, and with a period change pending; pictures that are refused. -/
theorem test_meets_QueuesAtTheirEdge_other :
    let r : Request :=
      { cmd := .requestSubmit (hdrV 0x0402) 15 0 0 128 reqDesc, tag := dueTag, intakeIx := 0, handle := 15, variant := 0, desc := reqDesc,
        deadlineIx := none }
    let old : Request := { r with cmd := .requestSubmit { hdrV 0x0402 with seq := 0 } 15 0 0 128 reqDesc, tag := { dueTag with seq := 0 } }
    let x : Polder := { polder with graphs := [(15, graph)], requests := [old] }
    let z : Polder := { x with requests := insertRequest r x.requests }
    activeCount z 15 < 1 ∧ (∃ y ∈ z.requests, y.handle = 15 ∧ reserves y = false ∧ reqKey y ≠ reqKey r) ∧
      1 ≤ activeCount { z with requests := [{ old with state := .decode }, r] } 15 ∧
      (let z : Polder := { x with requests := insertRequest r [] }
       ∀ y ∈ z.requests, y.handle = 15 → reserves y = false → reqKey y = reqKey r) := by decide
theorem test_meets_QueuesAtTheirEdge_more :
    [request].find? (namesRequest 0 1) = some request ∧ [request].find? (namesRequest 0 0) = none ∧
      isClassS { upP with work.polders := [(63, { polder with cls := .S })] } 63 = true ∧
      ({ cfg with source := 2 } : CodecCfg).source ≠ 0 ∧
      pictureFault upG (hdrV 0x0503) 63 6143 2097152 = some .fieldRange ∧
      pictureFault upG (hdrV 0x0503) 63 6144 0 = some .bufferShort ∧
      ({ upG with power.stop := true } : State).power.stop = true := by decide
theorem test_meets_ResourcesAtTheirEdge :
    let s : State := { upP with host.numVfs := 64, work.polders := [] }
    AppliesAt (due (.polderCreate { hdr 0x0101 with polder := 63 } 1 16 1 0 0 0)) { hdr 0x0101 with polder := 63 } s ∧
      createFault s { hdr 0x0101 with polder := 63 } = none ∧
      createFault upP { hdr 0x0101 with polder := 63 } = some (.badParam, .fieldRange) ∧
      AppliesAt (due (.graphLoad (hdrV 0x0201) 14 2 2 4096 img)) (hdrV 0x0201) upG ∧ activationBlocks upG = false ∧
      (∃ x, getPolder upG (polderOf (hdrV 0x0201)) = some x ∧ (tget x.graphs 15).isSome = true ∧ tget x.graphs 14 = none ∧
        imageFault upG x.cls 4095 img = some .imageDigest ∧ imageFault upG x.cls 4096 img = none ∧ x.cls ≠ .S) ∧
      limitFault upG 63 false img = none ∧ img.fault = false ∧
      AppliesAt (due (.modelVariantAdd (hdrV 0x0401) 15 255 4096 img)) (hdrV 0x0401) upG ∧ tget graph.variants 255 = none ∧
      variantMatch graph.img img = true ∧
      AppliesAt (due (.codecSessionOpen (hdrV 0x0501) 0 0 64 64 1 cfg)) (hdrV 0x0501) upG ∧
      isClassS upG (polderOf (hdrV 0x0501)) = false ∧ cfg.fault = false ∧ codecRange 0 0 63 64 1 cfg = false ∧
      codecRange 0 0 64 64 1 cfg = true ∧ cfg.source ≠ 2 ∧ upG.codec.sessions.length < 64 ∧
      AppliesAt (due (.graphUnload (hdrV 0x0202) 15)) (hdrV 0x0202) upG ∧
      AppliesAt (due (.graphQueryPlacement (hdrV 0x0203) 15 ⟨65536, 0, false⟩)) (hdrV 0x0203) upG ∧
      0 < (placementReport upG false 15 polder graph).length ∧ (placementReport upG false 15 polder graph).length ≤ 65536 :=
  ⟨applies rfl rfl rfl, rfl, rfl, applies rfl rfl rfl, rfl, ⟨_, rfl, rfl, rfl, by decide, by decide, by decide⟩, rfl, rfl,
   applies rfl rfl rfl, rfl, by simp [variantMatch, graph, img], applies rfl rfl rfl, rfl, rfl, by decide, by decide, by decide, by decide, applies rfl rfl rfl,
   applies rfl rfl rfl, by decide, by decide⟩
/-- Loads, variants and sessions that are refused at their edge. -/
theorem test_meets_ResourcesAtTheirEdge_refused :
    (let s : State := { upG with startup.activation := some { cmd := .fwActivate (hdr 0x0903) 1 none, image := image } }
     activationBlocks s = true) ∧
      ({ img with fault := true } : Image).fault = true ∧ ({ cfg with fault := true } : CodecCfg).fault = true ∧
      limitFault upG 63 false { img with experts := some ⟨none, 1, 1, 1, 1, 0, 0, false⟩ } = some (limitPayload 4294967295 0) ∧
      variantMatch img { img with experts := none } = false ∧ (tget ({ graph with variants := [(255, plan)] } : Graph).variants 255).isSome = true ∧
      (let s : State := { upP with work.polders := [(63, { polder with cls := .S })] }
       isClassS s 63 = true ∧ wardensVote s = false) ∧
      wardensVote upS = true ∧ ({ upG with tide.change := some ⟨4, 1024, 0, none, false⟩ } : State).tide.change.isSome = true ∧
      graphSource upG (newSession 63 0 0 64 64 1 { cfg with source := 2 }) = false ∧
      (let x : Polder := { polder with graphs := [(15, graph)], runs := [(63, runOf)] }
       (∃ r ∈ x.runs, r.2.handle = 15) ∧ (∀ r ∈ x.runs, r.2.handle ≠ 14)) := by decide
theorem test_meets_KeysAndFirmwareAtTheirEdge :
    AppliesAt (due (.keyRotateMemory (hdrV 0x0802))) (hdrV 0x0802) upP ∧ getPolder upP (polderOf (hdrV 0x0802)) = some polder ∧
      keyCounter upP 63 + polder.rotationsWaiting.length + 1 ≤ 65535 ∧ polder.rotation = none ∧
      65535 < keyCounter { upP with ident.keyCounters := [(63, 65535)] } 63 + polder.rotationsWaiting.length + 1 ∧
      AppliesAt (due (.keyRotateLink (hdr 0x0802) 1)) (hdr 0x0802) up ∧ keyCounter up 64 < 65535 ∧
      65535 ≤ keyCounter { up with ident.keyCounters := [(64, 65535)] } 64 ∧ up.links.rotations = [] ∧
      (let s := setAssoc up 511 { ports := [7], live := true }
       (511, ({ ports := [7], live := true } : Assoc)) ∈ s.links.assocs) ∧
      AppliesAt (due (.fwActivate (hdr 0x0903) 1 none)) (hdr 0x0903) up ∧ conditionOk up 2 = false ∧ conditionOk up 1 = true ∧
      up.startup.activation = none ∧ up.flash.staged = none ∧
      (let s : State := { up with flash.staged := some image, flash.verified := true, wardens.b.state := .boot }
       conditionOk s 1 = true ∧ s.startup.activation = none ∧ s.flash.staged = some image ∧ s.flash.verified = true ∧
        s.wardens.b.state ≠ .off) ∧
      rotating.rotation.isSome = true :=
  ⟨applies rfl rfl rfl, rfl, by decide, rfl, by decide, applies rfl rfl rfl, by decide, by decide, rfl, by decide,
   applies rfl rfl rfl, rfl, rfl, rfl, rfl, ⟨rfl, rfl, rfl, rfl, by decide⟩, rfl⟩
theorem test_meets_ResetEmptiesPolder :
    AppliesAt (due (.polderReset (hdrV 0x0103))) (hdrV 0x0103) upG ∧ polderOf (hdrV 0x0103) = 63 ∧ (getPolder upG 63).isSome = true ∧
      AppliesAt (due (.polderDestroy { hdr 0x0102 with polder := 63 })) { hdr 0x0102 with polder := 63 } upG ∧
      polder.resetting = false ∧ polder.destroying = false ∧
      (let s : State := { upP with work.polders := [(63, { polder with resetting := true, destroying := true })] }
       AppliesAt (due (.polderDestroy { hdr 0x0102 with polder := 63 })) { hdr 0x0102 with polder := 63 } s) :=
  ⟨applies rfl rfl rfl, rfl, rfl, applies rfl rfl rfl, rfl, rfl, applies rfl rfl rfl⟩
theorem test_meets_LifecycleAtItsEdge :
    AppliesAt (due (.lifecycleAdvance (hdr 0x0803) 3)) (hdr 0x0803) up ∧ activationBlocks up = false ∧
      transitionFault up 1 = some .lifecycle ∧ transitionFault up 2 = none ∧ transitionFault up 3 = none ∧
      transitionFault { up with ident.serviceEntries := 64 } 2 = some .counterExhausted ∧
      transitionFault { up with ident.lifecycle := .service } 1 = none ∧
      AppliesAt (due (.debugUnlock (hdr 0x0A02) 1)) (hdr 0x0A02) up ∧ up.ident.debugUnlocks < 32 ∧
      32 ≤ ({ up with ident.debugUnlocks := 32 } : State).ident.debugUnlocks :=
  ⟨applies rfl rfl rfl, rfl, rfl, rfl, rfl, rfl, rfl, applies rfl rfl rfl, by decide, by decide⟩
/-- Events of the supplies that find nothing to act on. -/
theorem test_meets_InputSupplyEvents_nothing :
    (2 : Nat) ≤ 2 ∧ (4200 : Nat) ≤ 4200 ∧ (4199 : Nat) < 4200 ∧ (4300 : Nat) < 4301 ∧ (4300 : Nat) ≤ 4300 ∧ 6000 < (6001 : Nat) ∧
      up.aon.switchClosed = true ∧ up.aon.downRow ≠ some 10 ∧ up.power.above.2.2.2 < 10000 ∧
      ({ up with aon.up := false } : State).aon.up = false ∧
      (let s : State := { up with aon.switchClosed := false, aon.downRow := some 10 }
       s.aon.mated = true ∧ s.aon.downRow ≠ none ∧ s.aon.downRow ≠ some 9) ∧
      (let s := setHotspot up 145 { getHotspot up 145 with reading := 60 }
       145 < 146 ∧ 60 ≤ (getHotspot s 145).reading) := by decide
theorem test_meets_InputSupplyEvents :
    up.aon.switchClosed = true ∧ mainUp up = true ∧ up.aon.sagWarn = false ∧
      (let s : State := { up with aon.switchClosed := false, aon.mated := false }
       s.aon.up = true ∧ s.aon.switchClosed = false ∧ s.aon.mated = false ∧ 3800 ≤ s.aon.vin48 ∧ s.aon.vin48 ≤ 6000) ∧
      ({ up with aon.vin48 := 3799 } : State).aon.vin48 < 3800 ∧ ({ up with aon.sagWarn := true } : State).aon.sagWarn = true ∧
      (let s : State := { up with aon.switchClosed := false, aon.downRow := some 10 }
       s.aon.up = true ∧ s.aon.mated = true ∧ s.aon.switchClosed = false ∧ s.aon.downRow = some 10) ∧
      (let s : State := { up with aon.switchClosed := false, aon.downRow := some 8, power.above := (0, 0, 0, 10000) }
       s.aon.up = true ∧ s.aon.mated = true ∧ s.aon.switchClosed = false ∧ s.aon.downRow = some 8 ∧
        10000 ≤ s.power.above.2.2.2) := by decide
theorem test_meets_InputSupplyEvents_cool (i : Nat) : (getHotspot up i).reading < 60 :=
  show (0 : Int) < 60 by decide
theorem test_meets_AuxiliarySupplyEvents :
    up.aon.auxAOn = true ∧ up.aon.auxBOn = true ∧ ({ up with aon.auxBOn := false } : State).aon.auxBOn = false ∧
      (let s : State := { up with aon.auxBOn := false, wardens.b.state := .off }
       s.aon.up = true ∧ auxOn s .B = false ∧ (getWarden s .B).state = .off) ∧
      (let s : State := { up with aon.up := false, wardens.a.state := .off }
       s.aon.up = false ∧ s.aon.clockLost = false ∧ (getWarden s .A).state = .off) ∧
      auxOn up .A = true ∧ (950 : Nat) ≤ 950 ∧ (949 : Nat) < 950 ∧ (1000 : Nat) < 1001 ∧
      (let s : State := { up with aon.auxAOn := false }
       s.aon.up = true ∧ auxOn s .A = false ∧ (getWarden s .A).state ≠ .off) ∧
      ({ up with aon.clockLost := true } : State).aon.clockLost = true ∧ up.aon.up = true ∧ up.aon.clockLost = false := by decide
theorem test_meets_CoolantEvents :
    up.startup.dormant = false ∧ up.startup.entering = false ∧ up.power.flowWarn = false ∧ up.power.flowShed = false ∧
      up.power.stop = false ∧
      (let s : State := { up with power.below := (10, 10, 2), power.above := (1000, 1000, 1000, 0) }
       10 ≤ s.power.below.1 ∧ 1000 ≤ s.power.above.1 ∧ 10 ≤ s.power.below.2.1 ∧ 1000 ≤ s.power.above.2.1 ∧
        2 ≤ s.power.below.2.2) ∧
      ({ up with power.hotRise := true } : State).power.hotRise = true := by decide
theorem test_meets_CoolantEvents_nothing :
    up.power.below.1 < 10 ∧ up.power.above.1 < 1000 ∧ up.power.below.2.1 < 10 ∧ up.power.above.2.1 < 1000 ∧
      up.power.below.2.2 < 2 ∧ up.power.hotRise = false ∧ up.power.stop = false := by decide
theorem test_meets_CoolantEvents_end :
    let s : State := { up with power.stop := true, power.above := (0, 0, 1000, 0) }
    s.power.stop = true ∧ 1000 ≤ s.power.above.2.2.1 ∧ ∀ i, i < 146 → forecastOf s i ≤ paceLimit i := by
  refine ⟨rfl, by decide, fun i _ => ?_⟩
  simp only [forecastOf, paceLimit, up, State.reset]
  split <;> (try split) <;> omega
theorem test_meets_PowerEvents :
    (let s : State := { up with power.climbTides := 4, power.rung := 1, power.liftTides := 16 }
     4 ≤ s.power.climbTides ∧ 0 < s.power.rung ∧ s.power.rung < 3 ∧ 16 ≤ s.power.liftTides ∧ s.power.rung ≠ 0) ∧
      up.power.mismatch = false ∧ 64 ≤ ({ up with power.ratioOut := 64 } : State).power.ratioOut ∧
      64 ≤ ({ up with power.missingTides := 64 } : State).power.missingTides ∧
      (let s : State := { up with power.mismatch := true, power.refitEndQ := some 0, power.ratioIn := 64 }
       s.power.mismatch = true ∧ s.power.refitEndQ = some 0 ∧ 0 ≤ s.tide.nowQ ∧ 64 ≤ s.power.ratioIn) ∧
      up.power.ratioIn < 64 ∧
      (let s := setHotspot up 129 { getHotspot up 129 with differ := 50 }
       50 ≤ (getHotspot s 129).differ ∧ (getHotspot s 129).suspect = false) ∧
      (let s := setHotspot up 129 { getHotspot up 129 with suspect := true, agree := 1000 }
       (getHotspot s 129).suspect = true ∧ 1000 ≤ (getHotspot s 129).agree) ∧
      (let s : State := { up with power.lease := some ⟨.setPowerCap (hdr 0x0602) 1000 1 1 0, 0⟩ }
       (s.power.lease.map fun l => decide ((hdrOf l.cmd).isSome = true ∧ l.expiresQ ≤ s.tide.nowQ)) = some true) ∧
      mainUp up = true ∧ ({ up with aon.brakeLow := true } : State).aon.brakeLow = true ∧
      up.power.climbTides < 4 ∧ up.power.rung = 0 ∧ (129 : Nat) < 130 ∧ (118 : Int) ≤ 118 ∧ (150 : Int) ≤ 150 ∧
      up.power.ratioOut < 64 ∧ up.power.missingTides < 64 ∧ (getHotspot up 129).differ < 50 ∧ up.power.lease = none ∧
      (let s : State := { up with power.lease := some ⟨.setPowerCap (hdr 0x0602) 1000 1 1 0, 1⟩ }
       (s.power.lease.map fun l => decide (s.tide.nowQ < l.expiresQ)) = some true) ∧
      (let s : State := { up with power.mismatch := true, power.refitEndQ := some 1 }
       s.power.mismatch = true ∧ s.tide.nowQ < 1) ∧ up.aon.brakeLow = false := by decide
theorem test_meets_TideEdgeFalls :
    mainUp up = true ∧ timeLost up = false ∧ up.tide.running = true ∧ restarting up = false ∧ up.tide.discard = false ∧
      up.tide.count + 1 < 281474976710656 ∧ (decideClosing up).tide = up.tide ∧
      mainUp { up with aon.switchClosed := false } = false ∧
      timeLost (setDomain up 92 { getDomain up 92 with lost := true }) = true ∧
      (let s : State := { up with tide.running := false, ident.lifecycle := .decommissioned }
       s.tide.running = false ∧ s.ident.lifecycle = .decommissioned) ∧
      (let s : State := { up with tide.running := false }
       mainUp s = true ∧ timeLost s = false ∧ s.tide.running = false ∧ s.ident.lifecycle ≠ .decommissioned ∧
        s.tide.exhausted = false) ∧
      ({ up with tide.count := 281474976710655 } : State).tide.count + 1 = 281474976710656 ∧
      (let s : State := { up with tide.running := false, tide.exhausted := true }
       s.tide.running = false ∧ s.tide.exhausted = true) ∧ restarting dark = true := by decide
theorem test_meets_TimeEvents :
    (let s : State := { up with time.source := 2, time.domain := 255, time.goodSyncs := 15, time.state := .holdover }
     s.time.source = 2 ∧ s.time.domain = 255 ∧ min 16 (s.time.goodSyncs + 1) = 16 ∧ s.time.state = .holdover ∧ (1 : Nat) ≠ s.time.source) ∧
      (let s : State := { up with time.source := 1, time.state := .locked }
       s.time.source = 1 ∧ s.time.state = .locked) ∧
      16 ≤ ({ up with time.outTides := 16 } : State).time.outTides ∧
      (let s : State := { up with time.outTides := 15, time.inTides := 16 }
       s.time.outTides < 16 ∧ 16 ≤ s.time.inTides) ∧
      (let f : ForwardWait := ⟨.identify (hdr 1), 0, [510, 511], [], []⟩
       let s : State := { up with links.forwards := [f] }
       s.links.forwards = [f] ∧ 511 ∈ f.waiting ∧ f.waiting.filter (· ≠ 511) ≠ []) ∧
      (let f : ForwardWait := ⟨.identify (hdr 1), 0, [511], [], []⟩
       f.waiting.filter (· ≠ 511) = []) ∧
      up.links.forwards = [] ∧ up.time.outTides < 16 ∧ up.time.inTides < 16 ∧
      (let s : State := { up with time.source := 3 }
       s.time.source ≠ 1 ∧ s.time.source ≠ 2) := by decide
theorem test_meets_ClockEvents :
    (isAphy 94 = false ∧ domainPowered up 94 = true ∧ (getDomain up 94).flagged = false ∧ noFallback 94 = false) ∧
      (isAphy 93 = false ∧ domainPowered up 93 = true ∧ noFallback 93 = false) ∧
      (let s := setDomain up 0 { getDomain up 0 with flagged := true }
       (getDomain s 0).flagged = true ∧ (getDomain s 0).fallback = false ∧ noFallback 0 = false ∧
        (watchdogDie 0).any (clusterHalted s) = false) ∧
      (getJudge up 12).waiting = false ∧ (-200 : Int).natAbs ≤ 200 ∧ 200 < (201 : Int).natAbs ∧
      (let s : State := setJudge { up with clocks.refsel := 10 } 10 { passes := 3, fails := 1, stable := true }
       (getJudge s 10).waiting = false ∧ s.clocks.refsel = 10 ∧ (getJudge s 10).stable = true ∧ 1 ≤ (getJudge s 10).fails) ∧
      (let s : State := setJudge { up with clocks.refsel := 10 } 10 { passes := 3, stable := true }
       (getJudge s 10).waiting = false ∧ s.clocks.refsel = 10 ∧ (getJudge s 10).stable = true ∧ (getJudge s 10).fails = 0) ∧
      (getJudge (setJudge up 12 { waiting := true }) 12).waiting = true ∧
      mainUp up = true ∧ coreHalted up 1 3 = false ∧ up.tide.running = true := by decide
theorem test_meets_ClockEvents_nothing :
    isAphy 99 = false ∧ 99 < (100 : Nat) ∧ (13 : Nat) ≤ 13 ∧ (2 : Nat) ≤ 2 ∧ (4 : Nat) ≤ 4 ∧ noFallback 92 = true ∧
      domainPowered down 0 = false ∧ (getDomain up 0).flagged = false ∧ (getJudge up 12).waiting = false ∧ isRecovered 0 = false ∧
      (getDomain up 63).lost = false ∧
      coreHalted (setUnit up 256 { halted := true }) 0 0 = true := by decide
theorem test_meets_ClockEvents_recovered :
    (let s : State := { up with clocks.refsel := 2, time.source := 2 }
     isRecovered 73 = true ∧ domainPowered s 73 = true ∧ recoveredOsc 73 = some 2 ∧ s.clocks.refsel = 2 ∧ wantedRef s = 2) ∧
      (let s := setDomain up 63 { getDomain up 63 with lost := true }
       isRecovered 63 = true ∧ (getDomain s 63).lost = true ∧ recoveredOsc 63 = some 10) := by decide
/-- An input from Ethernet source 47. -/
def datum : Datum := ⟨4, 0, 47, [1], 0, 0, 0, 0, false, []⟩
theorem test_meets_InputsWaitForTheirEdge :
    mainUp up = true ∧ up.tide.running = true ∧ 3 ≤ datum.rank ∧ datum.rank ≤ 5 ∧ srcLocalOk datum.rank datum.srcLocal = true ∧
      up.work.binds = [] ∧ up.tide.waiting = [] ∧
      (let s : State := { up with work.binds := [⟨4, 0, 47, 63, 15, 3⟩] }
       (s.work.binds.filter fun b => b.rank = datum.rank && b.srcMod = datum.srcMod && b.srcLocal = datum.srcLocal) =
        [⟨4, 0, 47, 63, 15, 3⟩]) ∧ ({ datum with rank := 2 } : Datum).rank < 3 := by decide
theorem test_meets_ErrorEvents :
    mainUp upP = true ∧ getPolder upP 63 = some polder ∧ polder.cls ≠ .S ∧
      (let s : State := { upP with flash.rowErrors := [(7, 15)] }
       15 ≤ (tget s.flash.rowErrors 7).getD 0 ∧ rowKey (deviceOf .hbm 0) 7 = 7) ∧ (tget upP.flash.rowErrors 7).getD 0 < 15 ∧
      inputMasked upP 1057 15 = false ∧ inputMasked upP 0 12 = false ∧ 1057 < (1058 : Nat) ∧
      clsOf upS 63 = some .S ∧ channelOf upS 3 = some 2 ∧ channelOf upS 2 = none ∧ upS.work.stackOk.getD 3 false = true ∧
      (recentTides upP [0, 0]).length = 3 ∧ inputMasked (setDomain up 0 { getDomain up 0 with flagged := true }) 0 4 = true := by decide
/-- A read of the last eight bytes of a scratchpad. -/
def scrRead : ScrAccess := ⟨5, 524280, 8, false, [], true⟩
theorem test_meets_StoreEvents :
    mainUp up = true ∧ (getScr up 1).retry = [] ∧ scrOutcome (getScr up 1) [scrRead] scrRead = .served ∧
      scrOutcome (getScr up 1) [{ scrRead with write := true }] { scrRead with write := true } = .served ∧
      (let j : ScrubJob := ⟨3, 63, .reset, some (.polderReset (hdrV 0x0103)), true, [], 0⟩
       let s : State := { upP with work.scrubs := [j] }
       s.work.scrubs.find? (·.id = j.id) = some j ∧ hdrOf (.polderReset (hdrV 0x0103)) = some (hdrV 0x0103) ∧
        getPolder s j.polder = some polder ∧ s.work.scrubs ≠ []) ∧
      (let j : ScrubJob := ⟨3, 63, .frames, some (.graphUnload (hdrV 0x0202) 15), false, [], 0⟩
       let s : State := { upP with work.scrubs := [j] }
       s.work.scrubs.find? (·.id = j.id) = some j ∧ j.kind = .frames) ∧
      (let j : ScrubJob := ⟨3, 63, .destroy, some (.polderDestroy (hdr 0x0102)), false, [], 0⟩
       let s : State := { upP with work.scrubs := [j] }
       s.work.scrubs.find? (·.id = j.id) = some j ∧ j.kind = .destroy) := by decide
theorem test_meets_StoreEvents_other :
    mainUp down = false ∧ (2 : Nat) ≤ 2 ∧ up.work.scrubs.find? (·.id = 3) = none ∧ up.work.decisions = [] ∧ up.work.scrubs = [] ∧
      ((getPolder upP 63).bind (·.rotation)) = none ∧
      (let j : ScrubJob := ⟨3, 63, .frames, none, false, [(1, ⟨0, 50331648⟩)], 0⟩
       scrubReady { upP with work.scrubs := [j] } j = false ∧ scrubReady up { j with extents := [] } = true) ∧
      ({ frame := 9, state := 2, copied := true } : PageEntry).copied = true ∧ ({ frame := 9 } : PageEntry).state ≠ 2 := by decide
theorem test_meets_StoreEvents_port :
    scrOutcome (getScr up 1) [{ scrRead with port := 4, write := true }, { scrRead with write := true }]
        { scrRead with port := 4, write := true } = .collision ∧
      scrOutcome (getScr up 1) [{ scrRead with addr := 8388608 }] { scrRead with addr := 8388608 } = .error := by decide
theorem test_meets_StoreEvents_keys :
    let s : State := { upP with work.polders := [(63, rotating)] }
    getPolder s 63 = some rotating ∧ rotating.rotation.isSome = true ∧ getReq s 63 (4294967296 * 0 + 1) = some request ∧
      request.pages[0]? = some { frame := 9, state := 3 } := ⟨rfl, rfl, rfl, rfl⟩
theorem test_meets_StoreEvents_wait :
    let s : State := { upP with
      work.decisions := [⟨.graphLoad (hdrV 0x0201) 14 2 2 4096 img, 0, 0⟩]
      work.scrubs := [⟨3, 62, .destroy, some (.polderDestroy (hdr 0x0102)), false, [], 0⟩] }
    s.work.decisions = [⟨.graphLoad (hdrV 0x0201) 14 2 2 4096 img, 0, 0⟩] ∧
      hdrOf (.graphLoad (hdrV 0x0201) 14 2 2 4096 img) = some (hdrV 0x0201) ∧ s.work.scrubs ≠ [] := ⟨rfl, rfl, by decide⟩
/-- A quantum of run 63 of polder 63 that ends in the first microsecond. -/
def quantum : QuantumEnd :=
  { stack := 3, tile := 31, who := .run 63 63 1, startNs := 0, cycles := 1, last := true, tideLast := true, work := .inner,
    tensor := 0, element := 0, upset := none, nextDueNs := 501 }
theorem test_meets_TileEvents :
    let i : Invocation := { no := 1, launchIx := 0, commitIx := 2 }
    let s : State := { upP with work.polders := [(63, { polder with runs := [(63, { runOf with invs := [i] })] })] }
    mainUp s = true ∧ s.tide.running = true ∧ s.tide.inBand = false ∧ s.tide.discard = false ∧ tileHalted s 3 31 = false ∧
      isClassS s 63 = false ∧ getRun s 63 63 = some { runOf with invs := [i] } ∧ i.running = true := ⟨rfl, rfl, rfl, rfl, rfl, rfl, rfl, rfl⟩
theorem test_meets_TileEvents_quantum :
    let i : Invocation := { no := 1, launchIx := 0, commitIx := 2, running := true }
    let s : State := { upP with work.polders := [(63, { polder with graphs := [(15, graph)], runs := [(63, { runOf with invs := [i] })] })] }
    quantumValid s quantum = true ∧ quantumValid up quantum = false ∧ quantum.who = .run 63 63 1 := by decide
theorem test_meets_TileEvents_outside :
    (16 : Nat) ≤ 0x21 ∧ 15 < outsideInstances 0x21 ∧ outsideStack 0x21 15 = some 3 ∧ outsideStack 0x21 16 = none ∧
      outsideInstances 0x25 = 0 ∧ 16 * 0 + 15 ∉ sliceKeys ∧
      ({ up with tide.inBand := true } : State).tide.inBand = true ∧
      (let s : State := { up with safety.itemsRepeating := [32 * 0x21 + 15] }
       32 * 0x21 + 15 ∈ s.safety.itemsRepeating ∧ s.work.stackOk.getD 3 false = true) := by decide
theorem test_meets_TileEvents_slices :
    up.power.forcedIx ≠ some up.tide.ix ∧ ({ up with power.forcedIx := some 0 } : State).power.forcedIx = some 0 ∧
      16 * 1 + 0 ∈ sliceKeys ∧ (16 : Nat) ∉ (getTile up 3 31).repeating ∧
      (let s : State := setTile { up with work.stackOk := [true, true, true, true] } 3 31 { getTile up 3 31 with repeating := [16] }
       16 ∈ (getTile s 3 31).repeating ∧ s.work.stackOk.getD 3 false = true) := by decide
/-- A POLDER_CREATE whose SRAM quota is `q`. -/
def create (q : Nat) : Instr := .polderCreate { hdr 0x0101 with polder := 62 } 1 1 1 q 0 0
theorem test_meets_DecisionEvents_promotion :
    let m : Promotion := { e0 := 0, channel := 0, source := 1, switched := true }
    let s : State := { upP with work.promotion := some m }
    s.work.promotion = some m ∧ m.switched = true ∧ decisionsWait s = true := by decide
theorem test_meets_DecisionEvents :
    let s : State := { upP with work.decisions := [⟨create 6016, 0, 0⟩] }
    decisionsWait s = false ∧ createFault s { hdr 0x0101 with polder := 62 } = none ∧ quotaFault s false 0 .Q 6016 0 0 = none ∧
      quotaFault s false 0 .Q 6017 0 0 = some .sramQuota ∧ quotaFault s true 0 .Q 6017 0 0 = some .sramQuota := by decide
theorem test_meets_DecisionEvents_room :
    let s : State := { upP with work.polders := [(63, { polder with sramQuota := 1, destroying := true })] }
    quotaFault s false 0 .Q 6016 0 0 ≠ none ∧ quotaFault s true 0 .Q 6016 0 0 = none := by decide
theorem test_meets_VoteEvents :
    isClassS upS 63 = true ∧ 2 ∈ liveChannels upS ∧ sentResult upS 63 63 2 = false ∧ upS.tide.discard = false ∧
      getRun upS 63 63 = some runS ∧ runS.invs = [inv] ∧ inv.fail = none ∧ inv.finished = none ∧
      canVote upS .B = true ∧ 3 ∈ channelStacks upS ∧ expectedTag upS (resultTag upS 63 63) = true ∧
      (resultTag upS 63 63).srcLocal / 64 = 63 ∧ (resultTag upS 63 63).srcLocal % 64 = 63 ∧ (getWarden upS .B).cut = false ∧
      (getWarden upS .B).votes = [] ∧ upS.wardens.crossLink = true ∧
      (∀ frames : List (Nat × Option (BitVec 128)), frames.length ≤ 3 →
        (frames.filter fun x => x.1 ∈ liveChannels upS).length ≤ 3) :=
  ⟨rfl, by decide, rfl, rfl, rfl, rfl, rfl, rfl, rfl, by decide, rfl, rfl, rfl, rfl, rfl, rfl,
   fun f h => Nat.le_trans (List.length_filter_le _ f) h⟩
/-- Results that send nothing, and frames that a warden ignores, discards or has seen. -/
theorem test_meets_VoteEvents_other :
    isClassS up 63 = false ∧ 0 ∈ liveChannels upS ∧ (3 : Nat) ∉ liveChannels upS ∧ resultInv runOf = none ∧
      resultInv runS = some inv ∧ canVote up .A = false ∧
      2 ∉ channelStacks upS ∧ expectedTag upS { resultTag upS 63 63 with seq := 7 } = false ∧
      (let s := setWarden upS .B { getWarden upS .B with cut := true }
       canVote s .B = true ∧ (getWarden s .B).cut = true) ∧
      (let v : Vote := { polder := 63, run := 63, tag := resultTag upS 63 63, frames := [(0, some 5)] }
       v.frames.any (·.1 = 0) = true ∧ v.frames.any (·.1 = 2) = false ∧
        agreed upS (v.frames ++ [(2, some 5)]) = some 5 ∧ agreed upS (v.frames ++ [(2, none)]) = none) ∧
      canEmit upS .A = true ∧ canEmit up .A = false ∧ upS.wardens.crossLink = true ∧
      ({ upS with wardens.crossLink := false } : State).wardens.crossLink = false := by decide
theorem test_meets_VoteEvents_second :
    let v : Vote := { polder := 63, run := 63, tag := resultTag upS 63 63, frames := [(0, some 5)] }
    let s := setWarden upS .B { getWarden upS .B with votes := [v] }
    canVote s .B = true ∧ expectedTag s (resultTag upS 63 63) = true ∧ (getWarden s .B).votes = [v] ∧ v.emitted = none ∧
      v.payload = [] ∧ 0 ∈ liveChannels s ∧ (0 : Nat) ≠ 2 := ⟨rfl, rfl, rfl, rfl, rfl, by decide, by decide⟩
/-- A kept trajectory of one point. -/
def trajectory : Trajectory := ⟨dueTag, 0, 63, 63, 0, 1, [[1]]⟩
theorem test_meets_WardenEvents :
    (let g : Segment := ⟨1, dueTag, 0, .A, false, 0, 1, 0, 0, false, false, false, 0, []⟩
     let s := setWarden up .A { getWarden up .A with queue := [g] }
     (getWarden s .A).queue.find? (·.port = 1) = some g) ∧
      (let s := setWarden up .A { getWarden up .A with state := .hold, trajectory := some trajectory }
       (getWarden s .A).trajectory = some trajectory ∧ (getWarden s .A).state = .hold ∧ (getWarden s .A).muted = false) ∧
      ((getWarden upS .A).state = .voting ∧ (getWarden upS .A).muted = false ∧ (getWarden upS .A).stopped = false ∧
        upS.safety.hold = none ∧ mainUp upS = true) ∧
      (let s := setWarden up .B { getWarden up .B with state := .armed, goodMarks := 2, injectionOk := true }
       (getWarden s .B).state = .armed ∧ (getWarden s .B).goodMarks = 2 ∧ (getWarden s .B).injectionOk = true ∧
        (getWarden s .B).muted = false ∧ (getWarden s .B).stopped = false ∧ s.safety.hold = none ∧ s.ident.wardenDebug = false) ∧
      (let s := setWarden upS .A { getWarden upS .A with missing := 2 }
       (getWarden s .A).state = .voting ∧ (getWarden s .A).missing = 2 ∧ mainUp s = true ∧ s.safety.hold = none) ∧
      ((getWarden up .A).state = .boot ∧ up.safety.hold = none ∧ (getWarden up .A).state ≠ .off) := by decide
/-- A span without marks and its end, a wait for marks, and a warden that is off. -/
theorem test_meets_WardenEvents_other :
    (let s := setWarden upS .B { getWarden upS .B with stopped := true, missing := 1 }
     (getWarden s .B).stopped = true ∧ mainUp s = true ∧ awaitsMarks (getWarden s .B) = true ∧ (getWarden s .B).state ≠ .off) ∧
      (let s : State := { upS with safety.hold := some ⟨4, false, true⟩ }
       (s.safety.hold.map fun h => h.waitMarks) = some true) ∧
      (let s := setWarden { upS with aon.switchClosed := false } .A { getWarden upS .A with missing := 2 }
       mainUp s = false ∧ (getWarden s .A).missing = 2 ∧ (getWarden s .A).state ≠ .armed ∧ s.safety.hold = none) ∧
      (let s := setWarden up .A { getWarden up .A with state := .armed }
       awaitsMarks (getWarden s .A) = false ∧ (getWarden s .A).goodMarks = 0) ∧
      (getWarden (setWarden up .A { getWarden up .A with state := .off }) .A).state = .off ∧
      (getWarden up .A).state = .boot ∧ (getWarden up .A).trajectory = none ∧ (getWarden up .A).queue.find? (·.port = 1) = none ∧
      up.startup.activation = none ∧ trialWarden 2 = none := by decide
theorem test_meets_WardenEvents_trial :
    let a : Activation := { cmd := .fwActivate (hdr 0x0903) 1 none, image := image, stage := 1 }
    let s := setWarden { upS with startup.activation := some a } .A { getWarden upS .A with switched := true }
    s.startup.activation = some a ∧ a.paused = false ∧ trialWarden a.stage = some .A ∧ canVote s .A = true ∧
      (getWarden s .A).switched = true := ⟨rfl, rfl, rfl, rfl, rfl⟩
/-- The picture that the engine codes, and its state. -/
def picture : Picture := { session := 63, cmd := none, visibleIx := 0, notBefore := 0, tag := dueTag, started := true }
def upC : State := { upG with codec.queue := [picture] }
theorem test_meets_CodecAndStartup :
    codingPicture upC = some picture ∧ getSession upC 63 = some session ∧ session.kind = 0 ∧ 0 < sliceCount session ∧
      picture.slices = [] ∧ upC.tide.discard = false ∧ upC.tide.inBand = false ∧ session.cfg.lowLatency ≠ 1 ∧
      (let c : Session := { session with cfg := { cfg with lowLatency := 1 } }
       let s : State := { upC with codec.sessions := [(63, c)] }
       codingPicture s = some picture ∧ getSession s 63 = some c ∧ c.kind = 0 ∧ 0 < sliceCount c ∧ c.cfg.lowLatency = 1 ∧
        0 = picture.emitted) ∧
      (let q : Picture := { picture with slices := [(0, [])] }
       ∀ x ∈ q.slices, x.1 ≠ 1) :=
  ⟨rfl, rfl, rfl, by decide, rfl, rfl, rfl, by decide, ⟨rfl, rfl, rfl, by decide, rfl, rfl⟩, by decide⟩
theorem test_meets_CodecAndStartup_picture :
    (let q : Picture := { picture with limit := 65536 }
     sliceOk session q 0 [1] [65536] = true ∧ sliceOk session q 0 [1] [65537] = false ∧ sliceOk session q (sliceCount session) [] [] = false) ∧
      pictureOk { session with kind := 1 } picture 0 = true ∧ pictureOk session picture 0 = false ∧
      pictureOk session { picture with slices := [(0, [1])], limit := 8 } 1 = true ∧ codingPicture up = none ∧
      (let s : State := { upC with codec.queue := [{ picture with started := false }] }
       codingPicture s = none ∧ nextPicture s = some { picture with started := false } ∧ mayLaunch s = true ∧
        getSession s 63 = some session) ∧ nextPicture up = none := by decide
theorem test_meets_CodecAndStartup_sleep :
    ({ up with power.stop := true } : State).power.stop = true ∧ mayLaunch { up with tide.running := false } = false ∧
      mainUp up = true ∧ ({ up with startup.entering := true } : State).startup.entering = true ∧
      (let s : State := { up with startup.dormant := true, host.hub0.latched := [16], work.stackOk := [true, true, true, true] }
       s.startup.entering = false ∧ s.startup.dormant = true ∧ 16 ∈ s.host.hub0.latched ∧ s.work.stackOk.getD 3 false = true) := by
  decide
theorem test_meets_CodecAndStartup_firmware :
    let stage : Instr := .fwStage (hdr 0x0901) 0 256 false ⟨256, 0, false⟩ image
    let s : State := { up with
      startup.staging := [stage], startup.verifying := [.fwVerify (hdr 0x0902)], flash.staged := some image
      flash.stagedEnd := true }
    s.startup.staging = stage :: [] ∧ s.startup.verifying = .fwVerify (hdr 0x0902) :: [] ∧ verifyOutcome s = none ∧
      verifyOutcome up = some (.verifyFail, 0xFFFF) ∧ (Instr.fwVerify (hdr 0x0902) ≠ stage) :=
  ⟨rfl, rfl, by decide, by decide, by decide⟩
theorem test_meets_LeveeEvents :
    (7 : Nat) < 8 ∧ mainUp up = true ∧
      (let s := upL {}
       s.ident.lifecycle ≠ .decommissioned ∧ s.flash.index.isSome = true ∧ (getPort s 7).enabled = true ∧
        widest (getPort s 7).failed ≠ 0) ∧
      ((getPort (upL { state := 1, step := 3 }) 7).state = 1 ∧ (getPort (upL { state := 1, step := 3 }) 7).step < 4) ∧
      ((getPort (upL { state := 1, step := 4 }) 7).state = 1 ∧ (getPort (upL { state := 1, step := 4 }) 7).step = 4) ∧
      assocsOver (upL { state := 1, step := 4 }) 7 = [] ∧ (getPort upA 7).state ≠ 0 ∧
      (getPort (upL { retry := [(1, 0)] }) 7).retry ≠ [] := by decide
theorem test_meets_LeveeEvents_port :
    (8 : Nat) ≤ 8 ∧ (getPort up 7).state = 0 ∧ (getPort upA 7).retry = [] ∧ (4 : Nat) ≤ 4 ∧ (3 : Nat) < 4 ∧
      (let s := upL { enabled := false }
       (getPort s 7).enabled = false) ∧
      (let s := upL { failed := [0] }
       widest (getPort s 7).failed = 0 ∧ (getPort s 7).cable = false) ∧
      (getPort (upL { cable := true }) 7).cable = true ∧ up.flash.index = none ∧ assocsOver upA 7 ≠ [] ∧
      (let s := upL { state := 1, step := 1, attempts := 2 }
       (getPort s 7).state ≠ 0 ∧ 2 ≤ (getPort s 7).attempts ∧ assocsOver s 7 = []) := by decide
theorem test_meets_LeveeEvents_refused :
    let f : AuthFrame := ⟨7, 511, 1, 1, 8, 1, true, true⟩
    (getAssoc upA f.peer).any (fun a => a.live && a.nonce ≠ f.nonce) = true ∧ samePeer f upA = false ∧
      samePeer { f with nonce := 0 } upA = true ∧
      (let s : State := { upL { state := 3 } with codec.sessions := [(63, session)] }
       busyAdmitted s = true ∧ periodClash f s = true ∧ samePeer f s = false ∧ (getPort s 7).state = 3) ∧
      periodClash { f with periodQ := 4 } upA = false := by decide
theorem test_meets_LeveeEvents_auth :
    let s := upL { state := 2, lanes := 4, step := 5 }
    let f : AuthFrame := ⟨7, 511, 1, 1, 4, 0, true, false⟩
    (getPort s 7).state = 2 ∧ s.ident.debugOpen = false ∧ s.startup.unlocking = none ∧ f.fleet = s.ident.fleet ∧
      (0 : Nat) ≠ s.ident.fleet ∧ f.macOk = true ∧ s.flash.index ≠ some f.peer ∧ s.flash.index = some 510 ∧
      getAssoc s f.peer = none ∧ f.periodQ = s.tide.periodQ ∧ s.links.rotations = [] ∧
      (let u := setAssoc s 511 { ports := [7], live := false }
       getAssoc u 511 = some { ports := [7], live := false }) := by decide
theorem test_meets_LeveeEvents_frames :
    getAssoc (upL {}) 511 = none ∧ getAssoc upA 511 = some assoc ∧ assoc.live = true ∧ assoc.lastTide.isSome = true ∧
      (1 : Nat) ∉ assoc.rxSeen ∧ assoc.rxHigh < 1 + 1024 ∧ assoc.rxGen = false ∧ upA.links.rotations = [] ∧ upA.tide.running = true ∧
      upA.tide.waiting = [] ∧ freshCounter assoc 1 = true ∧ keptGen upA assoc false = true ∧ keptGen upA { assoc with rxOldUntil := some 0 } true = false ∧
      freshCounter { assoc with rxHigh := 1024 } 0 = false ∧ epochOf 4294967295 = 0 ∧ epochOf 4294967296 = 1 ∧
      getPolder { upA with host.numVfs := 64, work.polders := [(63, polder)] } 63 = some polder ∧
      (let a : Assoc := { assoc with rxSeen := [1], rxHigh := 1, switchAt := some 2 }
       let s := setAssoc upA 511 a
       getAssoc s 511 = some a ∧ 1 ∈ a.rxSeen ∧ a.switchAt.isSome = true ∧ a.switched = false) := by decide
theorem test_meets_SecurityEvents :
    let c : OpenCmd := ⟨.attest (hdr 0x0801) 5 ⟨37752, 0, false⟩, 0⟩
    (let s := setFunc up .pf0 { getFunc up .pf0 with signing := some c }
     (getFunc s .pf0).signing = some c) ∧
      fnEnabled up .pf0 = true ∧ (getFunc up .pf0).signing = none ∧ (getFunc up .pf0).spdmSigning = false ∧
      (let s := setFunc up .pf0 { getFunc up .pf0 with spdmSigning := true }
       (getFunc s .pf0).signing = none ∧ (getFunc s .pf0).spdmSigning = true) ∧
      reachable up .pf0 = true ∧ Fn.vf 63 ≠ .pf0 ∧ (0 : Nat) ∉ (getFunc up .pf0).ideStreams := by decide
theorem test_meets_SecurityEvents_other :
    mainUp down = false ∧ reachable up (.vf 63) = false ∧
      signingBusy (setFunc up .pf0 { getFunc up .pf0 with spdmSigning := true }) .pf0 = true ∧ signingBusy up .pf0 = false ∧
      clusterHalted up 0 = false ∧ clusterHalted (setUnit up 256 { halted := true }) 0 = true ∧
      (let c : OpenCmd := ⟨.attest (hdr 0x0801) 5 ⟨37752, 0, true⟩, 0⟩
       ∃ h n b, c.cmd = .attest h n b ∧ b.fault = true) ∧
      (let s : State := { setTdi upP 63 2 with work.polders := [(63, { polder with resetting := true })] }
       getTdi s 63 ≠ 0 ∧ (getPolder s 63).any (·.resetting) = true ∧ reachable s (.vf 63) = true) :=
  ⟨rfl, rfl, rfl, rfl, rfl, rfl, ⟨_, _, _, rfl, rfl⟩, by decide⟩
theorem test_meets_SecurityEvents_ide :
    let s : State := { up with
      host.funcs := [(fnKey .pf0, { busMaster := true, session := true, ideStreams := [1, 2, 3] })], host.bifurcated := true }
    (getFunc s .pf0).session = true ∧ streamCount s none < 8 ∧ s.host.bifurcated = true ∧ streamCount s (some (linkOf .pf0)) < 4 ∧
      8 ≤ streamCount { s with host.funcs := [(fnKey .pf0, { ideStreams := [1, 2, 3, 4, 5, 6, 7, 8] })] } none := by decide
theorem test_meets_SecurityEvents_tdi :
    fnEnabled upP (.vf 63) = true ∧ getTdi upP 63 = 0 ∧ getTdi (setTdi upP 63 1) 63 = 1 ∧ getTdi (setTdi upP 63 2) 63 ≠ 0 ∧
      getPolder (setTdi upP 63 1) 63 = some polder ∧ polder.resetting = false ∧ getPolder (setTdi up 63 1) 63 = none := by decide
/-- A blank module whose TAP selects the transport and a tile. -/
def upD : State :=
  { up with ident.lifecycle := .blank, startup.tap := 0x20, startup.target := some 127, startup.space := 3 }
theorem test_meets_DebugAndPmbus :
    up.aon.up = true ∧ tapPermits up 0x01 = true ∧ tapPermits up 0x02 = false ∧
      ({ up with ident.lifecycle := .decommissioned } : State).ident.lifecycle = .decommissioned ∧
      dtransOn upD = true ∧ isTarget 127 = true ∧ targetReach upD 127 = true ∧
      (let s : State := { upD with ident.lifecycle := .sealed }
       dtransOn s = true ∧ s.startup.target = some 127 ∧ targetReach s 127 = false) ∧
      ({ upD with startup.target := none } : State).startup.target = none ∧ upD.startup.target = some 127 ∧
      (getUnit upD 127).halted = false ∧ (getUnit (setUnit upD 127 { halted := true }) 127).halted = true ∧
      (1 : Nat) ≤ 65535 ∧ (dbgPlace upD 127 1 0).isSome = true ∧ dbgPlace upD 127 255 0 = none ∧
      (match dbgPlace upD 127 upD.startup.space upD.startup.pointer with
       | some (.cells _) => true
       | _ => false) = true := by decide
theorem test_meets_DebugAndPmbus_other :
    dtransOn up = false ∧ isTarget 128 = false ∧ up.aon.up = true ∧ tapPermits up 0x01 = true ∧
      (dbgPlace upD 127 2 549755813880).isSome = true ∧ dbgPlace upD 127 2 549755813881 = none ∧
      (let s := setUnit up 127 { steps := 0, breaks := [(7, 5)] }
       tget (getUnit s 127).breaks 7 ≠ some 6 ∧ (getUnit s 127).steps = 0) ∧
      (getUnit (setUnit up 127 { halted := true }) 127).halted = true ∧ perTide up = true ∧ perTide down = false := by decide
theorem test_meets_DebugAndPmbus_break :
    let s := setUnit up 127 { steps := 1, breaks := [(7, 5)] }
    isTarget 127 = true ∧ (getUnit s 127).halted = false ∧ tget (getUnit s 127).breaks 7 = some 5 ∧ (getUnit s 127).steps ≠ 0 ∧
      busAnswers up 0x40 = true ∧ busAnswers up 0x41 = false ∧ mainUp up = true ∧ up.tide.running = true ∧
      mainUp { up with aon.switchClosed := false } = false := by decide
theorem test_meets_ConversionsAndResidues :
    ((3 : Int) ≤ 3 ∧ (2 : Int) < 3) ∧ 127 < 2 ^ (formatBits 3 - 1) ∧ (3 : Nat) < 7 ∧ canonicalNan 7 = some 0x7F ∧
      (-140737488355328 : Int) ≤ -140737488355328 := by decide

/-! ## Ill-formed commands -/

/-- One command for each check of a header, each field one past its range. -/
theorem test_header_checks :
    ([.identify { hdr 1 with fn := .vf 64 }, .identify { hdr 1 with sluice := 16 }, .identify (hdr 65536),
      .identify { hdr 1 with polder := 256 }, .fwVerify { hdr 1 with sluiceField := 256 }] : List Instr).all
      (fun c => !instrOk c) = true := by decide
/-- Module commands with one field past its range. -/
theorem test_module_checks :
    ([.setTide (hdr 2) 256 0, .setTide (hdr 2) 0 65536, .setTimebase (hdr 3) 256 0, .setTimebase (hdr 3) 0 256,
      .setPhaseOp (hdr 0x0601) [0, 256], .setPowerCap (hdr 0x0602) 65536 0 0 0, .setPowerCap (hdr 0x0602) 0 256 0 0,
      .setPowerCap (hdr 0x0602) 0 0 65536 0, .setPowerCap (hdr 0x0602) 0 0 0 65536,
      .getTelemetry (hdr 0x0603) ⟨4294967296, 0, false⟩, .safetyProfileSet (hdr 0x0701) 256 0, .safetyProfileSet (hdr 0x0701) 0 256,
      .breachLogRead (hdr 0x0703) 4294967296 ⟨0, 0, false⟩, .attest (hdr 0x0801) 0 ⟨4294967296, 0, false⟩,
      .keyRotateLink (hdr 0x0802) 256, .lifecycleAdvance (hdr 0x0803) 256, .selftestReport (hdr 0x0A01) ⟨4294967296, 0, false⟩,
      .debugUnlock (hdr 0x0A02) 256, .tidePreset (hdr 0x0A03) 65536 0, .tidePreset (hdr 0x0A03) 0 4294967296,
      .linkConfig (hdr 0x0B01) 0 0 65536, .linkStatus (hdr 0x0B02) 256] : List Instr).all (fun c => !instrOk c) = true := by decide
theorem test_firmware_checks :
    ([.fwStage (hdr 0x0901) 4294967296 0 false ⟨0, 0, false⟩ image, .fwStage (hdr 0x0901) 0 4294967296 false ⟨0, 0, false⟩ image,
      .fwStage (hdr 0x0901) 0 0 false ⟨4294967296, 0, false⟩ image] : List Instr).all (fun c => !instrOk c) = true := by decide
/-- Commands of a polder's resources and runs with one field past its range. -/
theorem test_polder_checks :
    ([.polderCreate (hdr 0x0101) 256 0 0 0 0 0, .polderCreate (hdr 0x0101) 0 256 0 0 0 0, .polderCreate (hdr 0x0101) 0 0 256 0 0 0,
      .polderCreate (hdr 0x0101) 0 0 0 65536 0 0, .polderCreate (hdr 0x0101) 0 0 0 0 65536 0,
      .polderCreate (hdr 0x0101) 0 0 0 0 0 65536, .setTokenBudget (hdr 0x0105) 4294967296 0, .setTokenBudget (hdr 0x0105) 0 4294967296,
      .graphLoad (hdr 0x0201) 256 0 0 0 img, .graphLoad (hdr 0x0201) 0 65536 0 0 img, .graphLoad (hdr 0x0201) 0 0 65536 0 img,
      .graphLoad (hdr 0x0201) 0 0 0 4294967296 img, .graphUnload (hdr 0x0202) 256, .graphQueryPlacement (hdr 0x0203) 256 ⟨0, 0, false⟩,
      .graphQueryPlacement (hdr 0x0203) 0 ⟨4294967296, 0, false⟩, .goldenSet (hdr 0x0702) 256 0] : List Instr).all
      (fun c => !instrOk c) = true := by decide
theorem test_run_checks :
    ([.runAtTide (hdr 0x0301) 256 0 0 0 [] false, .runAtTide (hdr 0x0301) 0 256 0 0 [] false, .runAtTide (hdr 0x0301) 0 0 65536 0 [] false,
      .runAtTide (hdr 0x0301) 0 0 0 65536 [] false, .runAtTide (hdr 0x0301) 0 0 0 1 [⟨256, false, 0, 0, 0, false⟩] false,
      .runAtTide (hdr 0x0301) 0 0 0 1 [⟨0, false, 4294967296, 0, 0, false⟩] false, .runPeriodic (hdr 0x0302) 256 0 0 0 0 0 [] false,
      .runPeriodic (hdr 0x0302) 0 256 0 0 0 0 [] false, .runPeriodic (hdr 0x0302) 0 0 65536 0 0 0 [] false,
      .runPeriodic (hdr 0x0302) 0 0 0 65536 0 0 [] false, .runPeriodic (hdr 0x0302) 0 0 0 0 65536 0 [] false,
      .runPeriodic (hdr 0x0302) 0 0 0 0 0 4294967296 [] false, .runPeriodic (hdr 0x0302) 0 0 0 0 1 0 [⟨256, false, 0, 0, 0, false⟩] false,
      .streamBind (hdr 0x0303) 256 0 0 0 0 0, .streamBind (hdr 0x0303) 0 256 0 0 0 0, .streamBind (hdr 0x0303) 0 0 65536 0 0 0,
      .streamBind (hdr 0x0303) 0 0 0 256 0 0, .streamBind (hdr 0x0303) 0 0 0 0 256 0, .streamBind (hdr 0x0303) 0 0 0 0 0 65536,
      .runStop (hdr 0x0304) 256 0, .runStop (hdr 0x0304) 0 256] : List Instr).all (fun c => !instrOk c) = true := by decide
theorem test_serving_checks :
    ([.modelVariantAdd (hdr 0x0401) 256 0 0 img, .modelVariantAdd (hdr 0x0401) 0 65536 0 img,
      .modelVariantAdd (hdr 0x0401) 0 0 4294967296 img, .requestSubmit (hdr 0x0402) 256 0 0 0 reqDesc,
      .requestSubmit (hdr 0x0402) 0 65536 0 0 reqDesc, .requestSubmit (hdr 0x0402) 0 0 4294967296 0 reqDesc,
      .requestSubmit (hdr 0x0402) 0 0 0 4294967296 reqDesc, .requestCancel (hdr 0x0403) 0 256, .commonsJoin (hdr 0x0404) 65536,
      .codecSessionOpen (hdr 0x0501) 256 0 0 0 0 cfg, .codecSessionOpen (hdr 0x0501) 0 256 0 0 0 cfg,
      .codecSessionOpen (hdr 0x0501) 0 0 65536 0 0 cfg, .codecSessionOpen (hdr 0x0501) 0 0 0 65536 0 cfg,
      .codecSessionOpen (hdr 0x0501) 0 0 0 0 65536 cfg, .codecSessionClose (hdr 0x0502) 256, .codecPicture (hdr 0x0503) 256 0 0 0 ⟨0, false⟩,
      .codecPicture (hdr 0x0503) 0 4294967296 0 0 ⟨0, false⟩, .codecPicture (hdr 0x0503) 0 0 0 0 ⟨4294967296, false⟩] : List Instr).all
      (fun c => !instrOk c) = true := by decide
/-- Accesses and events with one field past its range. -/
theorem test_event_checks :
    ([.doorbell (.vf 64) 0 0, .sluiceEnable .pf0 16 0, .registerWrite .pf0 1048576 4 ⟨0, 0⟩, .registerWrite .pf0 0 0 ⟨0, 0⟩,
      .registerWrite .pf0 0 5 ⟨0, 0⟩, .registerWrite (.vf 64) 0 4 ⟨0, 0⟩, .vfCtrClr 64 0, .scrClr 2 0,
      .quantumEnd { quantum with stack := 4 }, .quantumEnd { quantum with tile := 32 },
      .scratchpadAccess 2 [], .scratchpadAccess 0 [⟨6, 0, 1, false, [], false⟩], .scratchpadAccess 0 [⟨0, 0, 0, false, [], false⟩],
      .scratchpadAccess 0 [⟨0, 0, 9, false, [], false⟩], .inputArrival { datum with rank := 2 }, .inputArrival { datum with rank := 7 },
      .inputArrival { datum with srcMod := 512 }, .inputArrival { datum with srcLocal := 32768 }, .selftestSliceEnd 4 0 1 0 true,
      .slicePreempt 0 32, .thermalComparatorTrip 146 0 0, .sensorSuspect 146] : List Instr).all (fun c => !instrOk c) = true := by decide
/-- The same commands with every field at the top of its range are well formed. -/
theorem test_well_formed :
    ([.setTide (hdr 2) 255 65535, .doorbell (.vf 63) 15 0, .registerWrite .pf0 1048575 4 ⟨0, 0⟩, .inputArrival datum,
      .scratchpadAccess 1 [scrRead], .sensorSuspect 145, .identify { hdr 65535 with polder := 255, sluiceField := 255, sluice := 15 },
      .wipeDone 0] : List Instr).all instrOk = true := by decide
/-- The table gives no row any bits, so no word spells a command. -/
theorem test_no_word_spells : decodeTableWord 32 0 = none ∧ up.withFetchWord 32 0 = up := ⟨rfl, rfl⟩

/-! ## The spec's worked examples -/

/-- Section 5, the dot product: 0x3C, 0xB4, 0x09, 0x46 by 0x42, 0x44, 0x21, 0xC1, and its window and residue. -/
def dotA : Vec := { format := 7, elems := [0x3C, 0xB4, 0x09, 0x46] }
def dotB : Vec := { format := 7, elems := [0x42, 0x44, 0x21, 0xC1] }
theorem test_dot_fp32 : (dotRow [dotA] dotB [] noDraw 11).codes = [0xC0CBEC00] := by decide +kernel
theorem test_dot_bf16 : (dotRow [dotA] dotB [] noDraw 9).codes = [0xC0CC] := by decide +kernel
theorem test_dot_window : matmulValue dotA dotB [] = .fin true 6682112 (-20) ∧ windowResidue (-6682112) = 120 := by decide +kernel
/-- Section 5, the eight INT8 weights 0, 7, 0, -3, 5, 0, 0, 0: the kept elements, their places and the metadata byte. -/
theorem test_sparse_groups :
    packMeta [(1, 3), (0, 1)] = [0x4D] ∧ expandSparse [(1, 3), (0, 1)] [(7 : Int), -3, 5, 0] =
      [none, some 7, none, some (-3), some 5, some 0, none, none] := by decide
/-- Section 7, the 3 x 3 convolution: 4 x 4 outputs; a corner reads four real positions and an inner one nine. -/
def conv3 : ConvParams := ⟨1, 3, 3, 1, 1, 1, 1, 1, 1, 1, 1, 4, 4, 1, 1, 1⟩
def ones (n : Nat) : Vec := { format := 1, elems := List.replicate n 1 }
theorem test_conv_shape : convOut conv3 = (4, 4) := by decide
theorem test_conv_corner : (convOp conv3 0 0 (ones 16) 0 [(ones 9, none)] 0 0 [] noDraw 3).codes = [4] := by decide +kernel
theorem test_conv_inner : (convOp conv3 1 2 (ones 16) 0 [(ones 9, none)] 0 0 [] noDraw 3).codes = [9] := by decide +kernel
/-- Section 7, the zero-compressed INT8 block. -/
theorem test_zero_compress :
    compressBlock 1 ((List.replicate 3 0) ++ [12, 7] ++ List.replicate 12 0 ++ [0xFF] ++ List.replicate 22 0 ++ [100] ++
      List.replicate 22 0 ++ [0x80]) =
      [0x18, 0x00, 0x02, 0x00, 0x00, 0x01, 0x00, 0x80, 0x0C, 0x07, 0xFF, 0x64, 0x80, 0, 0, 0] := by decide
/-- Section 8, the distribution of four requests' pages on four tiles. -/
theorem test_attention_loads : (distribute [(0, 40), (1, 12), (2, 6), (3, 2)] 1 4).2 = [14, 14, 16, 16] := by decide
/-- Section 6, one cycle of a scratchpad: port 4 is served, port 2 collides and port 3 waits. -/
def cycle : List ScrAccess :=
  [⟨2, 8 * 0x4010, 8, true, [1], true⟩, ⟨3, 8 * 0x4030, 8, false, [], true⟩, ⟨4, 8 * 0x4010, 8, true, [2], true⟩]
theorem test_scratchpad_cycle :
    cycle.map (scrOutcome (getScr up 0) cycle) = [.collision, .wait, .served] := by decide
/-- Section 10, the costs of four pictures, in tenths of a nanosecond. -/
theorem test_picture_costs :
    ([(0, 1920, 1080, { cfg with refs := 1 }), (0, 3840, 2160, cfg), (0, 3840, 2160, { cfg with layout := 1 }),
      (1, 3840, 2160, { cfg with layout := 8, maxPicBytes := 1300000 })].map
      fun c => pictureCost { session with kind := c.1, width := c.2.1, height := c.2.2.1, cfg := c.2.2.2 }) =
      [1651200, 6424800, 7126800, 6591525] := by decide
/-- Section 15, the path delay and the offset of module 5, in ns. -/
def pathFrame : ControlFrame :=
  { port := 0, src := 0, counter := 1, keyGen := false, tagOk := true, correction := 400, tide := 0, epochNext := 0, timeState := 0, hops := 0, keeper := 0, opTarget := 0, periodQ := 4, announceRelabel := false, announcePeriod := false, announceKey := false, tSend := 11700, tEcho := 10000, tEchoRx := 11100, rxAt := 13500, atTide := 0, relabelTo := 0, records := [] }
theorem test_path_delay : pathDelay pathFrame = 1250 ∧ pathOffset pathFrame = 150 := by decide
/-- Section 18, ARB_SEL of the Class Q wait on bank group 5 of tile 2.13 for P12: instance 621, input 12. -/
theorem test_arb_sel :
    ((writeRegister .pf0 0x4000 0xC26D up).mem.arbInstance, (writeRegister .pf0 0x4000 0xC26D up).mem.arbInput) = (621, 12) := by
  decide
/-- Section 16, the length of the attestation report. -/
theorem test_report_length : reportLength = 64 + 56 + 128 + 400 + 24 + 1032 + 384 + 35664 := rfl
/-- Section 9, the level of P20: a refill adds three tokens and stops at BURST. -/
theorem test_budget_refill :
    let s : State := { upP with work.polders := [(20, { polder with budget := some ⟨3000, 400, 4000 * 143⟩ })] }
    levelOf (refillBudgets s) 20 = some (4000 * 146) ∧
      levelOf (refillBudgets { s with work.polders := [(20, { polder with budget := some ⟨3000, 400, 4000 * 399⟩ })] }) 20 =
        some (4000 * 400) := by decide
/-- What a step of exec leaves, or the state itself where it stops. -/
def after (c : Instr) (s : State) : State :=
  match exec c s with
  | .next t => t
  | _ => s
/-- Section 14, the hang of REFSEL: source 1,661 is raised on the IO0 hub and the cleaner holds over. -/
theorem test_refsel_flag :
    (getSource (after (.clockMonitorFlag 93 false) up) 0 1661).count = 1 ∧
      (after (.clockMonitorFlag 93 false) up).clocks.holdover = true := by decide
/-- Section 17, the time-source and safety-profile records of another format: bits 1 and 2. -/
theorem test_settings_mask :
    resetMask 2 { up with flash.recTide := ⟨2, 4, 50⟩, flash.recPorts := ⟨2, 255, 0⟩ } = 0x06 := by decide

end Sys2Proof.Tests
end

section
/-! Tide labels and merge order (R66 to R68): the tide that a TN alone names, and the order of the tags of one merge. -/

namespace Sys2Proof.Proofs
open Sys2Proof Sys2Proof.Machine Sys2Proof.Laws

/-! ## The tide that a TN alone names -/

theorem tnDistance_eq_emod (now : Nat) {t : Nat} (ht : t < 4294967296) :
    (tnDistance (tnOf now) t : Int) = ((t : Int) - now) % 4294967296 := by
  simp only [tnDistance, tnOf]
  omega

theorem resolveTn_eq_none_iff (now : Nat) {t : Nat} (ht : t < 4294967296) :
    resolveTn now t = none ↔ ((t : Int) - now) % 4294967296 = 2147483648 := by
  have hd := tnDistance_eq_emod now ht
  simp only [resolveTn]
  split
  · simp; omega
  · split <;> simp <;> omega

/-- A resolved tide carries the TN, and lies strictly within 2^31 tides of the present one. -/
theorem resolveTn_some {now t : Nat} {r : Int} (ht : t < 4294967296) (h : resolveTn now t = some r) :
    r % 4294967296 = t ∧ -2147483648 < r - now ∧ r - now < 2147483648 := by
  have hd := tnDistance_eq_emod now ht
  simp only [resolveTn] at h
  split at h
  · cases h
  · split at h
    · cases h; omega
    · cases h; omega

/-- Tides with one TN lie a multiple of 2^32 apart, so one within 2^31 of the present is nearest. -/
theorem nearest_of_within_half {r q now : Int} (hq : q % 4294967296 = r % 4294967296) (hlo : -2147483648 < r - now)
    (hhi : r - now < 2147483648) : (r - now).natAbs ≤ (q - now).natAbs := by
  obtain ⟨k, hk⟩ : ∃ k, q = r + 4294967296 * k := ⟨q / 4294967296 - r / 4294967296, by omega⟩
  omega

/-- Settles O10: a resolved tide lies within 2^31 of the present one, and no other tide with its TN does. -/
theorem tnNamesNearestTide : Obligations.TnNamesNearestTide := by
  intro now t ht
  split
  next r hr =>
    obtain ⟨htn, hlo, hhi⟩ := resolveTn_some ht hr
    exact ⟨htn, fun q hq => nearest_of_within_half (hq.trans htn.symm) hlo hhi, by omega⟩
  next hr => exact (resolveTn_eq_none_iff now ht).mp hr

/-! ## The order of tags -/

/-- Epoch and TN are the digits of the tide count, module and local number those of the source ID, so tags that agree in the
four keys of R62 are equal. -/
theorem tag_eq_of_keys {a b : Tag} (ha : a.tn < 4294967296) (hb : b.tn < 4294967296) (la : a.srcLocal < 32768)
    (lb : b.srcLocal < 32768) (hc : tagCount a = tagCount b) (hr : a.rank = b.rank) (hs : tagSource a = tagSource b)
    (hq : a.seq = b.seq) : a = b := by
  simp only [tagCount] at hc
  simp only [tagSource] at hs
  have he : a.epoch = b.epoch ∧ a.tn = b.tn := by omega
  have hm : a.srcMod = b.srcMod ∧ a.srcLocal = b.srcLocal := by omega
  cases a; cases b
  simp_all

/-- Of two entries that differ in a key, one comes first; entries that agree in all three come in the order of the last. -/
theorem lexOrder_or {c d r q s t : Nat} {x y : Bool} (h : c = d → r = q → s = t → x = true ∨ y = true) :
    lexOrder c d r q s t x = true ∨ lexOrder d c q r t s y = true := by
  rw [lexOrder_true, lexOrder_true]
  by_cases hk : c = d ∧ r = q ∧ s = t
  · obtain ⟨hc, hr, hs⟩ := hk
    have := h hc hr hs
    tauto
  · omega

theorem tagBefore_or {a b : Tag} (ha : a.tn < 4294967296) (hb : b.tn < 4294967296) (la : a.srcLocal < 32768)
    (lb : b.srcLocal < 32768) (hne : a ≠ b) (hseq : b.seq - a.seq ≠ 2147483648) :
    tagBefore a b = true ∨ tagBefore b a = true := by
  rw [tagBefore_lexOrder, tagBefore_lexOrder]
  apply lexOrder_or
  intro hc hr hs
  have hq : a.seq ≠ b.seq := fun e => hne (tag_eq_of_keys ha hb la lb hc hr hs e)
  exact (serialLt_comparable a.seq b.seq).2 hq hseq

theorem tagBefore_withSeq (a : Tag) (x y : Word) :
    tagBefore { a with seq := x } { a with seq := y } = serialLt x y := by
  simp [tagBefore]

/-- R68: within a span of fewer than 2^31, serial order is the order of the distances from the span's first number. -/
theorem serialLt_iff_distance {first x y : Word} (hx : (x - first).toNat < 2147483648)
    (hy : (y - first).toNat < 2147483648) : serialLt x y = true ↔ (x - first).toNat < (y - first).toNat := by
  have hsplit : (y - x).toNat = ((y - first).toNat + 4294967296 - (x - first).toNat) % 4294967296 := by bv_omega
  simp only [serialLt, Bool.and_eq_true, decide_eq_true_eq]
  omega

/-- Settles O11: the keys decide between tags that differ in one, and serial order between those that do not. -/
theorem mergeOrderTotal : Obligations.MergeOrderTotal := by
  refine ⟨fun a b ha hb la lb => ⟨?_, tagBefore_or ha hb la lb⟩, fun a first x y hx hy => ⟨?_, serialLt_iff_distance hx hy⟩⟩
  · rintro ⟨hab, hba⟩
    simp [tagBefore_asymm hab] at hba
  · rw [tagBefore_withSeq]

end Sys2Proof.Proofs
end

section
/-! Reads of the register map (R11, R52, R472): the four answers of a bus read, and TIDE_NOW with its capture. -/

namespace Sys2Proof.Proofs
open Sys2Proof Sys2Proof.Machine Sys2Proof.Laws

/-! ## What a bus read answers -/

theorem exec_read_unreachable {fn : Fn} {s : State} (hr : reachable s fn = false) (read : ReadIn) :
    exec (.tideNowLoRead fn read) s = .next s := by
  show execTideNowLoRead fn read s = _
  simp [execTideNowLoRead, hr]

theorem exec_read_dark {fn : Fn} {s : State} (hr : reachable s fn = true) (hd : barDark s = true) (read : ReadIn) :
    exec (.tideNowLoRead fn read) s = .next (emit (.busRead fn read.offset 0xFFFFFFFF) s) := by
  show execTideNowLoRead fn read s = _
  simp [execTideNowLoRead, hr, hd]

theorem exec_read_size {fn : Fn} {s : State} (hr : reachable s fn = true) (hd : barDark s = false) {read : ReadIn}
    (hz : read.size ≠ 4) : exec (.tideNowLoRead fn read) s = .next (emit (.busRead fn read.offset 0) s) := by
  show execTideNowLoRead fn read s = _
  simp [execTideNowLoRead, hr, hd, hz]

theorem exec_read_word {fn : Fn} {s : State} (hr : reachable s fn = true) (hd : barDark s = false) (off : Nat) :
    exec (.tideNowLoRead fn ⟨off, 4⟩) s = .next
      (emit (.busRead fn off (w32 (readValue s fn off))) (if off % 4 = 0 then capture s fn off else s)) := by
  show execTideNowLoRead fn ⟨off, 4⟩ s = _
  simp [execTideNowLoRead, hr, hd]

/-! ## TIDE_NOW in a function's own block -/

/-- Offset of TIDE_NOW_LO in the BAR0 of a function. -/
def tideNowLo (fn : Fn) : Nat := if isPf0 fn then 0x24 else 0x10

/-- Offset of TIDE_NOW_HI in the BAR0 of a function. -/
def tideNowHi (fn : Fn) : Nat := tideNowLo fn + 4

theorem w32_toNat (v : Word) : w32 v.toNat = v := by simp [w32]

/-- Below the MSI-X structures a read answers the register. -/
theorem readValue_of_lt {fn : Fn} {off : Nat} (s : State) (h : off < 0xE000) : readValue s fn off = regValue s fn off := by
  have hb : off < msixBase fn := by cases fn <;> simp only [msixBase] <;> omega
  have hp : off ≠ msixBase fn + 0x1000 := by omega
  simp [readValue, Nat.not_le.mpr hb, hp]

theorem readValue_tideNowLo (s : State) (fn : Fn) : readValue s fn (tideNowLo fn) = s.tide.count % 4294967296 := by
  rw [readValue_of_lt s (by cases fn <;> simp [tideNowLo, isPf0])]
  cases fn <;> simp [regValue, globalReg, polderReg, tideNowLo, isPf0, tnOf]

theorem readValue_tideNowHi (s : State) (fn : Fn) :
    readValue s fn (tideNowHi fn) = ((getFunc s fn).capTide.getD 0).toNat := by
  rw [readValue_of_lt s (by cases fn <;> simp [tideNowHi, tideNowLo, isPf0])]
  cases fn <;> simp [regValue, globalReg, polderReg, tideNowHi, tideNowLo, isPf0]

theorem capture_tideNowLo (s : State) (fn : Fn) : capture s fn (tideNowLo fn) =
    setFunc s fn { getFunc s fn with capTide := some (w32 (s.tide.count / 4294967296)) } := by
  cases fn <;> rfl

theorem capture_tideNowHi (s : State) (fn : Fn) : capture s fn (tideNowHi fn) = s := by
  cases fn <;> rfl

theorem exec_read_tideNowLo {fn : Fn} {s : State} (hr : reachable s fn = true) (hd : barDark s = false) :
    exec (.tideNowLoRead fn ⟨tideNowLo fn, 4⟩) s = .next
      (emit (.busRead fn (tideNowLo fn) (w32 (s.tide.count % 4294967296)))
        (setFunc s fn { getFunc s fn with capTide := some (w32 (s.tide.count / 4294967296)) })) := by
  have ha : tideNowLo fn % 4 = 0 := by cases fn <;> simp [tideNowLo, isPf0]
  rw [exec_read_word hr hd, readValue_tideNowLo, if_pos ha, capture_tideNowLo]

theorem exec_read_tideNowHi {fn : Fn} {s : State} (hr : reachable s fn = true) (hd : barDark s = false) {hi : Word}
    (hc : (getFunc s fn).capTide = some hi) :
    exec (.tideNowLoRead fn ⟨tideNowHi fn, 4⟩) s = .next (emit (.busRead fn (tideNowHi fn) hi) s) := by
  rw [exec_read_word hr hd, readValue_tideNowHi, capture_tideNowHi, hc, Option.getD_some, w32_toNat, ite_self]

/-- The offsets whose read captures the epoch: TIDE_NOW_LO, for PF0 also that of each polder's block. -/
def CapturesTide (fn : Fn) (off : Nat) : Prop :=
  if isPf0 fn then off = 0x24 ∨ (0x10000 ≤ off ∧ off < 0x50000 ∧ off % 4096 = 0x10) else off = 0x10

theorem capture_capTide {s : State} {fn : Fn} {off : Nat} (h : ¬ CapturesTide fn off) :
    (getFunc (capture s fn off) fn).capTide = (getFunc s fn).capTide := by
  cases fn with
  | vf p => simp_all [CapturesTide, isPf0, capture]
  | pf0 | pf0b =>
    simp only [CapturesTide, isPf0, if_true] at h
    simp only [capture, Bool.or_eq_true, Bool.and_eq_true, decide_eq_true_eq, and_assoc, if_neg h]
    repeat' split
    all_goals simp

/-- Settles O24: the four answers of a bus read, the fourth of which TIDE_NOW_LO and TIDE_NOW_HI narrow down. -/
theorem registerReads : Obligations.RegisterReads := by
  intro fn s
  refine ⟨fun hr off size => exec_read_unreachable hr ⟨off, size⟩, fun hr hd => ?_,
    fun hr hd off size => exec_read_dark hr hd ⟨off, size⟩⟩
  refine ⟨exec_read_word hr hd, fun off size hz => exec_read_size (read := ⟨off, size⟩) hr hd hz, fun hp => ?_, fun hp => ?_,
    fun off h => capture_capTide ?_, fun hi hc hp => ?_, fun hi hc hp => ?_⟩
  · simpa [tideNowLo, hp] using exec_read_tideNowLo hr hd
  · simpa [tideNowLo, hp] using exec_read_tideNowLo hr hd
  · cases hp : isPf0 fn <;> simp_all [CapturesTide]
  · simpa [tideNowHi, tideNowLo, hp] using exec_read_tideNowHi hr hd hc
  · simpa [tideNowHi, tideNowLo, hp] using exec_read_tideNowHi hr hd hc

end Sys2Proof.Proofs
end

section
/-! The SEQ check of a fetched command (R112 step 1, R113): which SEQ it refuses, where a fetch ends, and what the sluice keeps as
its last SEQ. -/

namespace Sys2Proof.Proofs
open Sys2Proof Sys2Proof.Machine Sys2Proof.Safety Sys2Proof.Laws

/-! ## Which SEQ is refused -/

theorem seqFault_of_first {x : Sluice} (seq : Word) (hx : x.prevSeq = none) : seqFault x seq = none := by
  simp [seqFault, hx]

theorem seqFault_of_repeat {x : Sluice} {p : Word} (hx : x.prevSeq = some p) : seqFault x p = some .seqRepeat := by
  simp [seqFault, hx]

theorem seqFault_of_behind {x : Sluice} {p seq : Word} (hx : x.prevSeq = some p) (hne : seq ≠ p)
    (hfar : ¬ (seq - p).toNat < 2147483648) : seqFault x seq = some .seqOrder := by
  have hlt : serialLt p seq = false := by simp only [serialLt, decide_eq_false hfar, Bool.and_false]
  simp [seqFault, hx, hne.symm, hlt]

/-! ## The last SEQ, once the slot is taken -/

@[simp] theorem takeSlot_prevSeq (h : Hdr) (light : Bool) (s : State) :
    (getSluice (takeSlot h light s) h.fn h.sluice).prevSeq = (getSluice s h.fn h.sluice).prevSeq := by
  simp [takeSlot]

@[simp] theorem taken_prevSeq (c : Instr) (h : Hdr) (s : State) :
    (getSluice (taken c h s) h.fn h.sluice).prevSeq = some h.seq := by
  simp [taken, setPrev]

/-! ## Where a fetch ends -/

section
variable {c : Instr} {h : Hdr} {i : OpInfo} {s : State} (hh : hdrOf c = some h) (hi : opInfo c = some i)
  (hf : mayFetch s h = true)
include hh hi hf

/-- A command that step 1 of R112 refuses ends there, before the sluice takes its SEQ. -/
theorem exec_of_seqFault {r : Reason} (hr : seqFault (getSluice s h.fn h.sluice) h.seq = some r) :
    exec c s = .next (finish h .badParam r [] (takeSlot h false s)) := by
  rw [exec_fetched s hh]
  simp [fetch, hi, hf, hr]

/-- A new command in order goes on to the later checks with its SEQ taken. -/
theorem exec_of_inOrder (hs : seqFault (getSluice s h.fn h.sluice) h.seq = none)
    (ha : h.seq ∉ (getSluice s h.fn h.sluice).applied) (hd : alreadyHeld s h = false) :
    exec c s = .next (admitFetched c i h (onArrival c) (taken c h s)) := by
  rw [exec_fetched s hh]
  simp [fetch, hi, hf, hs, ha, hd, taken]

/-- A new command in order that fails a later check ends with that check's status and reason. -/
theorem exec_of_arrivalFault (hs : seqFault (getSluice s h.fn h.sluice) h.seq = none)
    (ha : h.seq ∉ (getSluice s h.fn h.sluice).applied) (hd : alreadyHeld s h = false) {st : Status} {r : Reason}
    (hr : arrivalFault (taken c h s) c i h = some (st, r)) :
    exec c s = .next (finish h st r [] (taken c h s)) := by
  rw [exec_of_inOrder hh hi hf hs ha hd, admitFetched, hr]

end

/-- Settles O13: step 1 ends a fetch before the sluice takes its SEQ, every later check after, and no completion changes it. -/
theorem seqCheckedFirst : Obligations.SeqCheckedFirst := by
  intro c h i s hh hi hf
  refine ⟨seqFault_of_first h.seq, fun p hp => ⟨fun he => ?_, fun hne hfar => ?_, fun r => ?_⟩, fun st r hs ha hd hr => ?_⟩
  · subst he
    exact exec_of_seqFault hh hi hf (seqFault_of_repeat hp)
  · exact exec_of_seqFault hh hi hf (seqFault_of_behind hp hne hfar)
  · rw [finish_prevSeq, takeSlot_prevSeq, hp]
  · exact ⟨_, exec_of_arrivalFault hh hi hf hs ha hd hr, by rw [finish_prevSeq, taken_prevSeq]⟩

end Sys2Proof.Proofs
end

section
/-! Invariants of a step: the queue, the fuses and byte memory. The meanings' own laws (`execX_keeps`, `execX_tame`) are gathered
into one law of `exec` each, from which the statements follow. -/

namespace Sys2Proof.Proofs
open Sys2Proof Sys2Proof.Machine Sys2Proof.Safety Sys2Proof.Laws

/-! ## One law for all commands -/

/-- A command outside `writesCells` keeps the queue, the fuses and byte memory. -/
theorem exec_keeps {c : Instr} (hc : writesCells c = false) (s : State) : Keeps s (exec c s) := by
  cases c with
  | identify => exact execIdentify_keeps _ _
  | setTide => exact execSetTide_keeps _ _ _ _
  | setTimebase => exact execSetTimebase_keeps _ _ _ _
  | getHealth => exact execGetHealth_keeps _ _
  | polderCreate => exact execPolderCreate_keeps _ _ _ _ _ _ _ _
  | polderDestroy => exact execPolderDestroy_keeps _ _
  | polderReset => exact execPolderReset_keeps _ _
  | polderQuery => exact execPolderQuery_keeps _ _
  | setTokenBudget => exact execSetTokenBudget_keeps _ _ _ _
  | graphLoad => exact execGraphLoad_keeps _ _ _ _ _ _ _
  | graphUnload => exact execGraphUnload_keeps _ _ _
  | graphQueryPlacement => exact execGraphQueryPlacement_keeps _ _ _ _
  | runAtTide => exact execRunAtTide_keeps _ _ _ _ _ _ _ _
  | runPeriodic => exact execRunPeriodic_keeps _ _ _ _ _ _ _ _ _ _
  | streamBind => exact execStreamBind_keeps _ _ _ _ _ _ _ _
  | runStop => exact execRunStop_keeps _ _ _ _
  | modelVariantAdd => exact execModelVariantAdd_keeps _ _ _ _ _ _
  | requestSubmit => exact execRequestSubmit_keeps _ _ _ _ _ _ _
  | requestCancel => exact execRequestCancel_keeps _ _ _ _
  | commonsJoin => exact execCommonsJoin_keeps _ _ _
  | codecSessionOpen => exact execCodecSessionOpen_keeps _ _ _ _ _ _ _ _
  | codecSessionClose => exact execCodecSessionClose_keeps _ _ _
  | codecPicture => exact execCodecPicture_keeps _ _ _ _ _ _ _
  | setPhaseOp => exact execSetPhaseOp_keeps _ _ _
  | setPowerCap => exact execSetPowerCap_keeps _ _ _ _ _ _
  | getTelemetry => exact execGetTelemetry_keeps _ _ _
  | safetyProfileSet => exact execSafetyProfileSet_keeps _ _ _ _
  | goldenSet => exact execGoldenSet_keeps _ _ _ _
  | breachLogRead => exact execBreachLogRead_keeps _ _ _ _
  | attest => exact execAttest_keeps _ _ _ _
  | keyRotateMemory => exact execKeyRotateMemory_keeps _ _
  | keyRotateLink => exact execKeyRotateLink_keeps _ _ _
  | lifecycleAdvance => exact execLifecycleAdvance_keeps _ _ _
  | fwStage => exact execFwStage_keeps _ _ _ _ _ _ _
  | fwVerify => exact execFwVerify_keeps _ _
  | fwActivate => exact execFwActivate_keeps _ _ _ _
  | selftestReport => exact execSelftestReport_keeps _ _ _
  | debugUnlock => exact execDebugUnlock_keeps _ _ _
  | tidePreset => exact execTidePreset_keeps _ _ _ _
  | linkConfig => exact execLinkConfig_keeps _ _ _ _ _
  | linkStatus => exact execLinkStatus_keeps _ _ _
  | sluiceEnable => exact execSluiceEnable_keeps _ _ _ _
  | sluiceDisable => exact execSluiceDisable_keeps _ _ _ _
  | doorbell => exact execDoorbell_keeps _ _ _ _
  | cplOnly => exact execCplOnly_keeps _ _ _ _
  | ringFaultClear => exact execRingFaultClear_keeps _ _ _ _
  | tideNowLoRead => exact execTideNowLoRead_keeps _ _ _
  | rearm => exact execRearm_keeps _ _
  | modCtrClr => exact execModCtrClr_keeps _ _
  | vfCtrClr => exact execVfCtrClr_keeps _ _ _
  | arbClrClear => exact execArbClrClear_keeps _ _
  | arbClrClearAll => exact execArbClrClearAll_keeps _ _
  | scrClr => exact execScrClr_keeps _ _ _
  | dormantRequest => exact execDormantRequest_keeps _
  | dormantWakeWrite => exact execDormantWakeWrite_keeps _
  | holdSet => exact execHoldSet_keeps _ _
  | holdRelease => exact execHoldRelease_keeps _ _
  | registerWrite => exact execRegisterWrite_keeps _ _ _ _ _
  | interruptClaim => exact execInterruptClaim_keeps _ _ _
  | endOfInterrupt => exact execEndOfInterrupt_keeps _ _ _
  | msixUnmask => exact execMsixUnmask_keeps _ _ _
  | busMasterEnable => exact execBusMasterEnable_keeps _ _
  | numVfsEnable => exact execNumVfsEnable_keeps _ _
  | pcieConventionalReset => exact execPcieConventionalReset_keeps _
  | pf0FunctionLevelReset => exact execPf0FunctionLevelReset_keeps _ _
  | vfFunctionLevelReset => exact execVfFunctionLevelReset_keeps _ _
  | ringBusError => exact execRingBusError_keeps _ _ _
  | presenceHoldTimeout => exact execPresenceHoldTimeout_keeps _
  | presenceDeassert => exact execPresenceDeassert_keeps _
  | buttonStuck => exact execButtonStuck_keeps _
  | wipeDone => exact execWipeDone_keeps _ _
  | mateSenseOpen => exact execMateSenseOpen_keeps _ _
  | aonPowerOn => exact execAonPowerOn_keeps _ _ _
  | auxWarn => exact execAuxWarn_keeps _ _ _
  | auxWarnEnd => exact execAuxWarnEnd_keeps _ _ _
  | auxOff => exact execAuxOff_keeps _ _
  | auxRise => exact execAuxRise_keeps _ _ _
  | sagWarn => exact execSagWarn_keeps _ _
  | sagWarnEnd => exact execSagWarnEnd_keeps _ _
  | trip48 => exact execTrip48_keeps _ _
  | brakeAssert => exact execBrakeAssert_keeps _
  | brakeRelease => exact execBrakeRelease_keeps _
  | coolantSample => exact execCoolantSample_keeps _ _ _ _ _
  | flowWarning => exact execFlowWarning_keeps _
  | flowWarningEnd => exact execFlowWarningEnd_keeps _
  | flowBShed => exact execFlowBShed_keeps _
  | flowBShedEnd => exact execFlowBShedEnd_keeps _
  | coolantStop => exact execCoolantStop_keeps _
  | coolantStopEnd => exact execCoolantStopEnd_keeps _
  | thermalComparatorTrip => exact execThermalComparatorTrip_keeps _ _ _ _
  | timeAlignFault => exact execTimeAlignFault_keeps _
  | leaseExpiry => exact execLeaseExpiry_keeps _
  | rungClimb => exact execRungClimb_keeps _
  | rungLift => exact execRungLift_keeps _
  | powerModelMismatch => exact execPowerModelMismatch_keeps _
  | sensorSuspect => exact execSensorSuspect_keeps _ _
  | gptpSync => exact execGptpSync_keeps _ _ _ _
  | syncTimeout => exact execSyncTimeout_keeps _
  | clockWatchdogExpiry => exact execClockWatchdogExpiry_keeps _ _
  | judgeWindow => exact execJudgeWindow_keeps _ _ _
  | rejudgeTimer => exact execRejudgeTimer_keeps _ _
  | controlCoreWatchdog => exact execControlCoreWatchdog_keeps _ _ _
  | inputArrival => exact execInputArrival_keeps _ _
  | arithCheck => exact execArithCheck_keeps _ _ _ _ _ _ _
  | correctableError => exact execCorrectableError_keeps _ _ _ _
  | arbiterStarvation => exact execArbiterStarvation_keeps _ _ _
  | scrubPending => exact execScrubPending_keeps _ _ _ _
  | selftestSliceEnd => exact execSelftestSliceEnd_keeps _ _ _ _ _ _
  | slicePreempt => exact execSlicePreempt_keeps _ _ _
  | promotionCopyDone => exact execPromotionCopyDone_keeps _ _
  | resultReady => exact execResultReady_keeps _ _ _ _ _
  | voteFrame => exact execVoteFrame_keeps _ _ _
  | voteCutoff => exact execVoteCutoff_keeps _ _
  | verdict => exact execVerdict_keeps _ _ _
  | segmentSent => exact execSegmentSent_keeps _ _ _
  | wardenTideMark => exact execWardenTideMark_keeps _ _ _ _ _
  | tideMarkMissing => exact execTideMarkMissing_keeps _ _
  | fallbackPointRelease => exact execFallbackPointRelease_keeps _ _
  | wardenBootDone => exact execWardenBootDone_keeps _ _ _
  | wardenLockstepMismatch => exact execWardenLockstepMismatch_keeps _ _
  | codecSliceDone => exact execCodecSliceDone_keeps _ _ _ _ _
  | codecCore => exact execCodecCore_keeps _ _
  | dormantEntryDone => exact execDormantEntryDone_keeps _
  | dormantWake => exact execDormantWake_keeps _
  | wardenTrialBoot => exact execWardenTrialBoot_keeps _ _ _
  | cableDetect => exact execCableDetect_keeps _ _ _
  | trainingTimeout => exact execTrainingTimeout_keeps _ _
  | laneFailure => exact execLaneFailure_keeps _ _ _
  | portDown => exact execPortDown_keeps _ _
  | authFrame => exact execAuthFrame_keeps _ _
  | authRetry => exact execAuthRetry_keeps _ _
  | dataFrame => exact execDataFrame_keeps _ _
  | controlFrame => exact execControlFrame_keeps _ _
  | peerFailed => exact execPeerFailed_keeps _ _
  | codewordUncorrectable => exact execCodewordUncorrectable_keeps _ _
  | keySwitchTimeout => exact execKeySwitchTimeout_keeps _ _
  | attestSigned => exact execAttestSigned_keeps _ _
  | breachLogFlush => exact execBreachLogFlush_keeps _
  | getMeasurements => exact execGetMeasurements_keeps _ _ _
  | ideKm => exact execIdeKm_keeps _ _ _
  | lockInterfaceRequest => exact execLockInterfaceRequest_keeps _ _
  | getDeviceInterfaceReport => exact execGetDeviceInterfaceReport_keeps _ _
  | stopInterfaceRequest => exact execStopInterfaceRequest_keeps _ _
  | ideIntegrityFailure => exact execIdeIntegrityFailure_keeps _ _
  | spdmSessionEnd => exact execSpdmSessionEnd_keeps _ _
  | readVin => exact execReadVin_keeps _ _
  | readIin => exact execReadIin_keeps _ _
  | readTemperature1 => exact execReadTemperature1_keeps _ _
  | readTemperature2 => exact execReadTemperature2_keeps _ _
  | readPin => exact execReadPin_keeps _ _
  | tapInstruction => exact execTapInstruction_keeps _ _
  | dbgSelect => exact execDbgSelect_keeps _ _ _
  | dbgHalt => exact execDbgHalt_keeps _ _
  | dbgResume => exact execDbgResume_keeps _ _
  | dbgStep => exact execDbgStep_keeps _ _ _
  | dbgBreakSet => exact execDbgBreakSet_keeps _ _ _ _
  | dbgBreakClear => exact execDbgBreakClear_keeps _ _ _
  | dbgSetAddr => exact execDbgSetAddr_keeps _ _ _ _
  | dbgRead => exact execDbgRead_keeps _ _
  | dbgStatus => exact execDbgStatus_keeps _ _
  | breakpointHit => exact execBreakpointHit_keeps _ _ _ _ _
  | edgeBand => exact execEdgeBand_keeps _
  | codecPictureDone => exact execCodecPictureDone_keeps _ _ _ _ _ _ _
  | trainingStepDone => exact execTrainingStepDone_keeps _ _
  | hopAcknowledgement => exact execHopAcknowledgement_keeps _ _ _
  | lossOfSignal => exact execLossOfSignal_keeps _ _
  | signalReturn => exact execSignalReturn_keeps _ _
  | buttonRelease => exact execButtonRelease_keeps _
  | coalescingTimer => exact execCoalescingTimer_keeps _ _ _
  | ihTgtThrWrite => exact execIhTgtThrWrite_keeps _ _ _ _
  | hostLinkDown => exact execHostLinkDown_keeps _
  | keyExchange => exact execKeyExchange_keeps _ _
  | challenge => exact execChallenge_keeps _ _ _
  | startInterfaceRequest => exact execStartInterfaceRequest_keeps _ _
  | fwStageDone => exact execFwStageDone_keeps _
  | fwVerifyDone => exact execFwVerifyDone_keeps _
  | tideEdge | quantumEnd | scratchpadAccess | dbgWrite | scrubDone |
    admissionDecision | kvCopyDone | keySweepDone | uncorrectable | sealBreak |
    glitchDetect | presenceAssert | clockMonitorFlag | switch48vClose | supplyRestart | coolantRestart => cases hc

/-- Every command keeps the queue, takes no fuse back, and leaves canonical memory canonical. -/
theorem exec_tame (c : Instr) (s : State) : TameOut s (exec c s) := by
  cases hc : writesCells c with
  | false => exact (exec_keeps hc s).tame
  | true =>
    cases c with
    | presenceAssert => exact execPresenceAssert_tame _
    | sealBreak => exact execSealBreak_tame _
    | glitchDetect => exact execGlitchDetect_tame _ _
    | switch48vClose => exact execSwitch48vClose_tame _ _
    | supplyRestart => exact execSupplyRestart_tame _ _
    | coolantRestart => exact execCoolantRestart_tame _ _
    | tideEdge => exact execTideEdge_tame _ _
    | clockMonitorFlag => exact execClockMonitorFlag_tame _ _ _
    | uncorrectable => exact execUncorrectable_tame _ _ _ _ _ _ _ _
    | scratchpadAccess => exact execScratchpadAccess_tame _ _ _
    | scrubDone => exact execScrubDone_tame _ _
    | keySweepDone => exact execKeySweepDone_tame _ _
    | kvCopyDone => exact execKvCopyDone_tame _ _ _ _ _
    | dbgWrite => exact execDbgWrite_tame _ _ _
    | admissionDecision => exact execAdmissionDecision_tame _ _
    | quantumEnd => exact execQuantumEnd_tame _ _
    | _ => cases hc

/-! ## The queue and the machine -/

/-- Settles O1: the dispatch of a step on a queue that is not empty. -/
theorem stepRunsFront : Obligations.StepRunsFront := fun _ _ _ => rfl

theorem step_of_empty {s : State} (h : s.pending = []) : step s = .next s := by
  simp [step, h]

theorem step_of_cons {s : State} {c : Instr} {r : List Instr} (h : s.pending = c :: r) :
    step s = exec c { s with pending := r } := by
  simp [step, h]

/-- Settles O2: no command changes the queue of those that wait. -/
theorem stepTakesOne : Obligations.StepTakesOne := by
  intro s
  refine ⟨step_of_empty, fun t ht => ?_⟩
  cases hp : s.pending with
  | nil =>
    rw [step_of_empty hp] at ht
    cases ht
    simpa using hp
  | cons c r =>
    rw [step_of_cons hp] at ht
    exact (exec_tame c _ t ht).1

/-- Settles O3: each meaning is `.next` of a state, whatever tests it makes on the way. -/
theorem everyCommandAnswers : Obligations.EveryCommandAnswers := by
  intro c s
  cases c <;> exact ⟨_, rfl⟩

/-! ## Fuses and byte memory -/

/-- A step keeps the fuses and byte memory as a command does: taking the front of the queue touches neither. -/
theorem step_tame {s t : State} (h : step s = .next t) :
    ∃ u, fuses u = (u.pending, (fuses s).2) ∧ u.mem = s.mem ∧ Tame (kept u) (kept t) := by
  cases hp : s.pending with
  | nil =>
    rw [step_of_empty hp] at h
    cases h
    exact ⟨s, rfl, rfl, Tame.refl _⟩
  | cons c r =>
    rw [step_of_cons hp] at h
    exact ⟨{ s with pending := r }, rfl, rfl, exec_tame c _ t h⟩

/-- Settles O4: each command writes byte memory through writes that keep its form. -/
theorem memoryCanonicalKept : Obligations.MemoryCanonicalKept := by
  intro s t hs ht
  obtain ⟨u, -, hm, -, -, -, -, -, -, hw⟩ := step_tame ht
  exact hw (by rw [show (kept u).2 = s.mem.cells by rw [← hm]; rfl]; exact hs)

/-- Settles O5: the memory of the reset state holds no byte but blank ones. -/
theorem memoryCanonicalAtReset : Obligations.MemoryCanonicalAtReset := memWf_nil

/-- Settles O6: no command takes a fuse or the life cycle back. -/
theorem fusesOnlyAdvance : Obligations.FusesOnlyAdvance := by
  intro s t ht
  obtain ⟨u, hu, -, -, hl, hd, hs, hg, ha, -⟩ := step_tame ht
  simp only [fuses, Prod.mk.injEq] at hu
  obtain ⟨-, el, ed, es, eg, ea⟩ := hu
  simp only [kept, fuses, el, ed, es, eg, ea] at hl hd hs hg ha
  exact ⟨hl, hd, hs, hg, ha⟩

/-- Settles O7, by induction on the number of steps. -/
theorem decommissionedForGood : Obligations.DecommissionedForGood := by
  intro n run hrun h0
  induction n with
  | zero => exact h0
  | succ n ih =>
    have hn := ih fun k hk => hrun k (by omega)
    obtain ⟨hl, -⟩ := fusesOnlyAdvance _ _ (hrun n (by omega))
    rcases hl with hl | ⟨-, hl⟩
    · rw [hl, hn]
    · exact absurd hn hl

/-- Settles O9: the frame of the commands that store nothing. -/
theorem fewCommandsStore : Obligations.FewCommandsStore := by
  intro c s t hc ht
  have hk := exec_keeps hc s t ht
  simp only [kept, fuses, Prod.mk.injEq] at hk
  obtain ⟨⟨-, hl, hd, hs, hg, ha⟩, hm⟩ := hk
  exact ⟨hm, hl, hd, hs, hg, ha⟩

end Sys2Proof.Proofs
end

section
/-! Byte memory (R167, R168): the line of SRAM that a write goes to. -/

namespace Sys2Proof.Proofs
open Sys2Proof Sys2Proof.Machine Sys2Proof.Safety Sys2Proof.Laws

/-- The bytes of memory once the line of an address is open for a write: a line that nothing has written is blank. -/
def openLine (s : State) (a : Nat) : List Host.Cell :=
  if (tget s.mem.written (a / 64)).isSome then s.mem.cells else clearRange s.mem.cells (64 * (a / 64)) (64 * (a / 64) + 64)

theorem openLine_canonical {s : State} (a : Nat) (hs : MemoryCanonical s) : memWf (openLine s a) = true := by
  unfold openLine
  split
  · exact hs
  · exact memWf_clearRange _ _ _ hs

/-- An open line reads as SRAM does, whether or not it was written. -/
theorem readByte_openLine_in {s : State} {a y : Nat} (h : y / 64 = a / 64) : readByte (openLine s a) y = sramRead s y := by
  unfold openLine sramRead
  rw [h]
  split
  · rfl
  · rw [readByte_clearRange, if_pos (by omega)]; rfl

theorem readByte_openLine_out {s : State} {a y : Nat} (h : y / 64 ≠ a / 64) :
    readByte (openLine s a) y = readByte s.mem.cells y := by
  unfold openLine
  split
  · rfl
  · rw [readByte_clearRange, if_neg (by omega)]

theorem sramRead_of_unwritten {s : State} {a : Nat} (h : tget s.mem.written (a / 64) = none) : sramRead s a = 0 := by
  simp [sramRead, h]

section
variable {holder a : Nat} {bs : List Byte} {s : State}

theorem sramWrite_written : tget (sramWrite holder a bs s).mem.written (a / 64) = some holder := by
  simp [sramWrite]

theorem sramWrite_cells (h : a % 64 + bs.length ≤ 64) :
    (sramWrite holder a bs s).mem.cells = writeBytes (openLine s a) a bs := by
  have hlen : bs.length ≤ 64 * (a / 64) + 64 - a := by omega
  simp only [sramWrite, List.take_of_length_le hlen, openLine]

theorem sramRead_sramWrite (h : a % 64 + bs.length ≤ 64) {y : Nat} (hy : y / 64 = a / 64) :
    sramRead (sramWrite holder a bs s) y = readByte (writeBytes (openLine s a) a bs) y := by
  rw [← sramWrite_cells h (holder := holder), sramRead, hy, sramWrite_written]; rfl

end

/-- Settles O8: a write goes to the open line, which reads as SRAM did. -/
theorem linesZeroUntilWritten : Obligations.LinesZeroUntilWritten := by
  refine ⟨fun m a bs hm => ⟨readBytes_writeBytes m a bs hm, fun y hy => readByte_writeBytes_other m a y bs hy⟩, ?_⟩
  intro holder a bs s hs hfit
  refine ⟨sramRead_of_unwritten, fun y hlo hhi hout => ?_, sramWrite_written, fun k hk => ?_, fun y hy => ?_⟩
  · have hline : y / 64 = a / 64 := by omega
    rw [sramRead_sramWrite hfit hline, readByte_writeBytes_other _ _ _ _ hout, readByte_openLine_in hline]
  · rw [sramRead_sramWrite hfit (by omega), readByte_writeBytes_in _ _ _ (openLine_canonical a hs) k hk]
  · rw [sramWrite_cells hfit, readByte_writeBytes_other _ _ _ _ (by omega), readByte_openLine_out hy]

end Sys2Proof.Proofs
end

section
/-! Sluice commands (R104 to R118, R126): the completion record, what arrival answers, and the reports into a host buffer. -/

namespace Sys2Proof.Proofs
open Sys2Proof Sys2Proof.Machine Sys2Proof.Safety Sys2Proof.Laws

/-! ## The completion record -/

theorem finish_of_writable {h : Hdr} {st : Status} {r : Reason} {payload : List Byte} {s : State}
    (w : Writable h.fn h.sluice h.seq s) :
    finish h st r payload s = writeRecord h.fn h.sluice (completion s h st true r payload) s := by
  obtain ⟨hgather, hturn, hring, hbounce, hheld, hbus, -⟩ := w
  have hturn' : outOfTurn s (getSluice s h.fn h.sluice) (completion s h st true r payload).seq = false := hturn
  simp [finish, post, postWith, postNow, hgather, hturn', hring, hbounce, hheld, hbus]

/-- Settles O12: the record is written at once, and no vector is raised. -/
theorem completionTakesNextSlot : Obligations.CompletionTakesNextSlot := by
  intro h st r payload s w
  rw [finish_of_writable w]
  simp only [writeRecord, w.quiet, Bool.false_eq_true, if_false]
  rfl

/-! ## Presence-gated and tide-launched commands -/

/-- Settles O14: the general answer to an arrival fault, for a command whose other checks hold. -/
theorem arrivalFaultEnds : Obligations.ArrivalFaultEnds :=
  fun _ _ _ _ _ _ hh hi hf hs ha hd hr => exec_of_arrivalFault hh hi hf hs ha hd hr

/-- A gated command that passes its checks without presence is refused or held. -/
theorem admitFetched_absent {c : Instr} {i : OpInfo} {h : Hdr} {f : State → State} {s : State} (hg : i.gated = true)
    (hc : arrivalFault s c i h = none) (ho : ownResetting s i h = false) (hp : s.aon.presence = false) :
    admitFetched c i h f s =
      if s.aon.held.isSome then finish h .notPermitted .presenceBusy [] s
      else if h.nowait then finish h .presenceRequired .presenceTimeout [] s
      else holdForPresence c h s := by
  simp [admitFetched, hc, ho, hg, hp]

/-- Settles O15: PRESENCE_BUSY is decided before NOWAIT, and else the command is held. -/
theorem presenceHolds : Obligations.PresenceHolds := by
  intro c h i s hh hi hg hf hs ha hd hc ho hp
  rw [exec_of_inOrder hh hi hf hs ha hd, admitFetched_absent hg hc ho hp]
  refine ⟨fun o hheld => by simp [hheld], fun hheld hn => by simp [hheld, hn], fun hheld hn => ?_⟩
  simp [hheld, hn, holdForPresence]
  rfl

/-- Settles O16: what arrival leaves is the acceptance, and the entry in the queue. -/
theorem tideLaunchedQueued : Obligations.TideLaunchedQueued := by
  intro c h i s hi ha hc
  rw [exec_fetched s hc.header, fetch_arrives hi hc, ha]
  have htide : (accept h (taken c h s)).tide = s.tide := (post_tide_flash _ _ _ _).1
  have hflash : (accept h (taken c h s)).flash = s.flash := (post_tide_flash _ _ _ _).2
  simp only [Bool.false_eq_true, if_false, queueTide, dueIx, tagOf, htide, hflash, tnDistance, tnOf, Nat.mod_mod]

/-! ## Reports into a host buffer -/

/-- A command applied on arrival has its effect once its SEQ is marked and its bounce record accepted. -/
theorem exec_onArrival {c : Instr} {h : Hdr} {i : OpInfo} {s : State} (hi : opInfo c = some i) (ha : i.arrival = true)
    (hc : Arrives c h s) : exec c s = .next (onArrival c (applying c h s)) := by
  rw [exec_fetched s hc.header, fetch_arrives hi hc, ha]
  rfl

theorem report_ok {h : Hdr} {buf : Buf} {bytes payload : List Byte} {s : State} (hb : bytes ≠ []) (hf : buf.fault = false) :
    report h buf bytes payload s = finish h .ok .none payload (hostWrite h.fn buf.addr bytes s) := by
  simp [report, hb, hf]

@[simp] theorem applying_nextIndex (c : Instr) (h : Hdr) (s : State) :
    (applying c h s).safety.nextIndex = s.safety.nextIndex := by
  obtain ⟨X, e⟩ := applying_eq c h s
  rw [e]

theorem telemetry_length (s : State) : (telemetry s).length = 648 := by
  simp [telemetry, telemetryHeader, hotspotEntry, List.length_flatMap]

theorem breachBytes_length (pf0 : Bool) (b : Breach) : (breachBytes pf0 b).length = 32 := by
  simp [breachBytes]

theorem itemEntry_length (s : State) (item stack tile : Nat) (rs : List ItemResult) :
    (itemEntry s item stack tile rs).length = 8 := by
  simp [itemEntry]

theorem selftestBytes_length (s : State) : (selftestBytes s).length = 32 + 8 * (selftestRows s).length := by
  simp [selftestBytes, List.length_flatMap, itemEntry_length, Nat.mul_comm]

/-- A report of a positive length is not empty. -/
theorem ne_nil_of_length {bs : List Byte} {n : Nat} (h : bs.length = n) (hn : n ≠ 0) : bs ≠ [] := by
  rintro rfl
  exact hn h.symm

/-- Settles O18: each report is made on arrival, and is not empty. -/
theorem bufferReportsComplete : Obligations.BufferReportsComplete := by
  intro h buf s hf
  refine ⟨fun hlen hc => ?_, fun first b rest hlen hr hc => ?_, fun hlen hc => ?_⟩
  · rw [exec_onArrival rfl rfl hc]
    simp only [onArrival, arriveGetTelemetry, if_neg (show ¬ buf.len = 0 by omega), if_neg (show ¬ buf.len < 648 by omega)]
    rw [report_ok (ne_nil_of_length (telemetry_length _) (by decide)) hf]
  · have hpos : 0 < buf.len / 32 := by omega
    have hne : ((b :: rest).take (buf.len / 32)).flatMap (breachBytes (isPf0 h.fn)) ≠ [] := by
      obtain ⟨n, hn⟩ := Nat.exists_eq_succ_of_ne_zero (Nat.ne_of_gt hpos)
      rw [hn, List.take_succ_cons, List.flatMap_cons]
      exact List.append_ne_nil_of_left_ne_nil (ne_nil_of_length (breachBytes_length _ _) (by decide)) _
    rw [exec_onArrival rfl rfl hc]
    simp only [onArrival, arriveBreachLogRead, hr]
    rw [applying_nextIndex]
    exact congrArg Host.Outcome.next (report_ok hne hf)
  · rw [exec_onArrival rfl rfl hc]
    simp only [onArrival, arriveSelftestReport, if_neg (Nat.not_lt.mpr hlen)]
    rw [report_ok (ne_nil_of_length (selftestBytes_length _) (by omega)) hf]

theorem block_length (k : Nat) (bs : List Byte) : (block k bs).length = 8 + bs.length := by
  simp [block]; omega

theorem polderEntry_length (s : State) (asker : Option Nat) (p : Nat) : (polderEntry s asker p).length = 16 := by
  unfold polderEntry
  split <;> simp

theorem measurementBlocks_length (s : State) (fn : Fn) :
    (measurementBlocks s fn).length = 56 + 128 + 400 + 24 + 1032 := by
  simp [measurementBlocks, block_length, identityBlock, fingerprintBlock, firmwareBlock, stateBlock, List.length_flatMap,
    polderEntry_length]

/-- Settles O19: the lengths of the parts add up. -/
theorem reportLengths : Obligations.ReportLengths := by
  intro s fn nonce pf0 b
  refine ⟨telemetry_length s, ?_, breachBytes_length pf0 b, selftestBytes_length s⟩
  simp [attestReport, measurementBlocks_length]

end Sys2Proof.Proofs
end

section
/-! The sluice registers (R102 to R107, R436): the configuration word, the doorbells and the ring fault. -/

namespace Sys2Proof.Proofs
open Sys2Proof Sys2Proof.Machine Sys2Proof.Safety Sys2Proof.Laws

/-! ## The bits of a configuration word -/

theorem enableWord_bits (v : Word) : (v ||| 1).getLsbD 0 = true ∧ (v ||| 1).getLsbD 8 = v.getLsbD 8 ∧
    (v ||| 1).getLsbD 9 = v.getLsbD 9 := by
  simp

theorem disableWord_bits (v : Word) : (v &&& 0xFFFFFFFE).getLsbD 0 = false ∧ (v &&& 0xFFFFFFFE).getLsbD 8 = v.getLsbD 8 ∧
    (v &&& 0xFFFFFFFE).getLsbD 9 = v.getLsbD 9 := by
  simp

theorem sizeField_and_disable (v : Word) : ((v &&& 0xFFFFFFFE).extractLsb' 4 4).toNat = v.toNat / 16 % 16 := by
  have hv : v.extractLsb' 4 4 = (v &&& 0xFFFFFFFE).extractLsb' 4 4 := by
    ext i hi
    simp only [BitVec.getElem_extractLsb', BitVec.getLsbD_and]
    interval_cases i <;> simp
  rw [← hv, BitVec.extractLsb'_toNat, Nat.shiftRight_eq_div_pow]

/-! ## SLC_CFG -/

section
variable {fn : Fn} {n : Nat} {v : Word} {s : State}

theorem exec_sluiceEnable (hw : writable s fn = true) :
    exec (.sluiceEnable fn n v) s = .next (writeSlcCfg fn n (v ||| 1) s) := by
  show execSluiceEnable fn n v s = _
  simp [execSluiceEnable, hw]

theorem exec_sluiceDisable (hw : writable s fn = true) :
    exec (.sluiceDisable fn n v) s = .next (writeSlcCfg fn n (v &&& 0xFFFFFFFE) s) := by
  show execSluiceDisable fn n v s = _
  simp [execSluiceDisable, hw]

theorem writeSlcCfg_foreign (ho : ownsSluice s fn n = false) : writeSlcCfg fn n v s = s := by
  simp [writeSlcCfg, ho]

theorem writeSlcCfg_running (ho : ownsSluice s fn n = true) (he : (getSluice s fn n).enable = true) :
    writeSlcCfg fn n v s =
      if v.getLsbD 0 || (getSluice s fn n).owed ≠ [] then setSluice s fn n { getSluice s fn n with irqEn := v.getLsbD 9 }
      else setSluice s fn n { getSluice s fn n with irqEn := v.getLsbD 9, enable := false, bounceStopped := false } := by
  simp [writeSlcCfg, ho, he]

/-- A stopped sluice takes the three fields, and starts where ENABLE is 1 and they are permitted. -/
theorem writeSlcCfg_stopped (ho : ownsSluice s fn n = true) (he : (getSluice s fn n).enable = false) {size : Nat} {dev : Bool}
    (hs : size = (if tdiLocked s fn then (getSluice s fn n).sizeLog2 else (v.extractLsb' 4 4).toNat))
    (hd : dev = (if tdiLocked s fn then (getSluice s fn n).devMem else v.getLsbD 8)) :
    writeSlcCfg fn n v s =
      if !v.getLsbD 0 then setSluice s fn n { getSluice s fn n with irqEn := v.getLsbD 9, sizeLog2 := size, devMem := dev }
      else if !(4 ≤ size && size ≤ 12) || (dev && !bounceOk s fn) then setSluice s fn n
        { getSluice s fn n with irqEn := v.getLsbD 9, sizeLog2 := size, devMem := dev, cfgError := true }
      else setSluice s fn n
        { getSluice s fn n with
          irqEn := v.getLsbD 9, sizeLog2 := size, devMem := dev, enable := true, cmdHead := 0, cmdTail := 0,
          cplHead := 0, cplTail := 0, phase := true, prevSeq := none, committedHead := 0, committedSeq := none,
          applied := [], bounceCounter := 0 } := by
  subst hs hd
  simp [writeSlcCfg, ho, he]

end

/-- Settles O21: a write that cannot be made, one to a running sluice, and one to a stopped sluice. -/
theorem sluiceStartsAndStops : Obligations.SluiceStartsAndStops := by
  intro fn n v s
  obtain ⟨e0, e8, e9⟩ := enableWord_bits v
  obtain ⟨d0, d8, d9⟩ := disableWord_bits v
  refine ⟨fun h => ?_, fun hw ho => ?_⟩
  · cases hw : writable s fn with
    | false =>
      exact ⟨by show execSluiceEnable fn n v s = _; simp [execSluiceEnable, hw],
        by show execSluiceDisable fn n v s = _; simp [execSluiceDisable, hw]⟩
    | true =>
      have ho : ownsSluice s fn n = false := by simpa [hw] using h
      rw [exec_sluiceEnable hw, exec_sluiceDisable hw, writeSlcCfg_foreign ho, writeSlcCfg_foreign ho]
      exact ⟨rfl, rfl⟩
  rw [exec_sluiceEnable hw, exec_sluiceDisable hw]
  refine ⟨fun size dev he hs hd => ?_, fun he => ?_⟩
  · rw [writeSlcCfg_stopped (v := v ||| 1) (size := size) (dev := dev) ho he (by rw [sizeField_or_one]; exact hs) (by rw [e8]; exact hd),
      writeSlcCfg_stopped (v := v &&& 0xFFFFFFFE) (size := size) (dev := dev) ho he (by rw [sizeField_and_disable]; exact hs) (by rw [d8]; exact hd),
      e0, e9, d0, d9]
    refine ⟨fun h4 h12 hb => ?_, fun h => ?_, rfl⟩
    · have hfit : (!(decide (4 ≤ size) && decide (size ≤ 12)) || (dev && !bounceOk s fn)) = false := by
        have hbounce : (dev && !bounceOk s fn) = false := by
          cases hdev : dev with
          | false => rfl
          | true => simp [hb hdev]
        simp [h4, h12, hbounce]
      simp only [hfit, Bool.not_true, Bool.false_eq_true, if_false]
    · have hbad : (!(decide (4 ≤ size) && decide (size ≤ 12)) || (dev && !bounceOk s fn)) = true := by
        rcases h with h | h | ⟨h, h'⟩
        · simp [Nat.not_le.mpr h]
        · simp [Nat.not_le.mpr h]
        · simp [h, h']
      simp only [hbad, Bool.not_true, Bool.false_eq_true, if_false, if_true]
  · rw [writeSlcCfg_running ho he, writeSlcCfg_running ho he, e0, e9, d0, d9]
    exact ⟨rfl, fun h => by simp [h], fun h => by simp [h]⟩

/-! ## SLC_DB -/

theorem doorbellWord_bit31 (v : Word) : (v &&& 0x7FFFFFFF).getLsbD 31 = false ∧ (v ||| 0x80000000).getLsbD 31 = true := by
  simp

section
variable {fn : Fn} {n : Nat} {v : Word} {s : State}

theorem writeDoorbell_unreachable (hr : reachable s fn = false) : writeDoorbell fn n v s = s := by
  simp [writeDoorbell, hr]

theorem writeDoorbell_dark (hr : reachable s fn = true) (hd : barDark s = true) :
    writeDoorbell fn n v s = { s with host.latchedDb := s.host.latchedDb ++ [(fn, n, v)] } := by
  simp [writeDoorbell, hr, hd]

theorem writeDoorbell_gone (hr : reachable s fn = true) (hd : barDark s = false) (hg : polderGone s fn = true) :
    writeDoorbell fn n v s = { s with tide.deadDb := sat32 (s.tide.deadDb + 1) } := by
  simp [writeDoorbell, hr, hd, hg]

theorem writeDoorbell_ignored (hr : reachable s fn = true) (hd : barDark s = false) (hg : polderGone s fn = false)
    (h : ownsSluice s fn n = false ∨ (getSluice s fn n).enable = false) : writeDoorbell fn n v s = s := by
  rcases h with h | h <;> simp [writeDoorbell, hr, hd, hg, h]

theorem writeDoorbell_rings (hr : reachable s fn = true) (hd : barDark s = false) (hg : polderGone s fn = false)
    (ho : ownsSluice s fn n = true) (he : (getSluice s fn n).enable = true) :
    writeDoorbell fn n v s = ringDoorbell fn n v s := by
  simp [writeDoorbell, hr, hd, hg, ho, he]

/-- A doorbell with a tail, of the given head and tail. -/
theorem ringDoorbell_both {x : Sluice} (hx : getSluice s fn n = x) :
    ringDoorbell fn n (v &&& 0x7FFFFFFF) s =
      if sluiceSize x ≤ v.toNat / 65536 % 4096 ∨ sluiceSize x ≤ v.toNat % 4096 ∨
          (v.toNat % 4096 + sluiceSize x - x.cmdHead) % sluiceSize x
            < (x.cmdTail + sluiceSize x - x.cmdHead) % sluiceSize x
        then setSluice s fn n { x with dbError := true }
        else wakeEvent (setSluice s fn n { x with cmdTail := v.toNat % 4096, cplHead := v.toNat / 65536 % 4096 }) := by
  subst hx
  simp only [ringDoorbell, (doorbellWord_bit31 v).1, tailField_and, headField_and, Bool.not_false, Bool.true_and, Bool.or_eq_true,
    decide_eq_true_eq, Bool.false_eq_true, if_false]

/-- A doorbell with CPL_ONLY, of the given head. -/
theorem ringDoorbell_only {x : Sluice} (hx : getSluice s fn n = x) :
    ringDoorbell fn n (v ||| 0x80000000) s =
      if sluiceSize x ≤ v.toNat / 65536 % 4096 then setSluice s fn n { x with dbError := true }
        else wakeEvent (setSluice s fn n { x with cplHead := v.toNat / 65536 % 4096 }) := by
  subst hx
  simp only [ringDoorbell, (doorbellWord_bit31 v).2, headField_or, Bool.not_true, Bool.false_and, Bool.or_false,
    decide_eq_true_eq, if_true]

end

theorem wakeEvent_dormant {s : State} (hd : s.startup.dormant = true) :
    wakeEvent s = { s with startup.waking := true, startup.dormantReq := false } := by
  simp [wakeEvent, hd]

theorem wakeEvent_entering {s : State} (hd : s.startup.dormant = false) (he : s.startup.entering = true) :
    wakeEvent s = { s with startup.wakeLater := true, startup.dormantReq := false } := by
  simp [wakeEvent, hd, he]

/-- Settles O22: where a doorbell goes, what it does to the ring it reaches, and the wake that it causes. -/
theorem doorbellMovesRing : Obligations.DoorbellMovesRing := by
  intro fn n v s
  have hdb : exec (.doorbell fn n v) s = .next (writeDoorbell fn n (v &&& 0x7FFFFFFF) s) := rfl
  have hcpl : exec (.cplOnly fn n v) s = .next (writeDoorbell fn n (v ||| 0x80000000) s) := rfl
  rw [hdb, hcpl]
  refine ⟨fun hr => ?_, fun hr hd hg => ⟨fun h => ?_, fun ho he => ?_⟩, fun hr hd => ?_, fun hr hd hg => ?_,
    fun hd he => wakeEvent_awake hd he, fun hd => wakeEvent_dormant hd, fun hd he => wakeEvent_entering hd he⟩
  · simp only [writeDoorbell_unreachable hr, and_self]
  · simp only [writeDoorbell_ignored hr hd hg h, and_self]
  · rw [writeDoorbell_rings hr hd hg ho he, writeDoorbell_rings hr hd hg ho he, ringDoorbell_both rfl, ringDoorbell_only rfl]
    refine ⟨fun hhead htail hdist => ?_, fun h => by rw [if_pos h], fun hhead => ?_, fun hhead => by rw [if_pos hhead]⟩
    · rw [if_neg (by omega)]
    · rw [if_neg (by omega)]
  · simp only [writeDoorbell_dark hr hd, and_self]
  · simp only [writeDoorbell_gone hr hd hg, sat32, and_self]

/-! ## SLC_STAT -/

/-- The value that reaches SLC_STAT: RING_FAULT is written 1, and a bit that hardware sets in the same cycle is written 0. -/
theorem statWord_bits (v same : Word) :
    ((v ||| 0x2000) &&& ~~~(same &&& 0xE000)).getLsbD 13 = !same.getLsbD 13 ∧
    ((v ||| 0x2000) &&& ~~~(same &&& 0xE000)).getLsbD 14 = (v.getLsbD 14 && !same.getLsbD 14) ∧
    ((v ||| 0x2000) &&& ~~~(same &&& 0xE000)).getLsbD 15 = (v.getLsbD 15 && !same.getLsbD 15) := by
  simp

section
variable {fn : Fn} {n : Nat} {s : State}

theorem flushHeld_blocked
    (h : (getSluice s fn n).ringFault = true ∨ (getSluice s fn n).bounceStopped = true ∨ busOk s fn = false) :
    flushHeld fn n s = s := by
  rcases h with h | h | h <;> simp [flushHeld, h]

theorem flushHeld_open {x : Sluice} (hr : x.ringFault = false) (hb : x.bounceStopped = false) (hu : busOk s fn = true) :
    flushHeld fn n (setSluice s fn n x) = (x.heldCpl.foldl (fun l c => insertHeld x c l) []).foldl
      (fun st c => writeRecord fn n (stampTide s c) st) (setSluice s fn n { x with heldCpl := [] }) := by
  have hu' : busOk (setSluice s fn n x) fn = true := hu
  simp only [flushHeld, getSluice_setSluice, setSluice_setSluice, hr, hb, hu', Bool.or_self, Bool.not_true, Bool.false_eq_true,
    if_false, stampTide, setSluice_tide]

/-- The order of held completions reads the commands that the sluice owes an answer, and how many it fetched. -/
theorem insertHeld_congr {x y : Sluice} (ho : x.owed = y.owed) (hf : x.fetches = y.fetches) (c : Completion)
    (l : List Completion) : insertHeld x c l = insertHeld y c l := by
  have hno : commandNo x = commandNo y := by
    funext q
    rw [commandNo, commandNo, ho, hf]
  induction l with
  | nil => rfl
  | cons d l ih => rw [insertHeld, insertHeld, hno, ih]

end

@[simp] theorem busOk_setSluice (s : State) (fn g : Fn) (n : Nat) (x : Sluice) : busOk (setSluice s fn n x) g = busOk s g := rfl

/-- A sluice once SLC_STAT is written for a ring fault: the named error bits that are not set in the same cycle go. -/
def statWritten (v same : Word) (x : Sluice) : Sluice :=
  { x with
    ringFault := x.ringFault && same.getLsbD 13
    dbError := x.dbError && !(v.getLsbD 14 && !same.getLsbD 14)
    cfgError := x.cfgError && !(v.getLsbD 15 && !same.getLsbD 15) }

theorem exec_ringFaultClear {fn : Fn} {n : Nat} {v same : Word} {s : State} (hw : writable s fn = true)
    (ho : ownsSluice s fn n = true) : exec (.ringFaultClear fn n ⟨v, same⟩) s =
      .next (flushHeld fn n (setSluice s fn n (statWritten v same (getSluice s fn n)))) := by
  obtain ⟨h13, h14, h15⟩ := statWord_bits v same
  show execRingFaultClear fn n ⟨v, same⟩ s = _
  simp only [execRingFaultClear, hw, if_true, writeSlcStat, ho, Bool.not_true, Bool.false_eq_true, if_false, h13, h14, h15,
    Bool.not_not, statWritten]

/-- Settles O23: the fault comes with a bus error, and its clearing lets the held completions out. -/
theorem ringFaultSetAndCleared : Obligations.RingFaultSetAndCleared := by
  intro fn n v same s ho
  refine ⟨fun he => ?_, fun he => ?_, fun hw => ?_, fun hw => ?_⟩
  · show execRingBusError fn n s = _
    simp [execRingBusError, ho, he]
  · show execRingBusError fn n s = _
    simp [execRingBusError, ho, he]
  · show execRingFaultClear fn n ⟨v, same⟩ s = _
    simp [execRingFaultClear, hw]
  rw [exec_ringFaultClear hw ho]
  refine ⟨fun h => ?_, fun hr hb hu => ?_⟩
  · rw [flushHeld_blocked]
    · rfl
    · rw [getSluice_setSluice, busOk_setSluice]
      rcases h with ⟨h, h'⟩ | h | h
      · exact .inl (by simp [statWritten, h, h'])
      · exact .inr (.inl h)
      · exact .inr (.inr h)
  · rw [flushHeld_open (x := statWritten v same (getSluice s fn n)) hr hb hu]
    simp only [statWritten, hr]
    congr 3
    funext l c
    refine insertHeld_congr ?_ ?_ c l <;> rfl

end Sys2Proof.Proofs
end

section
/-! Writes of the register map (R7 to R11, R194, R399, R402, R429, R467 to R475). -/

namespace Sys2Proof.Proofs
open Sys2Proof Sys2Proof.Machine Sys2Proof.Safety Sys2Proof.Laws

/-! ## Where a register write goes -/

section
variable {fn : Fn} {off : Nat} {v same : Word} {s : State}

theorem exec_registerWrite : exec (.registerWrite fn off 4 ⟨v, same⟩) s =
    .next (writeRegister fn off (v &&& ~~~(same &&& w1cMask fn off)) s) := by
  show execRegisterWrite fn off 4 ⟨v, same⟩ s = _
  simp [execRegisterWrite]

theorem writeRegister_unaligned (h : off % 4 ≠ 0) : writeRegister fn off v s = s := by
  simp [writeRegister, h]

theorem writeRegister_unwritable (hw : writable s fn = false) (hd : isDoorbell off = false) : writeRegister fn off v s = s := by
  simp [writeRegister, hw, hd]

theorem writeRegister_global (hp : isPf0 fn = true) (hw : writable s fn = true) (ha : off % 4 = 0) (hd : isDoorbell off = false) :
    writeRegister fn off v s = writeGlobal fn off v s := by
  cases fn with
  | vf p => cases hp
  | pf0 | pf0b => simp [writeRegister, hw, ha, hd]

theorem writeRegister_polder {p : Nat} (hw : writable s (.vf p) = true) (ha : off % 4 = 0) (hd : isDoorbell off = false) :
    writeRegister (.vf p) off v s = writePolder p off v s := by
  simp [writeRegister, hw, ha, hd]

/-- A write to a register without W1C bits reaches the global block as it is. -/
theorem exec_registerWrite_global (hp : isPf0 fn = true) (hw : writable s fn = true) (ha : off % 4 = 0)
    (hd : isDoorbell off = false) (hm : w1cMask fn off = 0) :
    exec (.registerWrite fn off 4 ⟨v, same⟩) s = .next (writeGlobal fn off v s) := by
  have hv : v &&& ~~~(same &&& 0) = v := by
    show v &&& ~~~(same &&& 0#32) = v
    rw [BitVec.and_zero, BitVec.not_zero, BitVec.and_allOnes]
  rw [exec_registerWrite, writeRegister_global hp hw ha hd, hm, hv]

theorem exec_thresholdWrite_global (hp : isPf0 fn = true) (hw : writable s fn = true) (ha : off % 4 = 0)
    (hd : isDoorbell off = false) : exec (.ihTgtThrWrite fn off v) s = .next (writeGlobal fn off v s) := by
  show execIhTgtThrWrite fn off v s = _
  rw [execIhTgtThrWrite, writeRegister_global hp hw ha hd]

/-! ## The registers of the global block -/

theorem writeGlobal_ihSel : writeGlobal fn 0x3000 v s =
    { s with host.ihSource := v.toNat % 2048, host.ihHub := v.toNat / 2048 % 2 } := by
  simp [writeGlobal]

theorem writeGlobal_thermSel : writeGlobal fn 0x7000 v s = { s with power.thermSel := v.toNat % 256 } := by
  simp [writeGlobal]

theorem writeGlobal_sag : writeGlobal fn 0x38 v s = writeSag v s := by
  simp [writeGlobal]

theorem writeGlobal_arbSel : writeGlobal fn 0x4000 v s =
    { s with mem.arbInstance := v.toNat % 2048, mem.arbInput := v.toNat / 4096 % 16 } := by
  simp [writeGlobal, writeArb]

theorem writeGlobal_arbThr (h : s.mem.arbInstance ≤ 1057) : writeGlobal fn 0x4004 v s =
    setArbiter s s.mem.arbInstance { getArbiter s s.mem.arbInstance with threshold := max 64 (v.toNat % 65536) } := by
  simp [writeGlobal, writeArb, Nat.not_lt.mpr h]

theorem writeGlobal_scrRotate {io : Nat} (h : io < 2) : writeGlobal fn (0x5000 + 256 * io) v s =
    setScr s io { getScr s io with rotate := BitVec.ofNat 8 (v.toNat % 64) } := by
  simp only [writeGlobal, Bool.and_eq_true, decide_eq_true_eq]
  iterate 12 rw [if_neg (by omega)]
  rw [if_pos (by omega), if_pos (by omega), show (0x5000 + 256 * io - 0x5000) / 256 = io by omega]

theorem writeGlobal_pinFilter {n : Nat} (h : n < 16) : writeGlobal fn (0x3300 + 4 * n) v s = writePinFilter n v s := by
  simp only [writeGlobal, Bool.and_eq_true, decide_eq_true_eq]
  iterate 10 rw [if_neg (by omega)]
  rw [if_pos (by omega), show (0x3300 + 4 * n - 0x3300) / 4 = n by omega]

theorem writeGlobal_threshold {n : Nat} (h : n < 66) : writeGlobal fn (0x3100 + 4 * n) v s = writeThreshold n v s := by
  simp only [writeGlobal, Bool.and_eq_true, decide_eq_true_eq]
  iterate 9 rw [if_neg (by omega)]
  rw [if_pos (by omega), show (0x3100 + 4 * n - 0x3100) / 4 = n by omega]

theorem isDoorbell_of_ge (h : 0x2040 ≤ off) : isDoorbell off = false := by
  simp [isDoorbell, Nat.not_lt.mpr h]

theorem w1cMask_plain (hlo : 0x3000 ≤ off) (hhi : off < 0x8000) (ha : off ≠ 0x4008) (hs : off ≠ 0x6000) : w1cMask fn off = 0 := by
  simp only [w1cMask, Bool.and_eq_true, decide_eq_true_eq]
  rw [if_neg (by omega), if_neg (by omega : ¬ off = 0x38), if_neg ha, if_neg hs,
    if_neg (by omega : ¬ (0x8000 ≤ off ∧ off < 0x8020)), ite_self]

/-- The write of a register between the doorbells and the Levee ports that has no W1C bits. -/
theorem exec_registerWrite_plain (hp : isPf0 fn = true) (hw : writable s fn = true) (hlo : 0x3000 ≤ off) (hhi : off < 0x8000)
    (ha : off % 4 = 0) (hf : off ≠ 0x4008) (hs : off ≠ 0x6000) :
    exec (.registerWrite fn off 4 ⟨v, same⟩) s = .next (writeGlobal fn off v s) :=
  exec_registerWrite_global hp hw ha (isDoorbell_of_ge (by omega)) (w1cMask_plain hlo hhi hf hs)

theorem w1cMask_sag (hp : isPf0 fn = true) : w1cMask fn 0x38 = 0x66 := by
  simp [w1cMask, hp]

/-- The bits of SAG_STATUS that a write clears: those written 1 that hardware does not set in the same cycle. -/
theorem sagWord_bits : ∀ k ∈ [1, 2, 5, 6], (v &&& ~~~(same &&& 0x66)).getLsbD k = (v.getLsbD k && !same.getLsbD k) := by
  simp

theorem exec_registerWrite_sag (hp : isPf0 fn = true) (hw : writable s fn = true) :
    exec (.registerWrite fn 0x38 4 ⟨v, same⟩) s = .next (writeSag (v &&& ~~~(same &&& 0x66)) s) := by
  rw [exec_registerWrite, w1cMask_sag hp, writeRegister_global hp hw rfl rfl, writeGlobal_sag]

theorem writeThreshold_of_exists {n : Nat} (h : n < 65 ∨ n = 65 ∧ s.host.bifurcated = true) :
    writeThreshold n v s = deliverAll (targetHub n) { s with host.tgtThr := tset s.host.tgtThr n (v.toNat % 16) } := by
  rcases h with h | ⟨h, hb⟩
  · simp [writeThreshold, Nat.ne_of_lt h]
  · simp [writeThreshold, hb]

end

/-- Settles O25: where each write goes, and what the register there takes of it. -/
theorem registerWrites : Obligations.RegisterWrites := by
  intro fn v same s
  refine ⟨fun off size h => ?_, fun off hw hd => ?_, fun hp hw => ?_, fun p hp hw => ?_⟩
  · show execRegisterWrite fn off size ⟨v, same⟩ s = _
    by_cases hz : size = 4
    · rw [execRegisterWrite, if_pos hz, writeRegister_unaligned (h.resolve_left (not_not_intro hz))]
    · rw [execRegisterWrite, if_neg hz]
  · rw [exec_registerWrite, writeRegister_unwritable hw hd]
    refine ⟨rfl, ?_⟩
    show execIhTgtThrWrite fn off v s = _
    rw [execIhTgtThrWrite, writeRegister_unwritable hw hd]
  · refine ⟨?_, ?_, ?_, ?_, fun h => ?_, fun io h => ?_, ?_, fun n h1 h => ?_, fun n h => ?_, fun hb => ?_⟩
    · rw [exec_registerWrite_plain hp hw (by omega) (by omega) rfl (by omega) (by omega), writeGlobal_ihSel]
    · rw [exec_registerWrite_plain hp hw (by omega) (by omega) rfl (by omega) (by omega), writeGlobal_thermSel]
    · have hbit := sagWord_bits (v := v) (same := same)
      rw [exec_registerWrite_sag hp hw]
      simp only [writeSag, hbit 1 (by decide), hbit 2 (by decide), hbit 5 (by decide), hbit 6 (by decide)]
    · rw [exec_registerWrite_plain hp hw (by omega) (by omega) rfl (by omega) (by omega), writeGlobal_arbSel]
    · rw [exec_registerWrite_plain hp hw (by omega) (by omega) rfl (by omega) (by omega), writeGlobal_arbThr h]
    · rw [exec_registerWrite_plain hp hw (by omega) (by omega) (by omega) (by omega) (by omega), writeGlobal_scrRotate h]
    · rw [exec_registerWrite_plain hp hw (by omega) (by omega) rfl (by omega) (by omega),
        writeGlobal_pinFilter (n := 0) (by omega)]
      rfl
    · rw [exec_registerWrite_plain hp hw (by omega) (by omega) (by omega) (by omega) (by omega), writeGlobal_pinFilter h,
        writePinFilter, if_neg (by omega)]
    · rw [exec_thresholdWrite_global hp hw (by omega) (isDoorbell_of_ge (by omega)), writeGlobal_threshold (by omega),
        writeThreshold_of_exists h]
    · rw [exec_thresholdWrite_global hp hw rfl rfl, writeGlobal_threshold (n := 65) (by omega)]
      simp [writeThreshold, hb]
  · show execIhTgtThrWrite (.vf p) 0x200 v s = _
    rw [execIhTgtThrWrite, writeRegister_polder hw rfl rfl]
    show Host.Outcome.next (writeThreshold p v s) = _
    rw [writeThreshold_of_exists (.inl (by omega)), targetHub, if_pos hp]

/-! ## The clearing writes -/

/-- CLEAR_ALL of ARB_CLR, and REARM of SEAL_STATUS, are bit 1. -/
theorem orTwo_bit (v : Word) : (v ||| 2).getLsbD 1 = true := by
  simp

theorem orOne_bits (v : Word) : (v ||| 1).getLsbD 0 = true ∧ (v ||| 1).getLsbD 1 = v.getLsbD 1 := by
  simp

section
variable {v : Word} {s : State}

theorem writeArbClr_beyond (h : 1057 < s.mem.arbInstance) : writeArbClr v s = s := by
  simp [writeArbClr, h]

theorem writeArbClr_all (h : s.mem.arbInstance ≤ 1057) (hb : v.getLsbD 1 = true) : writeArbClr v s =
    setArbiter s s.mem.arbInstance { getArbiter s s.mem.arbInstance with counters := [] } := by
  simp only [writeArbClr, if_neg (Nat.not_lt.mpr h), hb, if_true]

theorem writeArbClr_one (h : s.mem.arbInstance ≤ 1057) (hb : v.getLsbD 1 = false) (hc : v.getLsbD 0 = true) : writeArbClr v s =
    setArbiter s s.mem.arbInstance
      { getArbiter s s.mem.arbInstance with counters := tdel (getArbiter s s.mem.arbInstance).counters s.mem.arbInput } := by
  simp only [writeArbClr, if_neg (Nat.not_lt.mpr h), hb, hc, if_true, Bool.false_eq_true, if_false]

/-- REARM where the registers can be written, with the seal that then senses. -/
theorem exec_rearm (hw : writable s .pf0 = true) (fitted : Bool) : exec (.rearm ⟨v, fitted⟩) s =
    .next (writeSeal (v ||| 2) { s with aon.sense := s.aon.sense || fitted }) := by
  have hw' : writable { s with aon.sense := s.aon.sense || fitted } .pf0 = true := hw
  show execRearm ⟨v, fitted⟩ s = _
  simp only [execRearm, hw', if_true]

end

/-- Settles O26: each clearing write where it is made, and none where the registers cannot be written. -/
theorem clearingWrites : Obligations.ClearingWrites := by
  intro v s
  have hmod : exec (.modCtrClr v) s = .next (if writable s .pf0 then clearModCounters v s else s) := rfl
  have hall : exec (.arbClrClearAll v) s = .next (if writable s .pf0 then writeArbClr (v ||| 2) s else s) := rfl
  have hone : exec (.arbClrClear v) s = .next (if writable s .pf0 then writeArbClr (v ||| 1) s else s) := rfl
  have hscr : ∀ io, exec (.scrClr io v) s = .next (if writable s .pf0 then writeScrClr io v s else s) := fun _ => rfl
  have hvf : ∀ p, exec (.vfCtrClr p v) s = .next (if writable s (.vf p) then clearPolderCounters p v s else s) := fun _ => rfl
  obtain ⟨h0, h1⟩ := orOne_bits v
  refine ⟨fun hw => ?_, fun hw => ?_, fun p hw => by simp [hvf, hw], fun p hw => by rw [hvf, if_pos hw]; rfl⟩
  · simp only [hmod, hall, hone, hscr, hw, if_true]
    refine ⟨rfl, fun hb => ?_, fun hb => ⟨?_, fun hv => ?_, fun hv => ?_⟩, fun io => rfl, fun fitted hp hs => ?_, fun hp hs => ?_,
      fun fitted hp => ?_⟩
    · simp only [writeArbClr_beyond hb, and_self]
    · rw [writeArbClr_all hb (orTwo_bit v)]
    · rw [writeArbClr_all hb (h1.trans hv)]
    · rw [writeArbClr_one hb (h1.trans hv) h0]
    · have hsense : (s.aon.sense || fitted) = true := by simpa using hs
      rw [exec_rearm hw, hsense]
      simp only [writeSeal, hp, orTwo_bit v, Bool.not_true, Bool.false_eq_true, if_false, Bool.and_self, if_true]
    · rw [exec_rearm hw, Bool.or_false]
      show Host.Outcome.next (writeSeal (v ||| 2) s) = _
      simp only [writeSeal, hp, hs, Bool.not_true, Bool.false_eq_true, if_false, Bool.and_false]
    · rw [exec_rearm hw]
      simp only [writeSeal, hp, Bool.not_false, if_true]
  · simp only [hmod, hall, hone, hscr, hw, Bool.false_eq_true, if_false, implies_true, true_and]
    intro fitted
    have hw' : writable { s with aon.sense := s.aon.sense || fitted } .pf0 = false := hw
    show execRearm ⟨v, fitted⟩ s = _
    simp only [execRearm, hw', Bool.false_eq_true, if_false]

/-! ## PWR_SLEEP -/

/-- A write of 0 or 1 to PWR_SLEEP names no bit to clear. -/
theorem writeSleep_request (s : State) : writeSleep 1 s =
    if s.startup.dormant || s.startup.entering || s.startup.waking then s else { s with startup.dormantReq := true } := by
  simp [writeSleep]

theorem writeSleep_wake (s : State) : writeSleep 0 s = wakeEvent { s with startup.dormantReq := false } := by
  simp [writeSleep]

/-- Settles O27: what the two writes of PWR_SLEEP do in each state of DORMANT. -/
theorem dormantRequested : Obligations.DormantRequested := by
  intro s
  have hreq : exec .dormantRequest s = .next (if writable s .pf0 then writeSleep 1 s else s) := rfl
  have hwake : exec .dormantWakeWrite s = .next (if writable s .pf0 then writeSleep 0 s else s) := rfl
  rw [hreq, hwake, writeSleep_request, writeSleep_wake]
  refine ⟨fun hw => by simp [hw], fun hw => ?_⟩
  simp only [hw, if_true]
  refine ⟨fun hd he hk => by simp [hd, he, hk], fun h => ?_, fun hd he => ?_, fun hd => ?_, fun hd he => ?_⟩
  · rcases h with h | h | h <;> simp [h]
  · simp [wakeEvent, hd, he]
  · simp [wakeEvent, hd]
  · simp [wakeEvent, hd, he]

end Sys2Proof.Proofs
end

section
/-! The interrupt hub and the host link (R397, R398, R402 to R404). -/

namespace Sys2Proof.Proofs
open Sys2Proof Sys2Proof.Machine Sys2Proof.Safety Sys2Proof.Laws

/-! ## Claim and end of interrupt -/

theorem exec_endOfInterrupt (hub core : Nat) (s : State) : exec (.endOfInterrupt hub core) s =
    .next (match (tget (getHub s hub).running core).getD [] with
      | [] => setHub s hub { getHub s hub with eoiIgnored := (getHub s hub).eoiIgnored + 1 }
      | _ :: r => setHub s hub { getHub s hub with running := tset (getHub s hub).running core r }) := rfl

theorem exec_endOfInterrupt_pops {hub core : Nat} {s : State} {p : Nat} {r : List Nat}
    (h : (tget (getHub s hub).running core).getD [] = p :: r) : exec (.endOfInterrupt hub core) s =
      .next (setHub s hub { getHub s hub with running := tset (getHub s hub).running core r }) := by
  rw [exec_endOfInterrupt, h]

/-- The state after a claim of a source. -/
def claimed (hub core k : Nat) (s : State) : State :=
  let t := setSource s hub k { getSource s hub k with count := 0, ready := false }
  emit (.coreInterrupt hub k) (setHub t hub { getHub t hub with
    running := tset (getHub t hub).running core ((getSource s hub k).priority :: (tget (getHub t hub).running core).getD []) })

theorem exec_interruptClaim {hub core k : Nat} {s : State} {r : List Nat} (h : claimable s hub core = k :: r) :
    exec (.interruptClaim hub core) s = .next (claimed hub core k s) := by
  show execInterruptClaim hub core s = _
  simp only [execInterruptClaim, h, claimed]

@[simp] theorem getHub_setSource_running (s : State) (hub k : Nat) (x : Source) :
    (getHub (setSource s hub k x) hub).running = (getHub s hub).running := by
  simp [setSource]

theorem claimed_running (hub core k : Nat) (s : State) : tget (getHub (claimed hub core k s) hub).running core =
    some ((getSource s hub k).priority :: (tget (getHub s hub).running core).getD []) := by
  show tget (getHub (setHub _ hub _) hub).running core = _
  simp

theorem claimed_source (hub core k : Nat) (s : State) :
    getSource (claimed hub core k s) hub k = { getSource s hub k with count := 0, ready := false } := by
  show getSource (setHub _ hub _) hub k = _
  rw [getSource, getHub_setHub]
  exact getSource_setSource s hub k _

theorem claimed_out (hub core k : Nat) (s : State) : (claimed hub core k s).out = .coreInterrupt hub k :: s.out := by
  simp [claimed, emit]

/-- What can be claimed stands in the order of R402, above the threshold and the top of the stack. -/
theorem claimable_ordered (s : State) (hub core : Nat) :
    SourcesOrdered (fun k => (getSource s hub k).priority) (claimable s hub core) :=
  List.Pairwise.filter _ (foldl_insertSource_ordered _ _ List.Pairwise.nil)

theorem mem_claimable_above {s : State} {hub core k : Nat} (h : k ∈ claimable s hub core) :
    max ((tget (getHub s hub).coreThr core).getD 0) (((tget (getHub s hub).running core).getD []).headD 0)
      < (getSource s hub k).priority := by
  simpa using (List.mem_filter.mp h).2

theorem head_highest {f : Nat → Nat} {k : Nat} {r : List Nat} (h : SourcesOrdered f (k :: r)) :
    ∀ j ∈ k :: r, f j ≤ f k ∧ (f j = f k → j ≤ k) := by
  intro j hj
  rcases List.mem_cons.mp hj with rfl | hj
  · exact ⟨Nat.le_refl _, fun _ => Nat.le_refl _⟩
  · exact (List.pairwise_cons.mp h).1 j hj

/-- Settles O29: the list of the claimable sources begins with the highest, and an end pops what a claim pushed. -/
theorem claimTakesHighest : Obligations.ClaimTakesHighest := by
  intro hub core s _
  refine ⟨fun h => by rw [exec_endOfInterrupt, h], fun p r h => exec_endOfInterrupt_pops h, fun h => ?_, fun k r h => ?_⟩
  · show execInterruptClaim hub core s = _
    simp only [execInterruptClaim, h]
  have hord := claimable_ordered s hub core
  rw [h] at hord
  have hpop : (tget (getHub (claimed hub core k s) hub).running core).getD [] =
      (getSource s hub k).priority :: (tget (getHub s hub).running core).getD [] := by
    rw [claimed_running, Option.getD_some]
  refine ⟨_, exec_interruptClaim h, claimed_out hub core k s, claimed_source hub core k s, claimed_running hub core k s,
    mem_claimable_above (by rw [h]; exact List.mem_cons_self), by rw [h]; exact head_highest hord,
    _, exec_endOfInterrupt_pops hpop, ?_⟩
  rw [getHub_setHub, tget_tset_same]

/-! ## The host link -/

theorem tget_map_getD {α : Type} (t : Table α) (k : Nat) (g : α → α) (d : α) (hd : g d = d) :
    (tget (t.map fun e => (e.1, g e.2)) k).getD d = g ((tget t k).getD d) := by
  rw [tget_map]
  cases tget t k with
  | none => exact hd.symm
  | some x => rfl

theorem exec_busMasterEnable_denied {s : State} {fn : Fn} (h : mainUp s = false ∨ fnEnabled s fn = false) :
    exec (.busMasterEnable fn) s = .next s := by
  show execBusMasterEnable fn s = _
  rcases h with h | h <;> simp [execBusMasterEnable, h]

theorem exec_busMasterEnable {s : State} {fn : Fn} (hm : mainUp s = true) (hf : fnEnabled s fn = true) :
    exec (.busMasterEnable fn) s = .next (deliverAll 1 (deliverAll 0 ((allFns s).foldl (fun st f => flushFn f st)
      (setFunc { s with host.linkUp := true } fn { getFunc s fn with busMaster := true })))) := by
  show execBusMasterEnable fn s = _
  simp only [execBusMasterEnable, hm, hf, Bool.not_true, Bool.or_self, Bool.false_eq_true, if_false]
  rfl

/-- A reset of a function with a polder moves its TDI and queues the reset of the polder. -/
theorem exec_vfFunctionLevelReset {s : State} {p : Nat} : exec (.vfFunctionLevelReset p) s =
    .next (if (getPolder s p).isSome then
      { (if getTdi s p = 0 then s else setTdi s p 3) with
        tide.queued := s.tide.queued ++ [(⟨.vfFunctionLevelReset p, s.tide.ix, s.tide.ix + 1,
          ⟨epochOf s.tide.count, tnOf s.tide.count, 1, s.flash.index.getD 0, 16 * p + 15, 0xFFFFFFFF⟩⟩ : Queued)] }
      else if getTdi s p = 0 then s else setTdi s p 3) := by
  have hp : getPolder (setTdi s p 3) p = getPolder s p := rfl
  show execVfFunctionLevelReset p s = _
  by_cases h0 : getTdi s p = 0
  · simp only [execVfFunctionLevelReset, h0, if_true]
    cases getPolder s p <;> rfl
  · simp only [execVfFunctionLevelReset, if_neg h0, hp]
    cases getPolder s p <;> rfl

/-- With the link down, no register is reached, no function may use the bus, and no interrupt leaves. -/
theorem hostLink_down {s : State} (h : s.host.linkUp = false) (fn : Fn) (hub src : Nat) :
    reachable s fn = false ∧ busOk s fn = false ∧ deliverable s hub src = false := by
  refine ⟨by simp [reachable, h], by simp [busOk, h], ?_⟩
  unfold deliverable
  dsimp only
  split
  · simp [h]
  · rfl

/-- Settles O31: each event by what it sets, and what a link that is down keeps from happening. -/
theorem hostLinkEvents : Obligations.HostLinkEvents := by
  intro s
  refine ⟨fun fn hm hf => exec_busMasterEnable hm hf, fun fn h => exec_busMasterEnable_denied h, fun n hm hn => ?_,
    fun n h => ?_, ⟨_, rfl, rfl, fun fn => ?_⟩, rfl, fun link hl hb => ?_, fun link hl hb => ?_, fun p hp => ?_, fun p x hp => ?_,
    rfl, fun h fn hub src => hostLink_down h fn hub src⟩
  · show execNumVfsEnable n s = _
    simp only [execNumVfsEnable, hm, Bool.not_true, Bool.false_or, decide_eq_true_eq, if_neg (Nat.not_lt.mpr hn)]
  · show execNumVfsEnable n s = _
    rcases h with h | h <;> simp [execNumVfsEnable, h]
  · exact tget_map_getD s.host.funcs (fnKey fn) resetConfig {} rfl
  · show execPf0FunctionLevelReset link s = _
    simp only [execPf0FunctionLevelReset, if_neg hl, hb, if_true, resetConfig]
  · show execPf0FunctionLevelReset link s = _
    simp only [execPf0FunctionLevelReset, if_neg hl, hb, Bool.false_eq_true, if_false]
  · rw [exec_vfFunctionLevelReset, hp]
    rfl
  · rw [exec_vfFunctionLevelReset, hp]
    exact ⟨_, rfl, rfl, rfl, rfl⟩

end Sys2Proof.Proofs
end

section
/-! Presence, the seal and the secure parts (R24, R27, R126, R201, R429), and the merge of an edge (R62). -/

namespace Sys2Proof.Proofs
open Sys2Proof Sys2Proof.Machine Sys2Proof.Safety Sys2Proof.Laws

/-! ## Presence -/

theorem releaseHeld_of_held {s : State} {o : OpenCmd} {h : Hdr} {i : OpInfo} (ho : s.aon.held = some o) (hh : hdrOf o.cmd = some h)
    (hi : opInfo o.cmd = some i) :
    releaseHeld s = proceed o.cmd i h true (gatedArrival o.cmd) (markApplied h (setSluice { s with aon.held := none }
      h.fn h.sluice { getSluice s h.fn h.sluice with
        owed := (getSluice s h.fn h.sluice).owed.map fun e => if e.seq = h.seq then { e with intakeIx := s.tide.ix } else e })) := by
  simp only [releaseHeld, ho, hh, hi]
  rfl

/-- Settles O32: each event on the fit and in the state that it concerns. -/
theorem presenceAndButton : Obligations.PresenceAndButton := by
  intro s
  have htimeout : exec .presenceHoldTimeout s = execPresenceHoldTimeout s := rfl
  have hassert : exec .presenceAssert s = execPresenceAssert s := rfl
  have hdeassert : exec .presenceDeassert s = execPresenceDeassert s := rfl
  have hrelease : exec .buttonRelease s = execButtonRelease s := rfl
  have hstuck : exec .buttonStuck s = execButtonStuck s := rfl
  rw [htimeout, hassert, hdeassert, hrelease, hstuck]
  refine ⟨fun h => ?_, fun o h ho hh => ?_, fun hu => ?_, fun hu hc => ?_, fun hc => ?_, fun hu hc hl => ?_, fun hu hc hl => ?_,
    fun hs => ?_, fun ho => ?_, fun o h i ho hh hi => releaseHeld_of_held ho hh hi, fun hc hb => ?_, fun hc hb => ?_,
    fun hc => ?_, fun hc => ?_, fun hc hb => ?_, fun h => ?_⟩
  · simp only [execPresenceHoldTimeout, h]
  · simp only [execPresenceHoldTimeout, ho, finishCmd, hh]
  · simp only [execPresenceAssert, hu, Bool.not_false, if_true]
  · simp only [execPresenceAssert, hu, hc, Bool.not_true, Bool.false_eq_true, if_false]
  · simp only [execPresenceDeassert, hc, Bool.false_eq_true, if_false, dropPresence]
  · simp only [execPresenceAssert, hu, hc, hl, Bool.not_true, Bool.false_eq_true, if_false, if_true]
  · simp only [execPresenceAssert, hu, hc, hl, Bool.not_true, Bool.false_eq_true, if_false, if_true]
  · simp only [breakSeal, hs, Bool.false_eq_true, if_false]
  · simp only [releaseHeld, ho]
  · simp only [execPresenceDeassert, hc, hb, Bool.false_eq_true, if_false, if_true, dropPresence]
  · simp only [execPresenceDeassert, hc, hb, if_true]
  · simp only [execButtonRelease, hc, if_true]
  · simp only [execButtonRelease, hc, Bool.false_eq_true, if_false]
  · simp only [execButtonStuck, hc, hb, Bool.and_self, if_true, dropPresence]
  · have : (s.ident.cabinet && s.aon.buttonHeld) = false := by rcases h with h | h <;> simp [h]
    simp only [execButtonStuck, this, Bool.false_eq_true, if_false]

/-! ## Wipes -/

/-- A wipe with the main package powered: presence goes, both parts are being wiped and read zero, and no session stays open. -/
theorem wipeSecure_effect (cause : Nat) {s : State} (hm : mainUp s = true) :
    (wipeSecure cause s).aon.presence = false ∧ (wipeSecure cause s).mem.scr0.wiping = true ∧
    (wipeSecure cause s).mem.scr1.wiping = true ∧ (∀ fn ∈ everyFn, (getFunc (wipeSecure cause s) fn).session = false) ∧
    (∀ io a, io < 2 → 7864320 ≤ a → a < 8388608 → readByte (wipeSecure cause s).mem.cells (scrBase io + a) = 0) := by
  rw [wipe_eq cause s hm]
  obtain ⟨X, Y, hrest⟩ := es_rest everyFn (wipeScr 1 cause (wipeScr 0 cause (dropPresence s)))
  refine ⟨?_, ?_, ?_, fun fn hfn => ?_, fun io a hio hlo hhi => ?_⟩
  · rw [hrest]; rfl
  · rw [hrest]; rfl
  · rw [hrest]; rfl
  · rw [mod_func]
    exact sessions_fold everyFn _ fn (.inr hfn)
  · rw [hrest]
    show readByte (wipeScr 1 cause (wipeScr 0 cause (dropPresence s))).mem.cells _ = 0
    rw [wipeScr_cells, wipeScr_cells]
    have hin := in_secure io a hlo hhi
    interval_cases io
    · exact read_keep (read_in _ hin)
    · exact read_in _ hin

theorem breakSeal_of_sense {s : State} (h : s.aon.sense = true) : breakSeal s =
    wipeSecure 1 { s with aon.sense := false, aon.broken := true, aon.breaks := min 65535 (s.aon.breaks + 1) } := by
  simp only [breakSeal, h, if_true]

/-- A wipe touches nothing of the AON logic but presence. -/
theorem wipeSecure_aon (cause : Nat) (s : State) : (wipeSecure cause s).aon = (dropPresence s).aon := by
  cases hm : mainUp s with
  | false =>
    have hm' : mainUp (dropPresence s) = false := hm
    simp only [wipeSecure, hm', Bool.false_eq_true, if_false]
  | true =>
    obtain ⟨X, Y, hrest⟩ := es_rest everyFn (wipeScr 1 cause (wipeScr 0 cause (dropPresence s)))
    rw [wipe_eq cause s hm, hrest]
    rfl

/-- Settles O33: both causes are wipes, and a wipe reads zero. -/
theorem wipesReadZero : Obligations.WipesReadZero := by
  intro s
  have hseal : exec .sealBreak s = .next (breakSeal s) := rfl
  have hglitch : ∀ clock, exec (.glitchDetect clock) s = .next (if mainUp s then wipeSecure (if clock then 3 else 2) s else s) :=
    fun _ => rfl
  refine ⟨fun hm c hc => ?_, fun hm clock => by simp [hglitch, hm], fun hs => ⟨_, hseal, ?_⟩, fun hs => ?_, fun io h => ?_,
    fun io h => ?_⟩
  · rcases hc with ⟨rfl, hs⟩ | rfl | rfl
    · rw [hseal, breakSeal_of_sense hs]
      exact ⟨_, rfl, wipeSecure_effect 1 hm⟩
    · rw [hglitch, if_pos hm]
      exact ⟨_, rfl, wipeSecure_effect _ hm⟩
    · rw [hglitch, if_pos hm]
      exact ⟨_, rfl, wipeSecure_effect _ hm⟩
  · rw [breakSeal_of_sense hs, wipeSecure_aon]
    exact ⟨rfl, rfl, rfl, rfl⟩
  · rw [hseal]
    simp only [breakSeal, hs, Bool.false_eq_true, if_false]
  · show execWipeDone io s = _
    rw [execWipeDone, if_pos h]
  · show execWipeDone io s = _
    rw [execWipeDone, if_neg (Nat.not_lt.mpr h)]

/-! ## The merge of an edge -/

theorem foldl_insertVisible_perm (l acc : List Visible) :
    (l.foldl (fun acc v => insertVisible v acc) acc).Perm (acc ++ l) := by
  induction l generalizing acc with
  | nil => simp
  | cons v l ih =>
    refine (ih _).trans ?_
    exact ((insertVisible_perm v acc).append_right l).trans (List.perm_middle.symm)

/-- What every insertion keeps holds of the list that an edge merges. -/
theorem visibleAt_induct {P : List Visible → Prop} (h0 : P []) (h : ∀ v l, P l → P (insertVisible v l)) (s : State) :
    P (visibleAt s) := by
  have key : ∀ l acc : List Visible, P acc → P (l.foldl (fun acc v => insertVisible v acc) acc) := by
    intro l
    induction l with
    | nil => exact fun _ hacc => hacc
    | cons v l ih => exact fun acc hacc => ih _ (h v acc hacc)
  exact key _ _ h0

/-- Settles O34: each insertion keeps both orders, and adds the one entry. -/
theorem edgeMergesInOrder : Obligations.EdgeMergesInOrder := fun s =>
  ⟨foldl_insertVisible_perm _ [], visibleAt_induct List.Pairwise.nil (fun _ _ h => insertVisible_pairwise h) s,
    visibleAt_induct (P := NeighboursOrdered) (fun _ _ _ h _ => by simp at h) (fun _ _ h => insertVisible_neighbours h) s⟩

end Sys2Proof.Proofs
end

section
/-! Commands at their applying edge: what the accepted bounce record leaves as it was, and the settings and runs (O35, O36). -/

namespace Sys2Proof.Proofs
open Sys2Proof Sys2Proof.Machine Sys2Proof.Safety Sys2Proof.Laws

/-! ## What the accepted bounce record leaves as it was -/

/-- A reader that does not look at the sluices reads the same before and after the command's bounce record is accepted. -/
theorem reads_atEdge {α : Type} (f : State → α) (q : Queued) (h : Hdr) (s : State)
    (hf : ∀ X, f { s with host.sluices := X } = f s) : f (atEdge q h s) = f s := by
  obtain ⟨X, e⟩ := atEdge_eq q h s
  rw [e, hf]

@[simp] theorem atEdge_work (q : Queued) (h : Hdr) (s : State) : (atEdge q h s).work = s.work :=
  reads_atEdge (·.work) q h s fun _ => rfl
@[simp] theorem atEdge_tide (q : Queued) (h : Hdr) (s : State) : (atEdge q h s).tide = s.tide :=
  reads_atEdge (·.tide) q h s fun _ => rfl
@[simp] theorem atEdge_power (q : Queued) (h : Hdr) (s : State) : (atEdge q h s).power = s.power :=
  reads_atEdge (·.power) q h s fun _ => rfl
@[simp] theorem atEdge_flash (q : Queued) (h : Hdr) (s : State) : (atEdge q h s).flash = s.flash :=
  reads_atEdge (·.flash) q h s fun _ => rfl
@[simp] theorem atEdge_codec (q : Queued) (h : Hdr) (s : State) : (atEdge q h s).codec = s.codec :=
  reads_atEdge (·.codec) q h s fun _ => rfl
@[simp] theorem atEdge_startup (q : Queued) (h : Hdr) (s : State) : (atEdge q h s).startup = s.startup :=
  reads_atEdge (·.startup) q h s fun _ => rfl
@[simp] theorem getPolder_atEdge (q : Queued) (h : Hdr) (s : State) (p : Nat) :
    getPolder (atEdge q h s) p = getPolder s p := reads_atEdge (getPolder · p) q h s fun _ => rfl
@[simp] theorem getGraph_atEdge (q : Queued) (h : Hdr) (s : State) (p n : Nat) :
    getGraph (atEdge q h s) p n = getGraph s p n := reads_atEdge (getGraph · p n) q h s fun _ => rfl
@[simp] theorem getRun_atEdge (q : Queued) (h : Hdr) (s : State) (p r : Nat) :
    getRun (atEdge q h s) p r = getRun s p r := reads_atEdge (getRun · p r) q h s fun _ => rfl
@[simp] theorem workAdmitted_atEdge (q : Queued) (h : Hdr) (s : State) : workAdmitted (atEdge q h s) = workAdmitted s :=
  reads_atEdge workAdmitted q h s fun _ => rfl
@[simp] theorem bindFault_atEdge (q : Queued) (h : Hdr) (s : State) (p rank src handle : Nat) :
    bindFault (atEdge q h s) p rank src handle = bindFault s p rank src handle :=
  reads_atEdge (bindFault · p rank src handle) q h s fun _ => rfl

/-! ## Settings at their edge -/

/-- A budget command: a budget of zeros is none, a new one is full, a changed one keeps its level up to the new BURST. -/
theorem applySetTokenBudget_eq {h : Hdr} {refill burst : Nat} {u : State} {x : Polder} (hx : getPolder u h.polder = some x) :
    applySetTokenBudget h refill burst u = finish h .ok .none [] (setPolder u h.polder { x with
      budget := if refill = 0 ∧ burst = 0 then none
        else some ⟨refill, burst, (x.budget.map fun o => min o.level (4000 * burst)).getD (4000 * burst)⟩ }) := by
  unfold applySetTokenBudget
  rw [hx]
  dsimp only
  by_cases hz : refill = 0 ∧ burst = 0
  · rw [if_pos hz, if_pos (by simpa using hz)]
  · rw [if_neg hz, if_neg (by simpa using hz)]
    cases x.budget <;> rfl

/-- The three answers of SAFETY_PROFILE_SET: work is admitted, a graph no longer fits, or the profile is taken. -/
theorem applySafetyProfileSet_busy {h : Hdr} {share op : Nat} {u : State}
    (hb : workAdmitted u = true ∨ u.tide.change.isSome = true) :
    applySafetyProfileSet h share op u = finish h .notPermitted .busyAdmitted [] u :=
  if_pos (by simpa using hb)
theorem applySafetyProfileSet_risk {h : Hdr} {share op : Nat} {u : State} {x : Nat × Nat × Reason}
    (hw : workAdmitted u = false) (hc : u.tide.change = none)
    (hx : recost u { envNow u with sShare := share, qOp := op } = some x) :
    applySafetyProfileSet h share op u = finish h .overrunRisk x.2.2 (recostPayload x) u := by
  unfold applySafetyProfileSet
  rw [if_neg (by simp [hw, hc]), hx]
theorem applySafetyProfileSet_taken {h : Hdr} {share op : Nat} {u : State}
    (hw : workAdmitted u = false) (hc : u.tide.change = none)
    (hx : recost u { envNow u with sShare := share, qOp := op } = none) :
    (applySafetyProfileSet h share op u).work.sShare = share ∧ (applySafetyProfileSet h share op u).work.qAdmitOp = op ∧
      (applySafetyProfileSet h share op u).flash.recSafety = ⟨u.flash.settingsFormat, share, op⟩ := by
  unfold applySafetyProfileSet
  rw [if_neg (by simp [hw, hc]), hx]
  obtain ⟨hwork, hflash, -⟩ := fin_work h .ok .none [] { setOffsets u.tide.swellLen false u with
    work.sShare := share, work.qAdmitOp := op, flash.recSafety := ⟨u.flash.settingsFormat, share, op⟩ }
  simp only [hwork, hflash, and_self]

/-- A source counter that starts anew leaves the bindings. -/
theorem resetCounter_binds (b : Bind) (u : State) : (resetCounter b u).work.binds = u.work.binds := by
  unfold resetCounter
  split
  · split <;> rfl
  · rfl

/-- STREAM_BIND without a fault leaves these bindings. -/
theorem applyStreamBind_binds {h : Hdr} {rank port src handle unbind srcMod : Nat} {u : State}
    (hf : bindFault u (polderOf h) rank src handle = none) :
    (applyStreamBind h rank port src handle unbind srcMod u).work.binds =
      if unbind = 1 then
        u.work.binds.filter fun x => x ≠ ⟨rank, srcMod, src, polderOf h, handle, if handle < 64 then port else 0⟩
      else (u.work.binds.filter fun x => !(x.polder = polderOf h && x.handle = handle &&
          x.port = if handle < 64 then port else 0)) ++
        [⟨rank, srcMod, src, polderOf h, handle, if handle < 64 then port else 0⟩] := by
  unfold applyStreamBind
  dsimp only
  rw [hf]
  dsimp only
  split
  · rw [(fin_work ..).1]
  · rw [(fin_work ..).1, resetCounter_binds]

/-- SET_POWER_CAP takes its values and its lease, after ending the lease that it replaces. -/
theorem applySetPowerCap_power (c : Instr) (capW windowS leaseS orphanW : Nat) (u : State) :
    (applySetPowerCap c capW windowS leaseS orphanW u).power = { u.power with
      capW := capW, windowS := windowS, orphanW := if orphanW = 0 then u.power.orphanW else orphanW,
      lease := some ⟨c, u.tide.nowQ + 4000 * leaseS⟩ } := by
  unfold applySetPowerCap
  cases hl : u.power.lease with
  | none => rfl
  | some l =>
    obtain ⟨hp, ht⟩ := finc_power l.cmd .ok .none [] u
    simp only [hp, ht]
theorem applySetPowerCap_host (c : Instr) (capW windowS leaseS orphanW : Nat) (u : State) :
    (applySetPowerCap c capW windowS leaseS orphanW u).host =
      match u.power.lease with
      | some l => (finishCmd l.cmd .ok .none [] u).host
      | none => u.host := by
  unfold applySetPowerCap
  cases u.power.lease <;> rfl

/-- Settles O35: each setting is its command's own function, read off after the bounce record (which no setting reads). -/
theorem edgeSettings : Obligations.EdgeSettings := by
  intro q h s a
  refine ⟨?_, ?_, ?_, ?_, ?_, ?_, ?_⟩
  · intro refill burst x hq hx
    have e : applyQueued q s = applySetTokenBudget h refill burst (atEdge q h s) := by
      rw [apply_eq a]; simp only [applyOp, hq]
    rw [e, applySetTokenBudget_eq (x := x) (by rw [getPolder_atEdge, hx])]
    refine ⟨fun hr hb => ?_, fun hz hn => ?_, fun o hz ho => ?_⟩
    · rw [if_pos ⟨hr, hb⟩]
    · rw [if_neg (by omega), hn]; rfl
    · rw [if_neg (by omega), ho]; rfl
  · intro group x hq hx
    rw [apply_eq a]
    simp only [applyOp, hq, applyCommonsJoin, getPolder_atEdge, hx]
  · intro ops hq
    rw [apply_eq a]
    simp only [applyOp, hq, applySetPhaseOp]
  · intro capW windowS leaseS orphanW hq
    have e : applyQueued q s = applySetPowerCap q.cmd capW windowS leaseS orphanW (atEdge q h s) := by
      rw [apply_eq a]; simp only [applyOp, hq]
    refine ⟨_, e, ?_, fun hl => ?_, fun l hl => ?_⟩
    · rw [applySetPowerCap_power, atEdge_power, atEdge_tide]
    · rw [applySetPowerCap_host, atEdge_power, hl]
    · rw [applySetPowerCap_host, atEdge_power, hl]
  · intro share op hq
    have e : applyQueued q s = applySafetyProfileSet h share op (atEdge q h s) := by
      rw [apply_eq a]; simp only [applyOp, hq]
    rw [e, ← workAdmitted_atEdge q h s, ← atEdge_tide q h s, ← atEdge_flash q h s]
    exact ⟨applySafetyProfileSet_busy, fun x hw hc hx => applySafetyProfileSet_risk hw hc hx,
      fun hw hc hx => ⟨_, rfl, applySafetyProfileSet_taken hw hc hx⟩⟩
  · intro handle digest g hq hg
    rw [apply_eq a]
    simp only [applyOp, hq, applyGoldenSet, getGraph_atEdge, hg]
  · intro rank port src handle unbind srcMod hq
    have e : applyQueued q s = applyStreamBind h rank port src handle unbind srcMod (atEdge q h s) := by
      rw [apply_eq a]; simp only [applyOp, hq]
    rw [e]
    refine ⟨fun r hr => ?_, fun hf => ⟨_, rfl, ?_⟩⟩
    · simp only [applyStreamBind, bindFault_atEdge, hr]
    · rw [applyStreamBind_binds (by rw [bindFault_atEdge, hf]), atEdge_work]
      exact ⟨fun hu => if_neg hu, fun hu => if_pos hu⟩

/-! ## Runs at their edge -/

/-- Some output entry is too short exactly when one names a port whose results are longer. -/
theorem shortOutput_iff (img : Image) (descs : List Desc) : shortOutput img descs = true ↔
    ∃ o ∈ img.outPorts, ∃ e ∈ descs, e.output = true ∧ e.port = o.port ∧ e.len < o.bytes := by
  simp only [shortOutput, List.any_eq_true, Bool.and_eq_true, decide_eq_true_eq, and_assoc]

/-- Settles O36: the checks of a run in the order in which the model makes them; a run number in use is the fourth. -/
theorem runsAtTheirEdge : Obligations.RunsAtTheirEdge := by
  intro q h s a
  refine ⟨?_, ?_⟩
  · intro handle run period deadline n count descs fault periodic hq
    have e : applyQueued q s = startRun q.cmd h handle run period deadline count descs fault periodic (atEdge q h s) := by
      rw [apply_eq a]
      rcases hq with ⟨hc, rfl⟩ | ⟨hc, rfl, rfl, rfl⟩
      · simp only [applyOp, hc, applyRunPeriodic]
      · simp only [applyOp, hc, applyRunAtTide]
    rw [e]
    unfold startRun
    simp only [getGraph_atEdge, getRun_atEdge, atEdge_tide]
    refine ⟨fun hg => by rw [hg], fun g hg => ?_⟩
    rw [hg]
    dsimp only
    refine ⟨fun hc => by rw [if_pos hc], fun hc hb => by rw [if_neg (by simp [hc]), if_pos hb], fun hc hb => ?_⟩
    rw [if_neg (by simp [hc]), if_neg (by simp [hb])]
    refine ⟨fun ht => by rw [if_pos (by simpa using ht)], fun hd hp => ?_⟩
    rw [if_neg (by simpa using ⟨hd, hp⟩)]
    refine ⟨fun hr => by rw [if_pos hr], fun hr hf => by rw [if_neg (by simp [hr]), if_pos hf], fun hr hf hs => ?_,
      fun hr hf hs => ?_⟩
    · rw [if_neg (by simp [hr]), if_neg (by simp [hf]), if_pos ((shortOutput_iff _ _).mpr hs)]
    · have fits : ¬ shortOutput g.img descs = true := by
        rw [shortOutput_iff]
        rintro ⟨o, ho, d, hd, hout, hport, hlen⟩
        exact Nat.not_lt.mpr (hs o ho d hd hout hport) hlen
      rw [if_neg (by simp [hr]), if_neg (by simp [hf]), if_neg fits]
  · intro handle run hq
    have e : applyQueued q s = applyRunStop h handle run (atEdge q h s) := by
      rw [apply_eq a]; simp only [applyOp, hq]
    rw [e]
    unfold applyRunStop
    simp only [getGraph_atEdge, getRun_atEdge]
    refine ⟨fun hg => by rw [hg], fun g hg => ?_⟩
    rw [hg]
    dsimp only
    refine ⟨fun hr => by rw [hr], fun y hr hy => ?_, fun y hr hy => ?_⟩
    · rw [hr]; exact if_neg hy
    · rw [hr]; exact if_pos hy

end Sys2Proof.Proofs
end

section
/-! Requests, pictures, resources, keys and firmware at their applying edge, and the reset of a polder (O37 to O40). -/

namespace Sys2Proof.Proofs
open Sys2Proof Sys2Proof.Machine Sys2Proof.Safety Sys2Proof.Laws

/-! ## More readers that the accepted bounce record leaves as they were -/

@[simp] theorem isClassS_atEdge (q : Queued) (h : Hdr) (s : State) (p : Nat) :
    isClassS (atEdge q h s) p = isClassS s p := reads_atEdge (isClassS · p) q h s fun _ => rfl
@[simp] theorem activationBlocks_atEdge (q : Queued) (h : Hdr) (s : State) :
    activationBlocks (atEdge q h s) = activationBlocks s := reads_atEdge activationBlocks q h s fun _ => rfl
@[simp] theorem wardensVote_atEdge (q : Queued) (h : Hdr) (s : State) :
    wardensVote (atEdge q h s) = wardensVote s := reads_atEdge wardensVote q h s fun _ => rfl
@[simp] theorem createFault_atEdge (q : Queued) (h : Hdr) (s : State) :
    createFault (atEdge q h s) h = createFault s h := reads_atEdge (createFault · h) q h s fun _ => rfl
@[simp] theorem imageFault_atEdge (q : Queued) (h : Hdr) (s : State) (c : Class) (len : Nat) (img : Image) :
    imageFault (atEdge q h s) c len img = imageFault s c len img := reads_atEdge (imageFault · c len img) q h s fun _ => rfl
@[simp] theorem limitFault_atEdge (q : Queued) (h : Hdr) (s : State) (p : Nat) (v : Bool) (img : Image) :
    limitFault (atEdge q h s) p v img = limitFault s p v img := reads_atEdge (limitFault · p v img) q h s fun _ => rfl
@[simp] theorem sessionFor_atEdge (q : Queued) (h : Hdr) (s : State) (p n : Nat) :
    sessionFor (atEdge q h s) p n = sessionFor s p n := reads_atEdge (sessionFor · p n) q h s fun _ => rfl
@[simp] theorem pictureFault_atEdge (q : Queued) (h g : Hdr) (s : State) (n inLen outLen : Nat) :
    pictureFault (atEdge q h s) g n inLen outLen = pictureFault s g n inLen outLen :=
  reads_atEdge (pictureFault · g n inLen outLen) q h s fun _ => rfl
@[simp] theorem sessionShed_atEdge (q : Queued) (h : Hdr) (s : State) (c : Session) :
    sessionShed (atEdge q h s) c = sessionShed s c := reads_atEdge (sessionShed · c) q h s fun _ => rfl
@[simp] theorem graphSource_atEdge (q : Queued) (h : Hdr) (s : State) (c : Session) :
    graphSource (atEdge q h s) c = graphSource s c := reads_atEdge (graphSource · c) q h s fun _ => rfl
@[simp] theorem placementReport_atEdge (q : Queued) (h : Hdr) (s : State) (b : Bool) (n : Nat) (x : Polder) (g : Graph) :
    placementReport (atEdge q h s) b n x g = placementReport s b n x g :=
  reads_atEdge (placementReport · b n x g) q h s fun _ => rfl
@[simp] theorem keyCounter_atEdge (q : Queued) (h : Hdr) (s : State) (n : Nat) :
    keyCounter (atEdge q h s) n = keyCounter s n := reads_atEdge (keyCounter · n) q h s fun _ => rfl
@[simp] theorem conditionOk_atEdge (q : Queued) (h : Hdr) (s : State) (n : Nat) :
    conditionOk (atEdge q h s) n = conditionOk s n := reads_atEdge (conditionOk · n) q h s fun _ => rfl
@[simp] theorem atEdge_wardens (q : Queued) (h : Hdr) (s : State) : (atEdge q h s).wardens = s.wardens :=
  reads_atEdge (·.wardens) q h s fun _ => rfl
@[simp] theorem atEdge_links (q : Queued) (h : Hdr) (s : State) : (atEdge q h s).links = s.links :=
  reads_atEdge (·.links) q h s fun _ => rfl
@[simp] theorem atEdge_ident (q : Queued) (h : Hdr) (s : State) : (atEdge q h s).ident = s.ident :=
  reads_atEdge (·.ident) q h s fun _ => rfl

theorem getGraph_of_polder {s : State} {p n : Nat} {x : Polder} (hx : getPolder s p = some x) :
    getGraph s p n = tget x.graphs n := by
  rw [getGraph, hx]; rfl

/-! ## Requests and pictures -/

/-- A request that passes its checks waits among the polder's, and the admission handles it at once exactly when a slot is free
and none waits before it. -/
theorem applyRequestSubmit_passed {c : Instr} {h : Hdr} {tag : Tag} {ix handle variant deadline len : Nat} {d : ReqDesc}
    {u : State} {x : Polder} {g : Graph} {v : Serving} (hx : getPolder u (polderOf h) = some x)
    (hg : tget x.graphs handle = some g) (hv : servingOf g = some v) (hS : isClassS u (polderOf h) = false)
    (hc : u.tide.change = none) (hf : requestFault g v variant deadline len d = none) (r : Request)
    (hr : r =
      { cmd := c, tag := tag, intakeIx := ix, handle := handle, variant := variant, desc := d,
        deadlineIx := if deadline = 0 then none else some (ix + deadline), blockFrames := blockFramesOf g.img })
    (ins : Polder → Polder) (hi : ins = fun z => { z with requests := insertRequest r z.requests }) :
    applyRequestSubmit c h tag ix handle variant deadline len d u =
      if activeCount (ins x) handle < v.active &&
          !((ins x).requests.any fun z => z.handle = handle && !reserves z && reqKey z ≠ reqKey r)
      then admitRequest (polderOf h) (reqKey r) (modPolder u (polderOf h) ins)
      else modPolder u (polderOf h) ins := by
  have hx' : getPolder (modPolder u (polderOf h) ins) (polderOf h) = some (ins x) := by
    rw [getPolder_modPolder, hx]; rfl
  unfold applyRequestSubmit
  dsimp only
  rw [getGraph_of_polder hx, hg]
  dsimp only
  rw [hv]
  dsimp only
  rw [hS, hc, hf, if_neg Bool.false_ne_true, if_neg (by simp), ← hr, ← hi]
  dsimp only
  rw [hx']

/-- A picture of a host session that nothing refuses joins the queue at the first edge that its interval allows. -/
theorem queuePicture_queue (n : Nat) (c : Session) (cmd : Option Instr) (tag : Tag) (ix : Nat) (input : List Byte) (u : State) :
    (queuePicture n c cmd tag ix input u).codec.queue = u.codec.queue ++
      [{ session := n, cmd := cmd, visibleIx := ix, notBefore := ix, tag := tag, input := input }] := rfl

theorem nextVisible_le {x : Session} {ix : Nat} : ∀ j, x.lastVisibleIx = some j → j + x.interval ≤ max ix (nextVisible x) := by
  intro j hj
  simp only [nextVisible, hj, Option.map_some, Option.getD_some]
  exact le_max_right ..

/-- The close of a session takes it and its bindings away, whatever its pictures leave. -/
theorem applyCodecClose_gone {h : Hdr} {n : Nat} {u : State} {x : Session} (hx : sessionFor u (polderOf h) n = some x) :
    tget (applyCodecClose h n u).codec.sessions n = none ∧
      ∀ b ∈ (applyCodecClose h n u).work.binds, ¬ (b.rank = 6 ∧ b.srcLocal = n) ∧ ¬ (b.polder = x.polder ∧ b.handle = 64 + n) := by
  unfold applyCodecClose
  rw [hx]
  dsimp only
  generalize idleAll x.polder 1 x.buffers _ = v
  obtain ⟨hw, -, -, hc, -⟩ := fin_work h .ok .none [] { v with
    codec.sessions := tdel v.codec.sessions n,
    work.binds := v.work.binds.filter fun b => !(b.polder = x.polder && b.handle = 64 + n) && !(b.rank = 6 && b.srcLocal = n) }
  rw [hw, hc]
  refine ⟨tget_tdel _ _, fun b hb => ?_⟩
  have := (List.mem_filter.mp hb).2
  simp only [Bool.and_eq_true, Bool.not_eq_true', Bool.and_eq_false_iff, decide_eq_false_iff_not] at this
  constructor <;> tauto

/-- Settles O37: each command by its checks in order; a request's admission turns on the slots and on the requests before it. -/
theorem queuesAtTheirEdge : Obligations.QueuesAtTheirEdge := by
  intro q h s a
  refine ⟨?_, ?_, ?_, ?_⟩
  · intro handle variant deadline len d g v x hq hx hg hv
    have e : applyQueued q s =
        applyRequestSubmit q.cmd h q.tag q.intakeIx handle variant deadline len d (atEdge q h s) := by
      rw [apply_eq a]; simp only [applyOp, hq]
    have hx' : getPolder (atEdge q h s) (polderOf h) = some x := by rw [getPolder_atEdge, hx]
    have hg' : getGraph (atEdge q h s) (polderOf h) handle = some g := by rw [getGraph_of_polder hx', hg]
    rw [e]
    refine ⟨fun hS => ?_, fun hS hc => ?_, fun hS hc => ⟨fun r hr => ?_, fun hr => ?_⟩⟩
    · simp only [applyRequestSubmit, hg', hv, isClassS_atEdge, hS, if_true]
    · simp only [applyRequestSubmit, hg', hv, isClassS_atEdge, hS, Bool.false_eq_true, if_false, atEdge_tide, hc, if_true]
    · simp only [applyRequestSubmit, hg', hv, isClassS_atEdge, hS, Bool.false_eq_true, if_false, atEdge_tide, hc, hr,
        Option.isSome_none]
    · intro r ins
      rw [applyRequestSubmit_passed hx' hg hv (by rw [isClassS_atEdge, hS]) (by rw [atEdge_tide, hc]) hr r rfl ins rfl]
      refine ⟨fun hn => ?_, fun hn hfirst => ?_, fun z hz hh hres hk => ?_⟩
      · rw [if_neg (by simp [Nat.not_lt.mpr hn])]
      · rw [if_pos]
        simp only [Bool.and_eq_true, Bool.not_eq_true', List.any_eq_false, decide_eq_true_eq, hn, true_and]
        rintro z hz ⟨⟨hh, hres⟩, hk⟩
        exact hk (hfirst z hz hh hres)
      · have older : ((ins x).requests.any fun z => z.handle = handle && !reserves z && reqKey z ≠ reqKey r) = true :=
          List.any_eq_true.mpr ⟨z, hz, by simp [hh, hres, hk]⟩
        rw [if_neg (by rw [older]; simp)]
  · intro seq n x hq hx hn
    rw [apply_eq a]
    simp only [applyOp, hq, applyRequestCancel, getPolder_atEdge, hx]
    rw [if_neg (Nat.not_le.mpr hn)]
    exact ⟨fun r hr => by rw [hr], fun hr => by rw [hr]⟩
  · intro n inLen inBuf outBuf outLen fault x hq hx
    have e : applyQueued q s = applyCodecPicture q.cmd h q.tag n inLen outLen fault (atEdge q h s) := by
      rw [apply_eq a]; simp only [applyOp, hq]
    rw [e]
    unfold applyCodecPicture
    simp only [sessionFor_atEdge, hx, pictureFault_atEdge, sessionShed_atEdge, atEdge_power, atEdge_tide]
    refine ⟨fun hsrc => by rw [if_pos hsrc], fun r hsrc hr => by rw [if_neg (not_not.mpr hsrc), hr],
      fun hsrc hr => ?_⟩
    rw [if_neg (not_not.mpr hsrc), hr]
    dsimp only
    refine ⟨fun hf => by rw [if_pos hf], fun hf hs => ?_, fun hf hs hp => ?_⟩
    · rw [if_neg (by simp [hf]), if_pos (by simpa using hs)]
    · rw [if_neg (by simp [hf]), if_neg (by simp [hs, hp])]
      refine ⟨_, max s.tide.ix (nextVisible x), rfl, ?_, le_max_left .., nextVisible_le, rfl⟩
      rw [queuePicture_queue, atEdge_codec]
  · intro n x hq hx
    have e : applyQueued q s = applyCodecClose h n (atEdge q h s) := by
      rw [apply_eq a]; simp only [applyOp, hq]
    exact ⟨_, e, applyCodecClose_gone (by rw [sessionFor_atEdge, hx])⟩

/-! ## Graphs, variants and sessions -/

/-- The steps from the image on that GRAPH_LOAD and MODEL_VARIANT_ADD share: what a Class S graph needs of the wardens. -/
theorem classS_answer (x : Polder) (c : Instr) (h : Hdr) (u : State) :
    (x.cls ≠ .S ∨ wardensVote u = true →
      (if x.cls = .S && !wardensVote u then finish h .notPermitted .none [] u else awaitDecision c u) = awaitDecision c u) ∧
    (x.cls = .S → wardensVote u = false →
      (if x.cls = .S && !wardensVote u then finish h .notPermitted .none [] u else awaitDecision c u) =
        finish h .notPermitted .none [] u) := by
  refine ⟨fun hv => if_neg ?_, fun hS hv => if_pos (by simp [hS, hv])⟩
  rcases hv with hv | hv <;> simp [hv]

/-- GRAPH_UNLOAD of a graph that nothing uses: it and its bindings go, and the scrub of its frames begins. -/
theorem applyGraphUnload_unused {c : Instr} {h : Hdr} {handle : Nat} {u : State} {x : Polder} {g : Graph}
    (hx : getPolder u (polderOf h) = some x) (hg : tget x.graphs handle = some g)
    (hr : ∀ r ∈ x.runs, r.2.handle ≠ handle) (hq : ∀ r ∈ x.requests, r.handle ≠ handle) :
    ∃ t, applyGraphUnload c h handle u = t ∧ getGraph t (polderOf h) handle = none ∧ t.host = u.host ∧
      (∀ b ∈ t.work.binds, ¬ (b.polder = polderOf h ∧ b.handle = handle)) ∧
      t.work.scrubs = u.work.scrubs ++
        [⟨u.work.nextScrub, polderOf h, .frames, some c, false, graphFrames g, u.tide.nowQ⟩] := by
  have unused : ¬ (x.runs.any (·.2.handle = handle) || x.requests.any (·.handle = handle)) = true := by
    simp only [Bool.or_eq_true, List.any_eq_true, decide_eq_true_eq, not_or, not_exists, not_and]
    exact ⟨hr, hq⟩
  unfold applyGraphUnload
  dsimp only
  rw [hx]
  dsimp only
  rw [hg]
  dsimp only
  rw [if_neg unused]
  obtain ⟨rl, no, e⟩ := releaseGraphs_frame (polderOf h) x [g]
    (clearGraph (polderOf h) handle (setPolder u (polderOf h) { x with graphs := tdel x.graphs handle }))
  rw [e]
  have vacated : ∀ (es : List (Nat × Extent)) (v : State), ∃ m, vacate es v = { v with mem := m } := by
    intro es
    unfold vacate
    induction es with
    | nil => exact fun v => ⟨v.mem, rfl⟩
    | cons e es ih => intro v; rw [List.foldl_cons]; obtain ⟨m, hm⟩ := ih _; exact ⟨m, hm⟩
  obtain ⟨m, hv⟩ := vacated (graphFrames g) _
  rw [hv]
  refine ⟨_, rfl, ?_, rfl, fun b hb => ?_, rfl⟩
  · have : getPolder (setPolder u (polderOf h) { x with graphs := tdel x.graphs handle }) (polderOf h) =
        some { x with graphs := tdel x.graphs handle } := getPolder_setPolder ..
    exact (getGraph_of_polder this).trans (tget_tdel _ _)
  · have := (List.mem_filter.mp hb).2
    simpa [imp_iff_not_or] using this

/-- Settles O38: the checks of each command in their order; an unused graph goes, and its scrub begins. -/
theorem resourcesAtTheirEdge : Obligations.ResourcesAtTheirEdge := by
  intro q h s a
  refine ⟨?_, ?_, ?_, ?_, ?_, ?_⟩
  · intro cls n w sr hb sp hq
    rw [apply_eq a]
    simp only [applyOp, hq, applyPolderCreate, createFault_atEdge]
    exact ⟨fun hc => by rw [hc], fun st r hc => by rw [hc]⟩
  · intro handle av v len img x hq hx
    have e : applyQueued q s = applyGraphLoad q.cmd h handle len img (atEdge q h s) := by
      rw [apply_eq a]; simp only [applyOp, hq]
    rw [e]
    unfold applyGraphLoad
    simp only [getPolder_atEdge, hx, activationBlocks_atEdge, imageFault_atEdge, limitFault_atEdge]
    refine ⟨fun hb => by rw [if_pos hb], fun hb hu => by rw [if_neg (by simp [hb]), if_pos hu],
      fun hb hu hf => by rw [if_neg (by simp [hb]), if_neg (by simp [hu]), if_pos hf], fun hb hu hf => ?_⟩
    rw [if_neg (by simp [hb]), if_neg (by simp [hu]), if_neg (by simp [hf])]
    refine ⟨fun r hi => by rw [hi], fun pay hi hl => by rw [hi, hl], fun hi hl => ?_⟩
    rw [hi, hl, ← wardensVote_atEdge q h s]
    exact classS_answer x q.cmd h (atEdge q h s)
  · intro handle v len img x g hq hx hg
    have e : applyQueued q s = applyModelVariantAdd q.cmd h handle v len img (atEdge q h s) := by
      rw [apply_eq a]; simp only [applyOp, hq]
    rw [e]
    unfold applyModelVariantAdd
    simp only [getPolder_atEdge, hx, getGraph_atEdge, getGraph_of_polder hx, hg, activationBlocks_atEdge, imageFault_atEdge,
      limitFault_atEdge]
    refine ⟨fun hb => by rw [if_pos hb], fun hb hu => by rw [if_neg (by simp [hb]), if_pos hu],
      fun hb hu hf => by rw [if_neg (by simp [hb]), if_neg (by simp [hu]), if_pos hf], fun hb hu hf => ?_⟩
    rw [if_neg (by simp [hb]), if_neg (by simp [hu]), if_neg (by simp [hf])]
    refine ⟨fun r hi => by rw [hi], fun pay hi hl => by rw [hi, hl], fun hi hl => ?_⟩
    rw [hi, hl, ← wardensVote_atEdge q h s]
    dsimp only
    obtain ⟨waits, refused⟩ := classS_answer x q.cmd h (atEdge q h s)
    refine ⟨fun hm => ?_, fun hm hS hv => ?_, fun hm hv => ?_⟩
    · rw [if_pos (by simp [hm])]; exact ⟨_, _, rfl⟩
    · rw [if_neg (by simp [hm])]; exact refused hS hv
    · rw [if_neg (by simp [hm])]; exact waits hv
  · intro kind profile width height interval k hq
    have e : applyQueued q s = applyCodecOpen q.cmd h kind profile width height interval k (atEdge q h s) := by
      rw [apply_eq a]; simp only [applyOp, hq]
    rw [e]
    unfold applyCodecOpen
    simp only [isClassS_atEdge, atEdge_tide, activationBlocks_atEdge, graphSource_atEdge, atEdge_codec]
    refine ⟨fun hS => by rw [if_pos hS], fun hS hc => by rw [if_neg (by simp [hS]), if_pos hc], fun hS hc => ?_⟩
    rw [if_neg (by simp [hS]), if_neg (by simp [hc])]
    refine ⟨fun hb => by rw [if_pos hb], fun hb hf => by rw [if_neg (by simp [hb]), if_pos hf], fun hb hf => ?_⟩
    rw [if_neg (by simp [hb]), if_neg (by simp [hf])]
    refine ⟨fun hbad => by rw [if_pos (by simpa using hbad)], fun hr hsrc => ?_⟩
    rw [if_neg (by simpa [hr] using hsrc)]
    exact ⟨fun hn => if_neg (Nat.not_le.mpr hn), fun hn => if_pos hn⟩
  · intro handle x g hq hx hg
    have e : applyQueued q s = applyGraphUnload q.cmd h handle (atEdge q h s) := by
      rw [apply_eq a]; simp only [applyOp, hq]
    refine ⟨fun hu => ?_, fun hr hw => ?_⟩
    · rw [e]
      simp only [applyGraphUnload, getPolder_atEdge, hx, hg]
      exact if_pos (by simpa using hu)
    · obtain ⟨t, ht, gone, hhost, hbinds, hscrub⟩ := applyGraphUnload_unused (c := q.cmd) (h := h) (u := atEdge q h s)
        (by rw [getPolder_atEdge, hx]) hg hr hw
      rw [atEdge_work, atEdge_tide] at hscrub
      exact ⟨t, e.trans ht, gone, hhost, hbinds, hscrub⟩
  · intro handle buf x g hq hx hg
    rw [apply_eq a]
    simp only [applyOp, hq, applyGraphQueryPlacement, getPolder_atEdge, hx, getGraph_atEdge, getGraph_of_polder hx, hg,
      placementReport_atEdge]
    refine ⟨fun hl => if_pos hl, fun hl hf => ?_, fun hl hf => ?_⟩
    · rw [if_neg (Nat.not_lt.mpr hl), if_pos hf]
    · rw [if_neg (Nat.not_lt.mpr hl), if_neg (by simp [hf])]

/-! ## Keys and firmware -/

theorem keyCounter_setCounter (s : State) (n v : Nat) : keyCounter (setCounter s n v) n = v := by
  simp [keyCounter, setCounter]

/-- A rotation that starts advances the counter, and the present generation becomes the previous one. -/
theorem startRotation_state {p : Nat} {c : Instr} {u : State} {x : Polder} (hx : getPolder u p = some x) :
    keyCounter (startRotation p c u) p = keyCounter u p + 1 ∧ (startRotation p c u).host = u.host ∧
      getPolder (startRotation p c u) p = some
        { x with keyGen := keyCounter u p + 1, prevGen := some x.keyGen, rotation := some { cmd := c } } := by
  refine ⟨keyCounter_setCounter u p _, rfl, ?_⟩
  unfold startRotation
  dsimp only
  rw [getPolder_modPolder, show getPolder (setCounter u p (keyCounter u p + 1)) p = some x from hx]
  rfl

/-- A rotation whose switch a live association has still to make is not settled. -/
theorem settleRotations_unswitched {u : State} {m : Nat} {a : Assoc} (hm : (m, a) ∈ u.links.assocs) (hl : a.live = true)
    (hs : a.switchAt.isSome = true) (hw : a.switched = false) : settleRotations u = u := by
  have open_ : allSwitched u = false := by
    refine List.all_eq_false.mpr ⟨(m, a), hm, ?_⟩
    obtain ⟨ix, hix⟩ := Option.isSome_iff_exists.mp hs
    simp [hl, hix, hw]
  unfold settleRotations
  rw [open_]
  rfl

/-- Every live association hears the announcement. -/
theorem announceSwitch_live {u : State} {m : Nat} {a : Assoc} (hm : (m, a) ∈ u.links.assocs) (hl : a.live = true) :
    (m, { a with switchAt := some (u.tide.ix + 16), switched := false }) ∈ (announceSwitch u).links.assocs :=
  List.mem_map.mpr ⟨(m, a), hm, by dsimp only; rw [if_pos hl]⟩

/-- The first link-key rotation is announced to every live association, and waits for them. -/
theorem applyKeyRotateLink_first {c : Instr} {h : Hdr} {u : State} {m : Nat} {a : Assoc} (hk : keyCounter u 64 < 65535)
    (hr : u.links.rotations = []) (hm : (m, a) ∈ u.links.assocs) (hl : a.live = true) :
    ∃ t, applyKeyRotateLink c h u = t ∧ keyCounter t 64 = keyCounter u 64 + 1 ∧
      t.links.rotations = [(c, keyCounter u 64 + 1)] ∧ t.host = u.host ∧
      (m, { a with switchAt := some (u.tide.ix + 16), switched := false }) ∈ t.links.assocs := by
  have switching := announceSwitch_live (m := m) (a := a) (u := { setCounter u 64 (keyCounter u 64 + 1) with
    links.rotations := u.links.rotations ++ [(c, keyCounter u 64 + 1)] }) hm hl
  unfold applyKeyRotateLink
  rw [if_neg (Nat.not_le.mpr hk)]
  dsimp only
  rw [if_pos hr, settleRotations_unswitched switching hl rfl rfl]
  refine ⟨_, rfl, keyCounter_setCounter .., ?_, rfl, switching⟩
  show u.links.rotations ++ [(c, keyCounter u 64 + 1)] = _
  rw [hr]
  rfl

/-- A trial boot of warden B, with power, changes that warden alone. -/
theorem trialBoot_wardenB {u : State} (hb : u.wardens.b.state ≠ .off) :
    ∃ b, trialBoot .B u = { u with wardens.b := b } ∧ b.state = .boot ∧ b.switched = true := by
  unfold trialBoot toBoot
  dsimp only
  rw [getWarden_setWarden, if_neg (by exact hb)]
  exact ⟨_, rfl, rfl, rfl⟩

/-- FW_ACTIVATE that nothing refuses: the activation begins with the trial boot of warden B. -/
theorem applyFwActivate_boots {c : Instr} {h : Hdr} {condition : Nat} {u : State} {i : BankImage}
    (hc : conditionOk u condition = true) (ha : u.startup.activation = none) (hi : u.flash.staged = some i)
    (hv : u.flash.verified = true) (hb : u.wardens.b.state ≠ .off) :
    ∃ t, applyFwActivate c h condition none u = t ∧ t.host = u.host ∧
      t.startup.activation = some { cmd := c, image := i, oldFormat := u.flash.settingsFormat } ∧
      t.wardens.a = u.wardens.a ∧ t.wardens.b.state = .boot ∧ t.wardens.b.switched = true := by
  unfold applyFwActivate
  rw [if_neg (by simp [hc]), if_neg (by simp [ha]), hi, hv]
  dsimp only
  obtain ⟨b, ht, hs, hsw⟩ := trialBoot_wardenB (u := { u with
    startup.activation := some { cmd := c, image := i, oldFormat := u.flash.settingsFormat } }) hb
  exact ⟨_, ht, rfl, rfl, rfl, hs, hsw⟩

/-- Settles O39: the counters and generations of a rotation, the announced switch, and the trial boot of warden B. -/
theorem keysAndFirmwareAtTheirEdge : Obligations.KeysAndFirmwareAtTheirEdge := by
  intro q h s a
  refine ⟨?_, ?_, ?_⟩
  · intro x hq hx
    have e : applyQueued q s = applyKeyRotateMemory q.cmd h (atEdge q h s) := by
      rw [apply_eq a]; simp only [applyOp, hq]
    rw [e]
    unfold applyKeyRotateMemory
    simp only [getPolder_atEdge, hx, keyCounter_atEdge]
    refine ⟨fun hn => if_pos hn, fun hn hr => ?_, fun o hn hr => ?_⟩
    · rw [if_neg (Nat.not_lt.mpr hn), if_neg (by simp [hr])]
      obtain ⟨hc, hh, hp⟩ := startRotation_state (p := polderOf h) (c := q.cmd) (u := atEdge q h s) (x := x)
        (by rw [getPolder_atEdge, hx])
      rw [keyCounter_atEdge] at hc hp
      exact ⟨_, rfl, hc, hh, hp⟩
    · rw [if_neg (Nat.not_lt.mpr hn), if_pos (by simp [hr])]
  · intro k hq
    have e : applyQueued q s = applyKeyRotateLink q.cmd h (atEdge q h s) := by
      rw [apply_eq a]; simp only [applyOp, hq]
    rw [e, ← keyCounter_atEdge q h s, ← atEdge_links q h s, ← atEdge_tide q h s]
    exact ⟨fun hk => if_pos hk, fun m b hk hr hm hl => applyKeyRotateLink_first hk hr hm hl⟩
  · intro condition x hq
    have e : applyQueued q s = applyFwActivate q.cmd h condition x (atEdge q h s) := by
      rw [apply_eq a]; simp only [applyOp, hq]
    rw [e]
    rw [← conditionOk_atEdge q h s, ← atEdge_startup q h s, ← atEdge_flash q h s, ← atEdge_wardens q h s]
    refine ⟨fun hc => ?_, fun hc ha => ?_, fun hc ha hi => ?_, fun i hc ha hi hv => ⟨fun code p hx => ?_, fun hx hb => ?_⟩⟩
    · exact if_pos (by simp [hc])
    · rw [applyFwActivate, if_neg (by simp [hc]), if_pos ha]
    · rw [applyFwActivate, if_neg (by simp [hc]), if_neg (by rw [ha]; simp)]
      rcases hi with hi | hi
      · rw [hi]
      · rw [hi]; cases (atEdge q h s).flash.staged <;> rfl
    · rw [applyFwActivate, if_neg (by simp [hc]), if_neg (by rw [ha]; simp), hi, hv, hx]
    · rw [hx]; exact applyFwActivate_boots hc ha hi hv hb

/-! ## The reset of a polder -/

/-- The keys of the polders' table say which polders there are. -/
theorem getPolder_isSome_of_keys {u s : State} (hk : polderKeys u = polderKeys s) (r : Nat) :
    (getPolder u r).isSome = (getPolder s r).isSome := by
  have core (v : State) : (getPolder v r).map pcore = tget (polderKeys v) r := (tget_map v.work.polders r pcore).symm
  have := congrArg Option.isSome ((core u).trans ((congrArg (tget · r) hk).trans (core s).symm))
  simpa using this

/-- What a reset leaves of its polder, and that nothing of it waits. -/
structure ResetLeaves (p : Nat) (d : Bool) (x : Polder) (s t : State) : Prop where
  blank : ∃ y, getPolder t p = some (blankPolder d y) ∧ pcore y = pcore x
  queued : ∀ k ∈ t.tide.queued, ofPolder p k.cmd = false
  decisions : ∀ e ∈ t.work.decisions, ofPolder p e.cmd = false
  binds : ∀ b ∈ t.work.binds, b.polder ≠ p
  sessions : ∀ c ∈ t.codec.sessions, c.2.polder ≠ p
  others : ∀ r, r ≠ p → (getPolder t r).isSome = (getPolder s r).isSome

theorem ResetLeaves.of_atEdge {p : Nat} {d : Bool} {x : Polder} {q : Queued} {h : Hdr} {s t : State}
    (r : ResetLeaves p d x (atEdge q h s) t) : ResetLeaves p d x s t :=
  { r with others := fun n hn => by rw [r.others n hn, getPolder_atEdge] }

theorem resetPolder_leaves {p : Nat} {d : Bool} {c : Option Instr} {td : Bool} {s : State} {x : Polder}
    (hx : getPolder s p = some x) (hr : (x.resetting && (!d || x.destroying)) = false) :
    ResetLeaves p d x s (resetPolder p d c td s) := by
  obtain ⟨u, keys, queued, decisions, binds, sessions, sc, ns, rl, no, ts, es, e, y, hy, core⟩ :=
    reset_state p d c td s x hx hr
  rw [e]
  refine ⟨⟨y, ?_, core⟩, queued, decisions, binds, sessions, fun r hrp => ?_⟩
  · exact (getPolder_modPolder u p (blankPolder d)).trans (by rw [hy]; rfl)
  · exact (congrArg _ (getPolder_modPolder_other u p r (blankPolder d) hrp)).trans (getPolder_isSome_of_keys keys r)

/-- Settles O40: a reset that begins blanks the polder (`resetPolder_leaves`); one that runs is waited for or refused. -/
theorem resetEmptiesPolder : Obligations.ResetEmptiesPolder := by
  intro q s p x hx
  refine ⟨fun hr => ⟨fun hq => ?_, fun hq => ?_⟩, fun h a hp hq hd => ?_, fun hcases => ?_⟩
  · simp only [applyQueued, hq, resetPolder, hx, hr, Bool.not_false, Bool.true_or, Bool.and_true, if_true]
  · simp only [applyQueued, hq, resetPolder, hx, hr, Bool.not_false, Bool.true_or, Bool.and_true, if_true]
  · subst hp
    rw [apply_eq a]
    simp only [applyOp, hq, applyPolderDestroy, getPolder_atEdge, hx, hd, if_true]
  · have reset : ∃ d, ResetLeaves p d x s (applyQueued q s) ∧ ((∃ h, q.cmd = .polderDestroy h) → d = true) := by
      rcases hcases with ⟨h, a, rfl, hq, hr⟩ | ⟨h, a, rfl, hq, hd⟩ | ⟨hq, hr⟩
      · have e : applyQueued q s = resetPolder (polderOf h) false (some q.cmd) false (atEdge q h s) := by
          rw [apply_eq a]; simp only [applyOp, hq, applyPolderReset]
        rw [e]
        exact ⟨false, (resetPolder_leaves (by rw [getPolder_atEdge, hx]) (by simp [hr])).of_atEdge, by simp [hq]⟩
      · have e : applyQueued q s = resetPolder h.polder true (some q.cmd) false (atEdge q h s) := by
          rw [apply_eq a]
          simp only [applyOp, hq, applyPolderDestroy, getPolder_atEdge, hx, hd, Bool.false_eq_true, if_false]
        rw [e]
        exact ⟨true, (resetPolder_leaves (by rw [getPolder_atEdge, hx]) (by simp [hd])).of_atEdge, fun _ => rfl⟩
      · obtain ⟨td, e⟩ : ∃ td, applyQueued q s = resetPolder p false none td s := by
          rcases hq with hq | hq <;> simp only [applyQueued, hq] <;> exact ⟨_, rfl⟩
        rw [e]
        exact ⟨false, resetPolder_leaves hx (by simp [hr]), by rcases hq with hq | hq <;> simp [hq]⟩
    obtain ⟨d, ⟨⟨y, hy, core⟩, queued, decisions, binds, sessions, others⟩, destroyed⟩ := reset
    simp only [pcore, Prod.mk.injEq] at core
    obtain ⟨hcls, hsl, -, hsram, hhbm, hspill, hgen, hdes⟩ := core
    refine ⟨_, _, rfl, hy, rfl, rfl, rfl, rfl, rfl, rfl, rfl, hcls, hsl, hsram, hhbm, hspill, hgen, fun hd => ?_,
      fun hc => ?_, queued, decisions, binds, sessions, others⟩
    · simp [blankPolder, hdes, hd]
    · simp [blankPolder, destroyed hc]

end Sys2Proof.Proofs
end

section
/-! The supplies of the module: mating, the 48 V input and the auxiliary inputs (O42, O43). -/

namespace Sys2Proof.Proofs
open Sys2Proof Sys2Proof.Machine Sys2Proof.Safety Sys2Proof.Laws

/-! ## What powers the main package down -/

/-- SAFE_HOLD by a row that powers the package down: the switch is open, no tide runs, and the input's own records stay. -/
theorem enterHold_down (row : Nat) (s : State) (h : row = 6 ∨ row = 8) :
    (enterHold row s).aon = { s.aon with
      replace := s.aon.replace || 0 / 2 % 2 = 1, held := none, switchClosed := false, downRow := some row } ∧
    (enterHold row s).tide.running = false ∧ (enterHold row s).safety.hold.isSome = true := by
  rw [enterHold_powersDown row s h]
  obtain ⟨haon, hhold⟩ := declareHold_aon row (abandonActivation s)
  rw [abandonActivation_aon] at haon
  refine ⟨?_, rfl, hhold⟩
  show { (declareHold row (abandonActivation s)).aon with held := none, switchClosed := false, downRow := some row } = _
  rw [haon]

/-- A forced drop and the health vector of a sag, which a powered module sees. -/
theorem execSagWarn_first {v : Nat} {s : State} (hv : v < 4200) (hs : s.aon.sagWarn = false) :
    ∃ t, exec (.sagWarn v) s = .next t ∧ t.aon = { s.aon with
      vin48 := v, sagWarn := true, sagSeen := true, sagCount := min 65535 (s.aon.sagCount + 1) } ∧
      (mainUp s = true → t.power.op = 0 ∧ t.power.forced = true ∧ t.power.raising = false) ∧
      (mainUp s = false → t.power = s.power) := by
  refine ⟨_, rfl, ?_⟩
  rw [if_neg (by omega), hs, if_neg Bool.false_ne_true]
  generalize hu : ({ s with
    aon.vin48 := v
    aon.sagWarn := true
    aon.sagSeen := true
    aon.sagCount := min 65535 (s.aon.sagCount + 1) } : State) = u
  have ha : u.aon = { s.aon with
      vin48 := v, sagWarn := true, sagSeen := true, sagCount := min 65535 (s.aon.sagCount + 1) } := by rw [← hu]
  have hp : u.power = s.power := by rw [← hu]
  have hm : mainUp u = mainUp s := by rw [← hu]; rfl
  dsimp only
  cases h : mainUp s with
  | false =>
    rw [hm, h, if_neg Bool.false_ne_true]
    exact ⟨ha, fun hc => absurd hc (by decide), fun _ => hp⟩
  | true =>
    rw [hm, h, if_pos rfl]
    obtain ⟨haon, -, hpow, -⟩ := hostOnly_parts ((raisePf0_hostOnly 17 (forceDrop u)).trans (wakeEvent_hostOnly _))
    exact ⟨haon.trans ha, fun _ => by rw [hpow]; exact ⟨rfl, rfl, rfl⟩, fun hc => absurd hc (by decide)⟩

/-- The rail at which pre-charge was completed lies between reset and trip, and is the last one seen where that does. -/
theorem railVoltage_range (s : State) : 3800 ≤ railVoltage s ∧ railVoltage s ≤ 6000 ∧
    (3800 ≤ s.aon.vin48 → s.aon.vin48 ≤ 6000 → railVoltage s = s.aon.vin48) := by
  unfold railVoltage
  split
  · rename_i h
    simp only [Bool.and_eq_true, decide_eq_true_eq] at h
    exact ⟨h.1, h.2, fun _ _ => rfl⟩
  · rename_i h
    simp only [Bool.and_eq_true, decide_eq_true_eq, not_and] at h
    exact ⟨by omega, by omega, fun h1 h2 => absurd h2 (h h1)⟩

theorem mayClose_iff (s : State) : mayClose s = true ↔
    s.aon.up = true ∧ s.aon.switchClosed = false ∧ (s.aon.mated = false ∨ s.aon.downRow = none ∨ s.aon.downRow = some 9) := by
  cases hr : s.aon.downRow <;> simp [mayClose, hr, and_assoc]

/-- A mate pin that opens: the switch is open, and a module whose switch was closed is powered down. -/
theorem exec_mateSenseOpen {pin : Nat} {s : State} (hp : pin < 2) :
    ∃ t, exec (.mateSenseOpen pin) s = .next t ∧ t.aon.mated = false ∧ t.aon.switchClosed = false ∧
      (s.aon.switchClosed = true → t.tide.running = false ∧ t.tide.discard = true ∧ t.host.linkUp = false) := by
  refine ⟨_, rfl, ?_⟩
  rw [if_neg (by omega)]
  obtain ⟨haon, -⟩ := hostOnly_parts (pinLevel_hostOnly (4 + pin) { s with aon.mated := false })
  dsimp only
  generalize pinLevel (4 + pin) { s with aon.mated := false } = u at haon ⊢
  cases hc : s.aon.switchClosed with
  | false =>
    rw [haon, if_neg (by simp [hc])]
    exact ⟨by rw [haon], by rw [haon]; exact hc, fun h => absurd h (by decide)⟩
  | true =>
    rw [haon, if_pos hc]
    exact ⟨by show u.aon.mated = false; rw [haon], rfl, fun _ => ⟨rfl, rfl, rfl⟩⟩

/-- A voltage outside 38 V to 60 V: the switch is open, and a module whose switch was closed is down by row 10. -/
theorem exec_trip48 {v : Nat} {s : State} (hv : v < 3800 ∨ 6000 < v) :
    ∃ t, exec (.trip48 v) s = .next t ∧ t.aon.vin48 = v ∧ t.aon.trip48Seen = true ∧ t.aon.switchClosed = false ∧
      (s.aon.switchClosed = true → t.aon.downRow = some 10 ∧ t.tide.running = false) := by
  refine ⟨_, rfl, ?_⟩
  rw [if_neg (by simp; omega)]
  dsimp only
  by_cases hc : s.aon.switchClosed = true
  · rw [if_neg (by simp [hc])]
    split
    · obtain ⟨haon, hrun, -⟩ := enterHold_down 6 { s with aon.vin48 := v, aon.trip48Seen := true } (.inl rfl)
      refine ⟨?_, ?_, ?_, fun _ => ⟨rfl, hrun⟩⟩ <;> simp only [haon]
    · exact ⟨rfl, rfl, rfl, fun _ => ⟨rfl, rfl⟩⟩
  · rw [if_pos (by simp [hc])]
    exact ⟨rfl, rfl, by simpa using hc, fun h => absurd h hc⟩

/-- Settles O42: each event by its conditions; the powered cases go through SAFE_HOLD (`enterHold_down`). -/
theorem inputSupplyEvents : Obligations.InputSupplyEvents := by
  intro s
  refine ⟨fun pin hp => exec_mateSenseOpen hp, fun pin hp => congrArg _ (if_pos hp), fun boot hu hc hm => ?_,
    fun boot h => congrArg _ (if_neg ?_), fun v hv => congrArg _ (if_pos hv), fun v hv hs => ?_,
    fun v hv hs => execSagWarn_first hv hs, fun v hs hv => congrArg _ (if_pos ?_), fun v h => congrArg _ (if_neg ?_),
    fun v h1 h2 => congrArg _ (if_pos ?_), fun v hv => exec_trip48 hv, fun boot hu hm hc hr => ?_,
    fun boot h => congrArg _ (if_neg ?_), fun boot hu hm hc hr ha hh => congrArg _ (if_pos ?_),
    fun boot h => congrArg _ (if_neg ?_)⟩
  · obtain ⟨h1, h2, h3⟩ := railVoltage_range s
    exact ⟨railVoltage s, h1, h2, h3, congrArg _ (if_pos ((mayClose_iff s).mpr ⟨hu, hc, hm⟩))⟩
  · rw [mayClose_iff]
    rintro ⟨hu, hc, hm⟩
    rcases h with h | h | ⟨hmated, hnone, hnine⟩
    · rw [hu] at h; cases h
    · rw [hc] at h; cases h
    · rcases hm with hm | hm | hm
      · rw [hm] at hmated; cases hmated
      · exact hnone hm
      · exact hnine hm
  · exact congrArg _ ((if_neg (by omega)).trans (if_pos hs))
  · simp [hs, hv]
  · rcases h with h | h
    · simp [h]
    · simp [Nat.not_lt.mpr h]
  · simp [h1, h2]
  · refine ⟨4300 + (Config.freeWord s.fresh).toNat % 1501, by omega, by omega, congrArg _ (if_pos ?_)⟩
    simp [hu, hm, hc, hr]
  · rcases h with h | h | h | h <;> simp [h]
  · simpa [hu, hm, hc, ha] using ⟨hr, hh⟩
  · simp only [Bool.and_eq_true, Bool.or_eq_true, Bool.not_eq_true', decide_eq_true_eq, List.all_eq_true, List.mem_range]
    rintro ⟨⟨⟨⟨⟨hu, hm⟩, hc⟩, hr⟩, ha⟩, hh⟩
    rcases h with h | h | h | ⟨h6, h8⟩ | h | ⟨i, hi, h⟩
    · rw [hu] at h; cases h
    · rw [hm] at h; cases h
    · rw [hc] at h; cases h
    · exact hr.elim h6 h8
    · omega
    · exact absurd (hh i hi) (Int.not_lt.mpr h)

/-! ## The auxiliary inputs -/

@[simp] theorem auxOn_setAux (s : State) (w : Warden) (v : Nat) (p q : Bool) : auxOn (setAux w v p q s) w = p := by
  cases w <;> rfl

theorem getWarden_setAux (s : State) (w x : Warden) (v : Nat) (p q : Bool) :
    getWarden (setAux w v p q s) x = getWarden s x := by cases w <;> cases x <;> rfl

/-- A warden whose supply is back boots if it was off, and only then changes; nothing but it does. -/
theorem wardenRise_eq (w : Warden) (s : State) : wardenRise w s = setWarden s w
    (if (getWarden s w).state = .off then { getWarden s w with state := .boot } else getWarden s w) := by
  unfold wardenRise
  dsimp only
  split
  · rfl
  · cases w <;> rfl

theorem getWarden_setWarden_other (s : State) (w : Warden) (x : WardenSt) :
    getWarden (setWarden s w x) (otherWarden w) = getWarden s (otherWarden w) := by cases w <;> rfl

theorem auxOn_setWarden (s : State) (w x : Warden) (y : WardenSt) : auxOn (setWarden s w y) x = auxOn s x := by
  cases w <;> cases x <;> rfl

/-- An auxiliary input's voltage, and the record that it fell below 8 V. -/
def auxVolts (s : State) : Warden → Nat
  | .A => s.aon.auxA
  | .B => s.aon.auxB
def auxOffSeen (s : State) : Warden → Bool
  | .A => s.aon.auxAOffSeen
  | .B => s.aon.auxBOffSeen

/-- An auxiliary input that falls takes its warden's supply; the AON logic's too, with presence, where the other one is gone. -/
theorem exec_auxOff {w : Warden} {s : State} (h : auxOn s w = true) :
    ∃ t, exec (.auxOff w) s = .next t ∧ getWarden t w = wardenOff (getWarden s w) ∧
      getWarden t (otherWarden w) = getWarden s (otherWarden w) ∧ auxVolts t w < 800 ∧ auxOn t w = false ∧
      auxOffSeen t w = true ∧
      (auxOn s (otherWarden w) = true → t.aon.up = s.aon.up ∧ t.aon.presence = s.aon.presence) ∧
      (auxOn s (otherWarden w) = false → t.aon.up = false ∧ t.aon.presence = false) := by
  refine ⟨_, rfl, ?_⟩
  rw [if_neg (by simp [h])]
  have hmv : (Config.freeWord s.fresh).toNat % 800 < 800 := Nat.mod_lt _ (by decide)
  cases w
  all_goals
    dsimp only
    split
    · rename_i ho
      exact ⟨rfl, rfl, hmv, rfl, rfl, fun _ => ⟨rfl, rfl⟩, fun hn => absurd (Eq.trans (Eq.symm hn) ho) (by decide)⟩
    · rename_i ho
      exact ⟨rfl, rfl, hmv, rfl, rfl, fun hn => absurd hn ho, fun _ => ⟨rfl, rfl⟩⟩

/-- An auxiliary input that rises gives its warden its supply, and leaves the other one alone. -/
theorem exec_auxRise {w : Warden} {v : Nat} {s : State} (hu : s.aon.up = true) (ho : auxOn s w = false) (hv : 950 < v) :
    ∃ t, exec (.auxRise w v) s = .next t ∧ auxOn t w = true ∧
      ((getWarden s w).state = .off → getWarden t w = { getWarden s w with state := .boot }) ∧
      ((getWarden s w).state ≠ .off → getWarden t w = getWarden s w) ∧
      getWarden t (otherWarden w) = getWarden s (otherWarden w) := by
  refine ⟨_, rfl, ?_⟩
  rw [if_pos (by simp [hu, ho, hv]), wardenRise_eq, getWarden_setAux, getWarden_setWarden, getWarden_setWarden_other,
    getWarden_setAux, auxOn_setWarden, auxOn_setAux]
  exact ⟨rfl, fun h => if_pos h, fun h => if_neg h, rfl⟩

/-- The AON logic after its reset, before the warden of the input that rose boots. -/
theorem exec_aonPowerOn {w : Warden} {slot : Nat} {s : State} (h : s.aon.up = false ∨ s.aon.clockLost = true) :
    ∃ t, exec (.aonPowerOn w slot) s = .next t ∧ t.aon.up = true ∧ auxOn t w = true ∧ t.aon.slotId = slot % 32 ∧
      t.aon.presence = false ∧ t.aon.broken = s.aon.broken ∧ t.aon.breaks = s.aon.breaks ∧ t.aon.clockLost = false ∧
      t.startup.tap = 0x01 ∧ t.power.hotspots = [] ∧
      ((getWarden s w).state = .off → (getWarden t w).state = .boot) ∧
      (s.aon.clockLost = false → (getWarden s w).state = .off →
        getWarden t w = { getWarden s w with state := .boot }) := by
  refine ⟨_, rfl, ?_⟩
  rw [if_neg (by rcases h with h | h <;> simp [h])]
  dsimp only
  generalize hu : (if s.aon.clockLost = true then recordBreach 0x17 2 255 255 255 90 0 s else s) = u
  have hw : u.wardens = s.wardens := by rw [← hu]; split <;> rfl
  have hbroken : u.aon.broken = s.aon.broken := by rw [← hu]; split <;> rfl
  have hbreaks : u.aon.breaks = s.aon.breaks := by rw [← hu]; split <;> rfl
  rw [← getWarden_of hw w, wardenRise_eq, getWarden_setWarden, getWarden_setAux, auxOn_setWarden, auxOn_setAux, ← hbroken,
    ← hbreaks]
  cases w
  all_goals
    refine ⟨rfl, rfl, rfl, rfl, rfl, rfl, rfl, rfl, rfl, fun hoff => ?_, fun _ hoff => ?_⟩
    · exact congrArg WardenSt.state (if_pos hoff)
    · exact if_pos hoff

/-- Settles O43: the two inputs by their own fields, the wardens by what an input gives and takes. -/
theorem auxiliarySupplyEvents : Obligations.AuxiliarySupplyEvents := by
  intro s
  refine ⟨fun v ha hv => congrArg _ (if_pos ?_), fun v hb hv => congrArg _ (if_pos ?_),
    fun v ha hv => congrArg _ (if_pos ?_), fun v hb hv => congrArg _ (if_pos ?_),
    fun w v => ⟨fun h => congrArg _ (if_neg ?_), fun h => congrArg _ (if_neg ?_)⟩, fun ha => exec_auxOff (w := .A) ha,
    fun hb => exec_auxOff (w := .B) hb, fun w h => congrArg _ (if_pos ?_), fun w v hu ho hv => exec_auxRise hu ho hv,
    fun w v h => congrArg _ (if_neg ?_), fun w slot h => exec_aonPowerOn h, fun w slot hu hc => congrArg _ (if_pos ?_)⟩
  · simp [auxOn, ha, hv]
  · simp [auxOn, hb, hv]
  · simp [auxOn, ha, hv]
  · simp [auxOn, hb, hv]
  · rcases h with h | h
    · simp [h]
    · simp [Nat.not_lt.mpr h]
  · rcases h with h | h
    · simp [h]
    · simp [Nat.not_lt.mpr h]
  · simp [h]
  · rcases h with h | h | h
    · simp [h]
    · simp [h]
    · simp [Nat.not_lt.mpr h]
  · simp [hu, hc]

end Sys2Proof.Proofs
end

section
/-! Coolant and power events (O44, O45). -/

namespace Sys2Proof.Proofs
open Sys2Proof Sys2Proof.Machine Sys2Proof.Safety Sys2Proof.Laws

/-! ## Coolant -/

/-- Settles O44: each event by its counts; only the shed touches more than the power side, and it keeps that (R370). -/
theorem coolantEvents : Obligations.CoolantEvents := by
  intro s
  have inside : (List.range 146).all (fun i => decide (forecastOf s i ≤ paceLimit i)) = true ↔
      ∀ i, i < 146 → forecastOf s i ≤ paceLimit i := by simp
  refine ⟨fun flow inlet outlet rise => ?_, fun h hw => congrArg _ (if_pos ?_), fun h => congrArg _ (if_neg ?_),
    fun h => congrArg _ (if_pos h), fun h => congrArg _ (if_neg (Nat.not_le.mpr h)),
    fun h hs => ⟨_, congrArg Host.Outcome.next (if_pos ?_), rfl, ?_⟩, fun h => congrArg _ (if_neg ?_), fun h => congrArg _ (if_pos h),
    fun h => congrArg _ (if_neg (Nat.not_le.mpr h)), fun h hs => congrArg _ (if_pos ?_), fun h => congrArg _ (if_neg ?_),
    fun hs ha hf => congrArg _ (if_pos ?_), fun h => congrArg _ (if_neg ?_)⟩
  · show execCoolantSample flow inlet outlet rise s = _
    unfold execCoolantSample countIf
    simp only [Bool.not_eq_true']
    cases flowBelow s flow 75 <;> cases flowBelow s flow 45 <;> cases flowBelow s flow 40 <;> cases flowBelow s flow 70 <;> rfl
  · simp [h, hw]
  · rcases h with h | h
    · simp [Nat.not_le.mpr h]
    · simp [h]
  · simp [h, hs]
  · obtain ⟨-, -, hp, -⟩ := hostOnly_parts (wakeEvent_hostOnly (shedClassB { s with power.flowShed := true }))
    rw [hp, shedClassB_power]
  · rcases h with h | h
    · simp [Nat.not_le.mpr h]
    · simp [h]
  · simp only [hs, Bool.not_false, Bool.and_true, Bool.or_eq_true, decide_eq_true_eq]; exact h
  · rcases h with ⟨hb, hr⟩ | h
    · simp [Nat.not_le.mpr hb, hr]
    · simp [h]
  · simp only [Bool.and_eq_true, decide_eq_true_eq]; exact ⟨⟨hs, ha⟩, inside.mpr hf⟩
  · simp only [Bool.and_eq_true, decide_eq_true_eq]
    rintro ⟨⟨hs, ha⟩, hf⟩
    rcases h with h | h | ⟨i, hi, h⟩
    · rw [hs] at h; cases h
    · omega
    · exact absurd (inside.mp hf i hi) (Int.not_le.mpr h)

/-! ## The ladder, the cap and the brake -/

/-- The report of a deficit writes a record, and nothing of the power side. -/
theorem reportDeficit_power (s : State) : (reportDeficit s).power = s.power := by
  unfold reportDeficit
  split
  · exact (hostOnly_parts (answer_hostOnly ..)).2.2.1
  · rfl

/-- A rung that climbs starts its counts anew; the third one is climbed in silence. -/
theorem exec_rungClimb {s : State} (hc : 4 ≤ s.power.climbTides) (hr : s.power.rung < 3) :
    ∃ t, exec .rungClimb s = .next t ∧ t.power = { s.power with
      rung := s.power.rung + 1, climbTides := 0, liftTides := 0, rung3Tides := 0, reported3 := false } ∧
      (s.power.rung = 2 → t = { s with power := t.power }) := by
  refine ⟨_, rfl, ?_⟩
  rw [if_neg (by simp [Nat.not_lt.mpr hc, Nat.not_le.mpr hr])]
  dsimp only
  have hp : (if s.power.rung = 0 then reportDeficit s else s).power = s.power := by
    split
    · exact reportDeficit_power s
    · rfl
  refine ⟨?_, fun h2 => by
    rw [if_neg (show ¬ s.power.rung = 0 by omega), if_neg (show ¬ s.power.rung + 1 = 2 by omega)]⟩
  generalize (if s.power.rung = 0 then reportDeficit s else s) = u at hp ⊢
  split
  · rw [shedClassB_power, hp]
  · rw [hp]

/-- Two diodes of one place that are too hot power the main package down. -/
theorem exec_thermalComparatorTrip {i : Nat} {a b : Int} {s : State} (hm : mainUp s = true) (hi : i < 130) (ha : 118 ≤ a)
    (ha' : a ≤ 150) (hb : 118 ≤ b) (hb' : b ≤ 150) :
    ∃ t, exec (.thermalComparatorTrip i a b) s = .next t ∧ t.aon.switchClosed = false ∧ t.aon.downRow = some 8 ∧
      t.tide.running = false ∧ t.safety.hold.isSome = true := by
  obtain ⟨haon, hrun, hhold⟩ := enterHold_down 8 s (.inr rfl)
  exact ⟨_, congrArg Host.Outcome.next (if_pos (by simp [hm, hi, ha, ha', hb, hb'])), by rw [haon], by rw [haon], hrun, hhold⟩

/-- The brake: OP0 at once where the package is powered. -/
theorem exec_brakeAssert (s : State) :
    ∃ t, exec .brakeAssert s = .next t ∧ t.aon = { s.aon with brakeLow := true } ∧ t.power.brake = true ∧
      t.power.brakeHighIx = none ∧ (mainUp s = true → t.power.op = 0 ∧ t.power.forced = true) := by
  refine ⟨_, rfl, ?_⟩
  obtain ⟨haon, -, hpow, -, hsafe, -⟩ := hostOnly_parts
    (pinLevel_hostOnly 0 { s with aon.brakeLow := true, power.brakeHighIx := none })
  generalize pinLevel 0 { s with aon.brakeLow := true, power.brakeHighIx := none } = u at haon hpow hsafe ⊢
  have hm : mainUp u = mainUp s := by unfold mainUp; rw [haon, hsafe]
  dsimp only
  split
  · exact ⟨haon, rfl, by show u.power.brakeHighIx = none; rw [hpow], fun _ => ⟨rfl, rfl⟩⟩
  · rename_i h
    exact ⟨haon, rfl, by show u.power.brakeHighIx = none; rw [hpow], fun hs => absurd (hm.trans hs) h⟩

/-- Settles O45: the ladder by its counts, the model's check by its three phases, the lease by its command. -/
theorem powerEvents : Obligations.PowerEvents := by
  intro s
  refine ⟨exec_rungClimb, fun h => congrArg _ (if_pos ?_), fun h hr => congrArg _ (if_neg ?_), fun h => congrArg _ (if_pos ?_),
    fun hm => ⟨fun h => ?_, fun h1 h2 => ?_⟩,
    fun hm => ⟨fun hq => ?_, fun q hq => ⟨fun h => ?_, fun h hr => ?_, fun h hr => ?_⟩⟩,
    fun i hs => ⟨fun h => congrArg _ (if_pos ?_), fun h => ?_⟩, fun i hs => ⟨fun h => ?_, fun h => ?_⟩, fun h => ?_,
    fun l h hl hh => ⟨fun hq => ?_, fun hq => ?_⟩,
    fun i a b hm hi h1 h2 h3 h4 => exec_thermalComparatorTrip hm hi h1 h2 h3 h4, fun i a b h => congrArg _ (if_neg ?_),
    exec_brakeAssert s, fun h => congrArg _ (if_pos h), fun h => congrArg _ (if_neg (by simp [h]))⟩
  · simpa using h
  · simp [Nat.not_lt.mpr h, hr]
  · simpa using h
  · exact congrArg _ ((if_pos (by simp [hm])).trans (if_pos (by simpa using h)))
  · exact congrArg _ ((if_pos (by simp [hm])).trans (if_neg (by simp [Nat.not_le.mpr h1, Nat.not_le.mpr h2])))
  · show execPowerModelMismatch s = _
    simp only [execPowerModelMismatch, hm, hq, Bool.not_true, Bool.false_eq_true, if_false]
  · show execPowerModelMismatch s = _
    simp only [execPowerModelMismatch, hm, hq, Bool.not_true, Bool.false_eq_true, if_false]
    rw [if_pos h]
  · show execPowerModelMismatch s = _
    simp only [execPowerModelMismatch, hm, hq, Bool.not_true, Bool.false_eq_true, if_false]
    rw [if_neg (Nat.not_lt.mpr h), if_pos hr]
  · show execPowerModelMismatch s = _
    simp only [execPowerModelMismatch, hm, hq, Bool.not_true, Bool.false_eq_true, if_false]
    rw [if_neg (Nat.not_lt.mpr h), if_neg (Nat.not_le.mpr hr)]
  · simp [h, hs]
  · exact congrArg _ ((if_neg (by simp [Nat.not_le.mpr h])).trans (if_neg (by simp [hs])))
  · exact congrArg _ ((if_neg (by simp [hs])).trans (if_pos (by simp [h, hs])))
  · exact congrArg _ ((if_neg (by simp [hs])).trans (if_neg (by simp [Nat.not_le.mpr h])))
  · show Host.Outcome.next (expireLease s) = _
    rw [expireLease, h]
  · show Host.Outcome.next (expireLease s) = _
    rw [expireLease, hl]
    dsimp only
    rw [if_neg (Nat.not_lt.mpr hq), finishCmd, hh]
    rfl
  · show Host.Outcome.next (expireLease s) = _
    rw [expireLease, hl]
    dsimp only
    rw [if_pos hq]
  · simp only [Bool.and_eq_true, decide_eq_true_eq]
    rintro ⟨⟨⟨hm, hi⟩, ha⟩, hb⟩
    rcases h with h | h
    · rw [hm] at h; cases h
    · omega

end Sys2Proof.Proofs
end

section
/-! The tide edge, the time sources and the clocks (O46, O47, O48). -/

namespace Sys2Proof.Proofs
open Sys2Proof Sys2Proof.Machine Sys2Proof.Safety Sys2Proof.Laws

/-! ## The tide edge -/

/-- An edge that falls on running tides is the edge between two of them. -/
theorem exec_tideEdge_running {e : EdgeIn} {s : State} (hm : mainUp s = true) (hl : timeLost s = false)
    (hr : s.tide.running = true) : exec (.tideEdge e) s = .next (nextEdge e s) := by
  show execTideEdge e s = _
  rw [execTideEdge, if_neg (by simp [hm, hl]), if_pos hr]

/-- How the tide that closes ends: it is discarded, in a restart it has nothing to commit, else it commits. -/
def closing (s s0 : State) : State → State :=
  if s0.tide.discard then discardTide s.tide.ix
  else if restarting s && !s.tide.discard then id else commitTide s.tide.ix

theorem closing_apply (s s0 u : State) : closing s s0 u =
    if s0.tide.discard then discardTide s.tide.ix u
    else if restarting s && !s.tide.discard then u else commitTide s.tide.ix u := by
  unfold closing
  split
  · rfl
  · split <;> rfl

/-- Settles O46: `nextEdge` written out in its order, with the last count apart. -/
theorem tideEdgeFalls : Obligations.TideEdgeFalls := by
  intro e s
  refine ⟨fun x => ⟨rfl, rfl, fun h => if_pos h⟩, fun hm hl hr s0 hs0 => ⟨fun h0 => ?_, fun h0 close u hclose hu => ⟨fun hn => ?_,
    fun hn => ?_⟩⟩, fun h => congrArg _ (if_pos ?_), fun hr h => ?_, fun hm hl hr hd hx => ?_⟩
  · rw [exec_tideEdge_running hm hl hr, nextEdge]
    dsimp only
    rw [← hs0, if_pos (by simp [h0])]
  · rw [exec_tideEdge_running hm hl hr, nextEdge, show close = closing s s0 from hclose, closing_apply]
    dsimp only
    rw [← hs0, if_neg (by simp [h0]), if_neg hn, if_neg hn, ← hu]
  · rw [exec_tideEdge_running hm hl hr, nextEdge, show close = closing s s0 from hclose, closing_apply]
    dsimp only
    rw [← hs0, if_neg (by simp [h0]), if_pos hn, if_pos hn, ← hu]
  · rcases h with h | h <;> simp [h]
  · show execTideEdge e s = _
    rw [execTideEdge]
    split
    · rfl
    · rw [if_neg (by simp [hr]), if_pos (by simpa using h)]
  · show execTideEdge e s = _
    rw [execTideEdge, if_neg (by simp [hm, hl]), if_neg (by simp [hr]), if_neg (by simp [hd, hx])]

/-! ## Time sources -/

/-- A member that no forwarded command of this origin awaits answers nothing. -/
theorem memberStatus_unawaited {m : Nat} {seq : Word} {st r : Nat} {s : State} (h : ∀ f ∈ s.links.forwards, m ∉ f.waiting) :
    memberStatus m seq st r s = s := by
  unfold memberStatus
  split
  · rfl
  · rename_i f hf
    exact if_neg (h f (List.mem_of_find?_eq_some hf))

theorem foldl_memberStatus_unawaited {m : Nat} {st r : Nat} {s : State} (h : ∀ f ∈ s.links.forwards, m ∉ f.waiting)
    (l : List ForwardWait) : l.foldl (fun u f => memberStatus m f.seq st r u) s = s := by
  induction l with
  | nil => rfl
  | cons f l ih => rw [List.foldl_cons, memberStatus_unawaited h, ih]

/-- A member's failure on the one forwarded command that awaits it. -/
theorem memberStatus_single {m st r : Nat} {s : State} {f : ForwardWait} (hs : s.links.forwards = [f]) (hm : m ∈ f.waiting)
    (hst : st ≠ 0) : memberStatus m f.seq st r s =
      if f.waiting.filter (· ≠ m) = [] then
        settleForward { f with waiting := f.waiting.filter (· ≠ m), failed := f.failed ++ [(m, st, r)] } s
      else { s with links.forwards :=
        [{ f with waiting := f.waiting.filter (· ≠ m), failed := f.failed ++ [(m, st, r)] }] } := by
  unfold memberStatus
  have hf : [f].find? (fun x => decide (x.seq = f.seq)) = some f := by simp
  simp only [hs, hf, hm, hst, if_true, if_false, List.map_cons, List.map_nil]

/-- Settles O47: the Sync by its port, domain and count, the failed member by the commands that await it. -/
theorem timeEvents : Obligations.TimeEvents := by
  intro s
  refine ⟨fun port domain off hs hp hd => ?_, fun port domain off h => congrArg _ (if_neg ?_),
    fun hs hl => congrArg _ (if_pos ?_), fun h => congrArg _ (if_neg ?_), fun h => congrArg _ (if_pos h),
    fun h1 h2 => congrArg _ ((if_neg (Nat.not_le.mpr h1)).trans (if_pos h2)),
    fun h1 h2 => congrArg _ ((if_neg (Nat.not_le.mpr h1)).trans (if_neg (Nat.not_le.mpr h2))), fun m => rfl,
    fun m h => congrArg _ (foldl_memberStatus_unawaited h _), fun m f hf hm => ?_⟩
  · refine ⟨_, _, congrArg Host.Outcome.next (if_pos ?_), rfl, rfl, rfl, fun hg hst => if_pos ?_, fun h => if_neg ?_, rfl⟩
    · simpa [hp, hd] using hs
    · simpa [hg] using hst
    · simp only [Bool.and_eq_true, Bool.or_eq_true, decide_eq_true_eq, not_and, not_or]
      exact fun hg => h.resolve_left (not_not.mpr hg)
  · simp only [Bool.and_eq_true, Bool.or_eq_true, decide_eq_true_eq]
    rintro ⟨⟨hs, hp⟩, hd⟩
    rcases h with ⟨h1, h2⟩ | h | h
    · exact hs.elim h1 h2
    · exact h hp
    · exact h hd
  · simpa [hl] using hs
  · simp only [Bool.and_eq_true, Bool.or_eq_true, decide_eq_true_eq]
    rintro ⟨hs, hl⟩
    rcases h with ⟨h1, h2⟩ | h
    · exact hs.elim h1 h2
    · exact h hl
  · have e : exec (.peerFailed m) s = .next (memberStatus m f.seq (statusCode .notPermitted) 0 s) := by
      show execPeerFailed m s = _
      rw [execPeerFailed, hf]
      rfl
    rw [e, memberStatus_single hf hm (by decide)]
    refine ⟨fun hw => by rw [if_neg hw], fun hw => ?_⟩
    rw [if_pos hw, hw]

/-! ## Clocks -/

@[simp] theorem getDomain_setDomain (s : State) (d : Nat) (x : Domain) : getDomain (setDomain s d x) d = x := by
  simp [getDomain, setDomain]
@[simp] theorem getJudge_setJudge (s : State) (k : Nat) (j : Judge) : getJudge (setJudge s k j) k = j := by
  simp [getJudge, setJudge]

theorem getDomain_of_hostOnly {s t : State} (h : HostOnly s t) (d : Nat) : getDomain t d = getDomain s d := by
  obtain ⟨_, _, _, rfl⟩ := h
  rfl

/-- Without its clock's stability REFSEL is the TCXO. -/
theorem chooseRef_unstable {s : State} {k : Nat} (hw : wantedRef s = k) (hk : k ≠ 0) (hj : (getJudge s k).stable = false) :
    (chooseRef s).clocks.refsel = 0 := by
  show (if wantedRef s = 0 || (getJudge s (wantedRef s)).stable then wantedRef s else 0) = 0
  rw [hw, if_neg (by simp [hk, hj])]

/-- The outcome of a window by its three rules: a pass, a failure of a selected oscillator, a failure of another. -/
theorem judgeNext_outcome (sel pass : Bool) (j : Judge) :
    (pass = true → (judgeNext sel pass j).passes = j.passes + 1 ∧ (judgeNext sel pass j).fails = 0 ∧
      ((judgeNext sel pass j).stable = true ↔ j.stable = true ∨ 2 ≤ j.passes)) ∧
    (pass = false → sel = true → j.stable = true →
      (1 ≤ j.fails → (judgeNext sel pass j).waiting = true ∧ (judgeNext sel pass j).stable = false) ∧
      (j.fails = 0 → (judgeNext sel pass j).passes = 0 ∧ (judgeNext sel pass j).fails = 1 ∧
        (judgeNext sel pass j).stable = true)) ∧
    (pass = false → sel = false ∨ j.stable = false → (judgeNext sel pass j).passes = 0 ∧
      (judgeNext sel pass j).fails = j.fails + 1 ∧ (judgeNext sel pass j).stable = false) := by
  refine ⟨fun hp => ?_, fun hp hs hj => ⟨fun hf => ?_, fun hf => ?_⟩, fun hp h => ?_⟩
  · simp [judgeNext, hp]
  · simp [judgeNext, hp, hs, hj, hf]
  · simp [judgeNext, hp, hs, hj, hf]
  · have hn : (sel && j.stable) = false := by rcases h with h | h <;> simp [h]
    simp [judgeNext, hp, hn]

/-- A lost recovered clock that was the selected reference leaves the TCXO selected. -/
theorem exec_lossOfSignal_refsel {d k : Nat} {s t : State} (hr : isRecovered d = true) (hp : domainPowered s d = true)
    (ho : recoveredOsc d = some k) (hs : s.clocks.refsel = k) (hk : k ≠ 0) (hw : wantedRef s = k)
    (ht : exec (.lossOfSignal d) s = .next t) : t.clocks.refsel = 0 := by
  have e : exec (.lossOfSignal d) s = .next (chooseRef (setJudge
      (setDomain s d { getDomain s d with lost := true }) k { waiting := true })) := by
    show execLossOfSignal d s = _
    rw [execLossOfSignal, if_neg (by simp [hr, hp]), ho]
    dsimp only
    rw [if_pos (show (setDomain s d _).clocks.refsel = k from hs)]
  obtain rfl := Host.Outcome.next.inj (ht.symm.trans e)
  exact chooseRef_unstable (k := k) hw hk (by rw [getJudge_setJudge])

/-- A monitor's flag, before what the domain's loss or the time base adds. -/
theorem exec_clockMonitorFlag {d : Nat} {b : Bool} {s r : State} (hd : d < 100) (ha : isAphy d = false) (h91 : d ≠ 91)
    (hp : domainPowered s d = true) (hf : (getDomain s d).flagged = false)
    (hr : r = (if hasMonitor d then raise (domainHub d) (1568 + d)
        (setDomain s d { getDomain s d with flagged := true, duringSwitch := b })
      else setDomain s d { getDomain s d with flagged := true, duringSwitch := b })) :
    exec (.clockMonitorFlag d b) s = .next (if d = 93 then { r with clocks.holdover := true }
      else if noFallback d then loseDomain d r else r) ∧ (getDomain r d).flagged = true := by
  refine ⟨?_, ?_⟩
  · show execClockMonitorFlag d b s = _
    rw [execClockMonitorFlag, if_neg (by simp [Nat.not_le.mpr hd, ha, h91, hp, hf])]
    dsimp only
    rw [← hr]
  · rw [hr]
    split
    · rw [getDomain_of_hostOnly (raise_hostOnly ..), getDomain_setDomain]
    · rw [getDomain_setDomain]

/-- The watchdog of a flagged domain that has a fallback expires. -/
theorem exec_clockWatchdogExpiry {d : Nat} {s : State} (hd : d < 100) (hf : (getDomain s d).flagged = true)
    (hn : noFallback d = false) (hw : (watchdogDie d).any (clusterHalted s) = false) (u : State)
    (hu : u = setDomain s d
      { getDomain s d with flagged := false, fallback := (getDomain s d).fallback || decide (d ≠ 93) }) :
    (∀ w k, domainPlace d = .warden w k → exec (.clockWatchdogExpiry d) s = .next (hangEffect d
      (wardenBreach w 0x17 2 255 255 d (bit (getDomain s d).duringSwitch) u))) ∧
    ((∀ w k, domainPlace d ≠ .warden w k) → exec (.clockWatchdogExpiry d) s = .next (hangEffect d
      (recordBreach 0x17 2 255 (hangPlace d) 255 d (bit (getDomain s d).duringSwitch) u))) := by
  show (∀ w k, _ → execClockWatchdogExpiry d s = _) ∧ (_ → execClockWatchdogExpiry d s = _)
  rw [execClockWatchdogExpiry]
  dsimp only
  rw [if_neg (by simp [Nat.not_le.mpr hd, hf, hn, hw]), ← hu]
  refine ⟨fun w k hpl => by rw [hpl], fun hpl => ?_⟩
  cases h : domainPlace d with
  | warden w k => exact absurd h (hpl w k)
  | stack _ _ => rfl
  | io _ _ => rfl
  | module_ _ => rfl

/-- A window judges its oscillator; a warden's one is also held to 20 ppm, and the others may change REFSEL. -/
theorem exec_judgeWindow {osc : Nat} {ppm : Int} {s : State} (ho : osc < 13) (hw : (getJudge s osc).waiting = false) (j : Judge)
    (hj : j = judgeNext (s.clocks.refsel = osc || 11 ≤ osc) (ppm.natAbs ≤ 200) (getJudge s osc)) :
    ∃ t, exec (.judgeWindow osc ppm) s = .next t ∧ getJudge t osc = j ∧
      (osc < 11 → t = chooseRef (setJudge s osc j)) ∧
      (osc = 11 → t = { setJudge s osc j with wardens.a.oscBad := decide (20 < ppm.natAbs) }) ∧
      (osc = 12 → t = { setJudge s osc j with wardens.b.oscBad := decide (20 < ppm.natAbs) }) := by
  have e : exec (.judgeWindow osc ppm) s = .next (
      if osc = 11 then { setJudge s osc j with wardens.a.oscBad := decide (20 < ppm.natAbs) }
      else if osc = 12 then { setJudge s osc j with wardens.b.oscBad := decide (20 < ppm.natAbs) }
      else chooseRef (setJudge s osc j)) := by
    show execJudgeWindow osc ppm s = _
    rw [execJudgeWindow]
    dsimp only
    rw [if_neg (by simp [Nat.not_le.mpr ho, hw]), ← hj]
  refine ⟨_, e, ?_, fun h => ?_, fun h => ?_, fun h => ?_⟩
  · split
    · exact getJudge_setJudge ..
    · split
      · exact getJudge_setJudge ..
      · rw [getJudge_chooseRef, getJudge_setJudge]
  · rw [if_neg (by omega), if_neg (by omega)]
  · rw [if_pos h]
  · rw [if_neg (by omega), if_pos h]

/-- Settles O48: monitors and watchdogs by the domain's place, judges by their windows, recovered clocks by their receivers. -/
theorem clockEvents : Obligations.ClockEvents := by
  intro s
  refine ⟨fun d b h => congrArg _ (if_pos ?_), fun d b r hd ha h91 hp hf hr => ?_, fun d h => congrArg _ (if_pos ?_),
    fun d u hd hf hn hw hu => exec_clockWatchdogExpiry hd hf hn hw u hu, fun osc ppm h => congrArg _ (if_pos ?_),
    fun osc ppm ho hw => ?_, fun osc ho hw => congrArg _ (if_pos ?_), fun osc h => congrArg _ (if_neg ?_),
    fun io core hm hi hc hh hr => congrArg _ (if_pos ?_), fun io core h => congrArg _ (if_neg ?_),
    fun d h => congrArg _ (if_pos ?_), fun d hr hp => ⟨fun hn => ?_, fun k hk => ⟨?_, fun hs hk0 hw t ht => ?_⟩⟩,
    fun d h => congrArg _ (if_pos ?_), fun d hr hl => ⟨fun hn => ?_, fun k hk => ?_⟩⟩
  · simp only [Bool.or_eq_true, decide_eq_true_eq, Bool.not_eq_true']
    tauto
  · obtain ⟨e, flagged⟩ := exec_clockMonitorFlag hd ha h91 hp hf hr
    rw [e]
    refine ⟨fun h => by rw [if_pos h], fun h hn => ?_, fun h hn => ?_, flagged⟩
    · rw [if_neg h, if_neg (by simp [hn])]
    · rw [if_neg h, if_pos hn]
  · simp only [Bool.or_eq_true, decide_eq_true_eq, Bool.not_eq_true']
    tauto
  · simpa using h
  · obtain ⟨t, e, hj, hsel, ha, hb⟩ := exec_judgeWindow (ppm := ppm) ho hw _ rfl
    obtain ⟨pass, failSelected, failOther⟩ :=
      judgeNext_outcome (s.clocks.refsel = osc || 11 ≤ osc) (ppm.natAbs ≤ 200) (getJudge s osc)
    refine ⟨t, _, e, hj, hsel, ha, hb, fun hp => pass (decide_eq_true hp), fun hp hs hst => ?_, fun hp hs => ?_⟩
    · exact failSelected (decide_eq_false (Nat.not_le.mpr hp)) (by simpa using hs) hst
    · exact failOther (decide_eq_false (Nat.not_le.mpr hp)) (hs.imp_left fun h => by simpa using h)
  · simp [ho, hw]
  · rcases h with h | h
    · simp [Nat.not_lt.mpr h]
    · simp [h]
  · simp [hm, hi, hc, hh, hr]
  · simp only [Bool.and_eq_true, decide_eq_true_eq, Bool.not_eq_true']
    rintro ⟨⟨⟨⟨hm, hi⟩, hc⟩, hh⟩, hr⟩
    rcases h with h | h | h | h | h
    · rw [hm] at h; cases h
    · omega
    · omega
    · rw [hh] at h; cases h
    · rw [hr] at h; cases h
  · rcases h with h | h <;> simp [h]
  · show execLossOfSignal d s = _
    rw [execLossOfSignal, if_neg (by simp [hr, hp]), hn]
  · show execLossOfSignal d s = _
    rw [execLossOfSignal, if_neg (by simp [hr, hp]), hk]
    rfl
  · exact exec_lossOfSignal_refsel hr hp hk hs hk0 hw ht
  · rcases h with h | h <;> simp [h]
  · show execSignalReturn d s = _
    rw [execSignalReturn, if_neg (by simp [hr, hl]), hn]
  · show execSignalReturn d s = _
    rw [execSignalReturn, if_neg (by simp [hr, hl]), hk]
    rfl

end Sys2Proof.Proofs
end

section
/-! Inputs that arrive (O49), and errors and starved arbiters (O50). -/

namespace Sys2Proof.Proofs
open Sys2Proof Sys2Proof.Machine Sys2Proof.Safety Sys2Proof.Laws

/-! ## Inputs -/

/-- Forwarding an input touches the links and what is sent, and nothing else. -/
theorem forwardInput_links (tag : Tag) (d : Datum) (s : State) (m : Nat × Consumer) :
    ∃ l o, forwardInput tag d s m = { s with links := l, out := o } := by
  unfold forwardInput
  split
  · dsimp only
    split
    · exact ⟨_, _, rfl⟩
    · exact ⟨_, _, rfl⟩
  · exact ⟨_, _, rfl⟩

theorem foldl_forwardInput_links (tag : Tag) (d : Datum) (ms : List (Nat × Consumer)) (s : State) :
    ∃ l o, ms.foldl (forwardInput tag d) s = { s with links := l, out := o } := by
  induction ms generalizing s with
  | nil => exact ⟨_, _, rfl⟩
  | cons m ms ih =>
    obtain ⟨l, o, e⟩ := forwardInput_links tag d s m
    rw [List.foldl_cons, e]
    obtain ⟨l', o', e'⟩ := ih { s with links := l, out := o }
    exact ⟨l', o', e'⟩

/-- The state of an arrival after the forwarding, in which every bound consumer then awaits the datum. -/
theorem exec_inputArrival {d : Datum} {s : State} (hm : mainUp s = true) (hr : s.tide.running = true) (h3 : 3 ≤ d.rank)
    (h5 : d.rank ≤ 5) (ho : srcLocalOk d.rank d.srcLocal = true) (key : Nat) (q : Word) (s1 : State)
    (hk : key = sourceKey d.rank (ownIndex s) d.srcLocal) (hq : q = nextSeq s key)
    (hs1 : s1 = bumpSeq key (d.forward.foldl (forwardInput (arrivalTag s d q) { d with seq := q }) s)) :
    exec (.inputArrival d) s = .next
      ((s.work.binds.filter fun b => b.rank = d.rank && b.srcMod = ownIndex s && b.srcLocal = d.srcLocal).foldl
        (fun st b => awaitInput ⟨arrivalTag s d q, s.tide.count + bit d.atEdge, s.tide.ix + bit d.atEdge + 1,
          ⟨b.polder, b.handle, b.port, false⟩, { d with seq := q }⟩ st) s1) := by
  subst hk hq
  show execInputArrival d s = _
  rw [execInputArrival, if_neg (by simp [hm, hr, ho, Nat.not_lt.mpr h3, Nat.not_lt.mpr h5])]
  dsimp only
  obtain ⟨l, o, e⟩ := foldl_forwardInput_links (arrivalTag s d (nextSeq s (sourceKey d.rank (ownIndex s) d.srcLocal)))
    { d with seq := nextSeq s (sourceKey d.rank (ownIndex s) d.srcLocal) } d.forward s
  rw [hs1, e]
  rfl

/-- An input with a tag that nothing waiting has joins those that wait. -/
theorem awaitInput_new {w : Waiting} {s : State} (h : ∀ x ∈ s.tide.waiting, x.tag ≠ w.tag) :
    awaitInput w s = { s with tide.waiting := s.tide.waiting ++ [w] } := by
  have none_ : s.tide.waiting.find? (fun x => x.tag = w.tag && x.consumer = w.consumer) = none := by
    rw [List.find?_eq_none]
    intro x hx
    simp [h x hx]
  unfold awaitInput
  rw [none_]

/-- Settles O49: the datum's consumers are those bound before it was forwarded, since forwarding touches the links alone. -/
theorem inputsWaitForTheirEdge : Obligations.InputsWaitForTheirEdge := by
  intro d s
  refine ⟨fun hm hr h3 h5 ho key q s1 hk hq hs1 => ?_, fun h => congrArg _ (if_pos ?_)⟩
  · have e := exec_inputArrival hm hr h3 h5 ho key q s1 hk hq hs1
    refine ⟨⟨_, e, rfl⟩, fun b hb hw hf => ?_, fun hb => ?_⟩
    · rw [e, hb, List.foldl_cons, List.foldl_nil, hs1, hf, List.foldl_nil, awaitInput_new]
      · rfl
      · exact hw
    · have none_ : (s.work.binds.filter fun b => b.rank = d.rank && b.srcMod = ownIndex s && b.srcLocal = d.srcLocal) = [] := by
        rw [List.filter_eq_nil_iff]
        intro b hb'
        simpa [and_assoc] using hb b hb'
      rw [e, none_, List.foldl_nil]
  · simp only [Bool.or_eq_true, Bool.not_eq_true', decide_eq_true_eq]
    tauto

/-! ## Errors -/

/-- The invocations of a withheld tide fail: those that ran in it, and those still in progress. -/
theorem withholdTide_fails (p : Nat) (u : State) : ∃ y, getPolder (withholdTide p u) p = (getPolder u p).map y ∧
    ∀ z, (y z).withheld = true ∧
      ∀ r ∈ (y z).runs, ∀ i ∈ r.2.invs, i.finished = none ∨ i.finished = some u.tide.ix → i.fail.isSome = true := by
  refine ⟨_, getPolder_modPolder u p _, fun z => ⟨rfl, fun r hr i hi hf => ?_⟩⟩
  obtain ⟨r0, -, rfl⟩ := List.mem_map.mp hr
  rw [if_pos rfl] at hi
  obtain ⟨i0, -, rfl⟩ := List.mem_map.mp hi
  by_cases h : (i0.finished.isNone || i0.finished = some u.tide.ix) = true
  · rw [if_pos h]; exact failInv_isSome ..
  · rw [if_neg h] at hf
    exact absurd (by simpa using hf) h

/-- A row that is recorded for repair is among those of the record, and only the record changes. -/
theorem mem_recordRow (key : Nat) (s : State) : key ∈ (recordRow key s).flash.repairRows := by
  unfold recordRow
  dsimp only
  split
  · assumption
  · exact List.mem_cons_self ..

/-- A stack in service whose removal is asked for will be removed. -/
theorem removeStack_removals {k cause : Nat} {s : State} (h : s.work.stackOk.getD k false = true) :
    ∃ c, (k, c) ∈ (removeStack k cause s).work.removals := by
  unfold removeStack
  split
  · rename_i hc
    simp only [h, Bool.not_true, Bool.or_false, List.any_eq_true, decide_eq_true_eq] at hc
    obtain ⟨⟨k', c⟩, hx, rfl⟩ := hc
    exact ⟨c, hx⟩
  · exact ⟨cause, List.mem_append_right _ (List.mem_singleton_self _)⟩

/-- A correctable error of a DRAM tier counts for its polder and for its row, which the sixteenth marks for repair. -/
theorem exec_correctableError_row {p : Nat} {tier : Tier} {row addr : Nat} {rmw : Bool} {s : State} {key : Nat} {u : State}
    (ht : tier = .hbm ∨ tier = .spill) (hk : key = rowKey (deviceOf tier addr) row)
    (hu : u = noteFlaw tier addr rmw (modPolder s p fun x =>
      if tier = .hbm then { x with ceHbm := sat32 (x.ceHbm + 1) } else { x with ceSpill := sat32 (x.ceSpill + 1) })) :
    ∃ t, exec (.correctableError p tier ⟨row, addr, rmw⟩) s = .next t ∧
      t = { u with flash.rowErrors := t.flash.rowErrors, flash.repairRows := t.flash.repairRows } ∧
      tget t.flash.rowErrors key = some ((tget s.flash.rowErrors key).getD 0 + 1) ∧
      (15 ≤ (tget s.flash.rowErrors key).getD 0 → key ∈ t.flash.repairRows) ∧
      ((tget s.flash.rowErrors key).getD 0 < 15 → t.flash.repairRows = s.flash.repairRows) := by
  have hf : u.flash = s.flash := by rw [hu]; rfl
  have e : exec (.correctableError p tier ⟨row, addr, rmw⟩) s = .next
      (if 16 ≤ (tget u.flash.rowErrors key).getD 0 + 1 then
        recordRow key { u with flash.rowErrors := tset u.flash.rowErrors key ((tget u.flash.rowErrors key).getD 0 + 1) }
      else { u with flash.rowErrors := tset u.flash.rowErrors key ((tget u.flash.rowErrors key).getD 0 + 1) }) := by
    rcases ht with rfl | rfl <;> rw [hu, hk] <;> rfl
  refine ⟨_, e, ?_⟩
  rw [hf]
  by_cases h : 16 ≤ (tget s.flash.rowErrors key).getD 0 + 1
  · rw [if_pos h]
    exact ⟨rfl, tget_tset_same .., fun _ => mem_recordRow .., fun hn => absurd h (by omega)⟩
  · rw [if_neg h]
    exact ⟨rfl, tget_tset_same .., fun hn => absurd hn (by omega), fun _ => rfl⟩

/-- What an uncorrectable error leaves before its outcome: the breach, the row's record or the tile's count. -/
def errorNoted (p : Nat) (tier : Tier) (tensor stack tile row : Nat) (s : State) : State :=
  let u := recordBreach 0x02 0 p stack tile (tierCode tier) tensor s
  match tier with
  | .sram =>
    let x := getTile u stack tile
    let v := setTile u stack tile { x with sramErrs := recentTides u x.sramErrs }
    if 2 ≤ (recentTides u x.sramErrs).length then removeStack stack 3 v else v
  | .hbm => recordRow (rowKey stack row) u
  | .spill => recordRow (rowKey (8 + stack) row) u

theorem exec_uncorrectable {p tensor stack tile row : Nat} {tier : Tier} {transfer : Bool} {role : ErrRole} {s : State}
    (hm : mainUp s = true) : exec (.uncorrectable p tier tensor stack tile row ⟨role, transfer⟩) s = .next
      (if transfer then { errorNoted p tier tensor stack tile row s with
          work.transferErrors := (errorNoted p tier tensor stack tile row s).work.transferErrors ++ [(p, role)] }
        else errorOutcome p role (errorNoted p tier tensor stack tile row s)) := by
  show execUncorrectable p tier tensor stack tile row ⟨role, transfer⟩ s = _
  rw [execUncorrectable, if_neg (by simp [hm])]
  cases tier <;> rfl

theorem getTile_removeStack (k c stack tile : Nat) (s : State) : getTile (removeStack k c s) stack tile = getTile s stack tile := by
  rw [getTile, getTile, (removeStack_parts k c s).2.1]

/-- One breach is recorded, and the count of the memory row or of the tile advances. -/
theorem errorNoted_effect (p : Nat) (tier : Tier) (tensor stack tile row : Nat) (s : State) :
    (errorNoted p tier tensor stack tile row s).safety.nextIndex = s.safety.nextIndex + 1 ∧
    (tier = .hbm → rowKey stack row ∈ (errorNoted p tier tensor stack tile row s).flash.repairRows) ∧
    (tier = .spill → rowKey (8 + stack) row ∈ (errorNoted p tier tensor stack tile row s).flash.repairRows) ∧
    (tier = .sram → (getTile (errorNoted p tier tensor stack tile row s) stack tile).sramErrs =
        recentTides s (getTile s stack tile).sramErrs ∧
      (2 ≤ (recentTides s (getTile s stack tile).sramErrs).length → s.work.stackOk.getD stack false = true →
        ∃ c, (stack, c) ∈ (errorNoted p tier tensor stack tile row s).work.removals)) := by
  cases tier with
  | hbm => exact ⟨rfl, fun _ => mem_recordRow .., fun h => (nomatch h), fun h => (nomatch h)⟩
  | spill => exact ⟨rfl, fun h => (nomatch h), fun _ => mem_recordRow .., fun h => (nomatch h)⟩
  | sram =>
    unfold errorNoted
    dsimp only
    generalize hu : recordBreach 0x02 0 p stack tile (tierCode .sram) tensor s = u
    have hi : u.safety.nextIndex = s.safety.nextIndex + 1 := by rw [← hu]; rfl
    have ht : getTile u stack tile = getTile s stack tile := by rw [← hu]; rfl
    have hr : ∀ xs, recentTides u xs = recentTides s xs := fun xs => by rw [← hu]; rfl
    have hok : u.work.stackOk = s.work.stackOk := by rw [← hu]; rfl
    rw [ht, hr]
    refine ⟨?_, fun h => (nomatch h), fun h => (nomatch h), fun _ => ⟨?_, fun h2 hs => ?_⟩⟩
    · split
      · rw [(removeStack_parts ..).2.1]; exact hi
      · exact hi
    · split
      · rw [getTile_removeStack, getTile_setTile]
      · rw [getTile_setTile]
    · rw [if_pos h2]
      exact removeStack_removals (by rw [← hok] at hs; exact hs)

theorem getArbiter_of_mem {s t : State} (h : t.mem = s.mem) (i : Nat) : getArbiter t i = getArbiter s i := by
  rw [getArbiter, getArbiter, h]

/-- A starved input: its flag, and a breach where the traffic was admitted. -/
theorem starve_effect (inst input : Nat) (s : State) :
    input ∈ (getArbiter (starve inst input s) inst).flags ∧ (inst, input) ∈ (starve inst input s).work.starving ∧
      (12 ≤ input ∧ input ≤ 14 → (starve inst input s).safety.nextIndex = s.safety.nextIndex + 1) ∧
      (input < 12 ∨ input = 15 → (starve inst input s).safety.log = s.safety.log) := by
  have flagged : ∀ fs : List Nat, input ∈ (if input ∈ fs then fs else input :: fs) := fun fs => by
    split
    · assumption
    · exact List.mem_cons_self ..
  have listed : ∀ xs : List (Nat × Nat), (inst, input) ∈ (if (inst, input) ∈ xs then xs else xs ++ [(inst, input)]) :=
    fun xs => by
      split
      · assumption
      · exact List.mem_append_right _ (List.mem_singleton_self _)
  unfold starve
  dsimp only
  generalize hx : ({ getArbiter s inst with
    flags := if input ∈ (getArbiter s inst).flags then (getArbiter s inst).flags
      else input :: (getArbiter s inst).flags } : Arbiter) = x
  have hflag : input ∈ x.flags := by rw [← hx]; exact flagged _
  obtain ⟨hs, w, o, e⟩ := raise_hostOnly (starveSource inst).1 (starveSource inst).2 (setArbiter s inst x)
  rw [e]
  refine ⟨?_, listed _, fun h => ?_, fun h => ?_⟩
  · rw [getArbiter_of_mem (s := setArbiter s inst x) (by split <;> rfl), getArbiter_setArbiter]
    exact hflag
  · rw [if_pos (by simpa using h)]; rfl
  · rw [if_neg (by simp; omega)]; rfl

/-- Settles O50: each error by its tier, class and role; the sixth to eighth clauses through `errorNoted`. -/
theorem errorEvents : Obligations.ErrorEvents := by
  intro s
  refine ⟨fun p run inv stack tile unit hm => congrArg _ (if_neg (by simp [hm])), fun p run inv stack tile unit hm => ?_,
    withholdTide_fails, fun p row addr rmw => rfl,
    fun p tier row addr rmw key u ht hk hu => exec_correctableError_row ht hk hu,
    fun p tier tensor stack tile row transfer role hm => congrArg _ (if_pos (by simp [hm])),
    fun p tier tensor stack tile row transfer role hm =>
      ⟨errorNoted p tier tensor stack tile row s, exec_uncorrectable hm, errorNoted_effect p tier tensor stack tile row s⟩,
    fun p sluice seq v x hx => ?_, fun p v => rfl, fun inst input hm hi hp hk => ?_,
    fun inst input h => congrArg _ (if_pos ?_)⟩
  · have e : exec (.arithCheck p run inv stack tile unit) s = .next (arithFailure p run inv stack tile unit s) :=
      congrArg Host.Outcome.next (if_pos hm)
    have hcls : clsOf (recordBreach 0x01 0 p stack tile unit inv s) p = clsOf s p := rfl
    have hch : channelOf (recordBreach 0x01 0 p stack tile unit inv s) stack = channelOf s stack := rfl
    rw [e, arithFailure]
    dsimp only
    refine ⟨_, _, _, rfl, fun hS c hc => ?_, fun hS hc => ?_, fun hS => ?_, rfl, rfl⟩
    · rw [hcls, hch, hS, hc]
    · rw [hcls, hch, hS, hc]
    · rw [hcls]
      split
      · rename_i h; exact absurd h hS
      · rfl
  · exact ⟨_, (getPolder_modPolder v p _).trans (by rw [hx]; rfl), rfl⟩
  · exact ⟨_, congrArg Host.Outcome.next (if_neg (by simp [hm, Nat.not_lt.mpr hi, Nat.not_lt.mpr hp, hk])),
      starve_effect inst input s⟩
  · simp only [Bool.or_eq_true, Bool.not_eq_true', decide_eq_true_eq]
    tauto

end Sys2Proof.Proofs
end

section
/-! Scratchpad accesses, scrubs, sweeps and copies (O51). -/

namespace Sys2Proof.Proofs
open Sys2Proof Sys2Proof.Machine Sys2Proof.Safety Sys2Proof.Laws

/-! ## Scratchpads -/

/-- A read that is served answers the bytes, zeros in a secure part that is being wiped, and writes nothing. -/
theorem serveAccess_read {io : Nat} {all : List ScrAccess} {s : State} {a : ScrAccess}
    (ho : scrOutcome (getScr s io) all a = .served) (hw : a.write = false) :
    ∃ t, serveAccess io all s a = t ∧ t.mem.cells = s.mem.cells ∧
      (getScr t io).responses = (getScr s io).responses ++ [(a.port, 0, if wiped (getScr s io) a then List.replicate a.size 0
        else readBytes s.mem.cells (scrBase io + a.addr) a.size)] := by
  refine ⟨_, rfl, ?_⟩
  unfold serveAccess
  dsimp only
  rw [ho]
  dsimp only
  rw [if_neg (by simp [hw]), setScr_cells, getScr_setScr]
  exact ⟨rfl, rfl⟩

/-- A write that is served answers, and writes its bytes unless the secure part is being wiped. -/
theorem serveAccess_write {io : Nat} {all : List ScrAccess} {s : State} {a : ScrAccess}
    (ho : scrOutcome (getScr s io) all a = .served) (hw : a.write = true) :
    ∃ t, serveAccess io all s a = t ∧ (getScr t io).responses = (getScr s io).responses ++ [(a.port, 0, [])] ∧
      t.mem.cells = if wiped (getScr s io) a then s.mem.cells
        else writeBytes s.mem.cells (scrBase io + a.addr) (padTo a.size a.data) := by
  refine ⟨_, rfl, ?_⟩
  unfold serveAccess
  dsimp only
  rw [ho]
  dsimp only
  rw [if_pos hw, setScr_cells, getScr_setScr]
  exact ⟨rfl, by split <;> rfl⟩

/-- An access that is not served waits, collides or is refused, and counts. -/
theorem serveAccess_unserved {io : Nat} {all : List ScrAccess} {s : State} {a : ScrAccess} {x : Scratch}
    (hx : x = getScr s io) :
    (scrOutcome x all a = .wait → serveAccess io all s a = setScr s io { x with
      conflicts := tset x.conflicts a.port (sat32 ((tget x.conflicts a.port).getD 0 + 1)), retry := x.retry ++ [a] }) ∧
    (scrOutcome x all a = .collision → serveAccess io all s a = setScr s io { x with
      collisions := tset x.collisions a.port (sat32 ((tget x.collisions a.port).getD 0 + 1))
      responses := x.responses ++ [(a.port, 2, [])] }) ∧
    (scrOutcome x all a = .error → serveAccess io all s a = setScr s io { x with
      deny := if inSecure a && !secureAccess a then sat32 (x.deny + 1) else x.deny
      responses := x.responses ++ [(a.port, 1, List.replicate (if a.write then 0 else a.size) 0)] }) := by
  subst hx
  refine ⟨fun h => ?_, fun h => ?_, fun h => ?_⟩
  all_goals
    unfold serveAccess
    dsimp only
    rw [h]

/-! ## Scrubs -/

theorem getPolder_of_work {s t : State} (h : t.work = s.work) (p : Nat) : getPolder t p = getPolder s p := by
  rw [getPolder, getPolder, h]

theorem getTdi_of_hostOnly {s t : State} (h : HostOnly s t) (p : Nat) : getTdi t p = getTdi s p := by
  obtain ⟨_, _, _, rfl⟩ := h
  rfl

/-- The answer to a scrub's command, if it has one. -/
def scrubAnswer (c : Option Instr) (s : State) : State :=
  match c with
  | some c => finishCmd c .ok .none [] s
  | none => s

theorem scrubAnswer_hostOnly (c : Option Instr) (s : State) : HostOnly s (scrubAnswer c s) := by
  cases c with
  | none => exact .refl s
  | some c => exact finc_hostOnly ..

/-- A scrub's end by its kind. -/
theorem endScrub_frames {j : ScrubJob} (s : State) (hk : j.kind = .frames) :
    endScrub j s = scrubAnswer j.cmd (scrubbed j s) := by cases j; cases hk; rfl
theorem endScrub_reset {j : ScrubJob} (s : State) (hk : j.kind = .reset) :
    endScrub j s = if j.tdisp then
        emit (.tdisp j.polder true []) (setTdi (scrubAnswer j.cmd (endReset j.polder (scrubbed j s))) j.polder 0)
      else scrubAnswer j.cmd (endReset j.polder (scrubbed j s)) := by cases j; cases hk; rfl
theorem endScrub_destroy {j : ScrubJob} (s : State) (hk : j.kind = .destroy) :
    endScrub j s = scrubAnswer j.cmd (removePolder j.polder (scrubbed j s)) := by cases j; cases hk; rfl
theorem endScrub_debug {j : ScrubJob} (s : State) (hk : j.kind = .debug) : endScrub j s = unlocked (scrubbed j s) := by
  cases j; cases hk; rfl
theorem endScrub_decommission {j : ScrubJob} (s : State) (hk : j.kind = .decommission) :
    endScrub j s = decommissioned (scrubbed j s) := by cases j; cases hk; rfl

theorem exec_scrubDone {n : Nat} {j : ScrubJob} {s : State} (hj : s.work.scrubs.find? (·.id = n) = some j) :
    exec (.scrubDone n) s = .next (if scrubReady s j then
      endScrub j { s with work.scrubs := s.work.scrubs.filter (·.id ≠ n) } else s) := by
  show execScrubDone n s = _
  rw [execScrubDone, hj]

/-- After a reset's scrub the polder goes on, and a stopped interface is unlocked. -/
theorem endReset_goesOn {j : ScrubJob} {u : State} {x : Polder} (hx : getPolder u j.polder = some x) :
    ∃ t, (if j.tdisp then emit (.tdisp j.polder true []) (setTdi (scrubAnswer j.cmd (endReset j.polder u)) j.polder 0)
      else scrubAnswer j.cmd (endReset j.polder u)) = t ∧
      getPolder t j.polder = some { x with resetting := false, prevGen := none, rotation := none, rotationsWaiting := [] } ∧
      (j.tdisp = true → getTdi t j.polder = 0) := by
  have hp : getPolder (scrubAnswer j.cmd (endReset j.polder u)) j.polder =
      some { x with resetting := false, prevGen := none, rotation := none, rotationsWaiting := [] } := by
    rw [getPolder_of_work (hostOnly_parts (scrubAnswer_hostOnly ..)).2.2.2.2.2, endReset, getPolder_modPolder, hx]
    rfl
  refine ⟨_, rfl, ?_, fun ht => ?_⟩
  · split
    · exact hp
    · exact hp
  · rw [if_pos ht]
    exact getTdi_setTdi ..

/-- After a destruction's scrub the polder is gone, and its interface is unlocked. -/
theorem removePolder_gone (c : Option Instr) (p : Nat) (u : State) :
    getPolder (scrubAnswer c (removePolder p u)) p = none ∧ getTdi (scrubAnswer c (removePolder p u)) p = 0 := by
  rw [getPolder_of_work (hostOnly_parts (scrubAnswer_hostOnly ..)).2.2.2.2.2, getTdi_of_hostOnly (scrubAnswer_hostOnly ..)]
  exact ⟨tget_tdel _ _, getTdi_setTdi ..⟩

/-- The decision of the command that a function, a sluice and a SEQ name. -/
def decides (fn : Fn) (n : Nat) (seq : Word) (d : Decision) : Bool :=
  (hdrOf d.cmd).any fun h => h.fn = fn && h.sluice = n && h.seq = seq

theorem decides_iff {fn : Fn} {n : Nat} {seq : Word} {d : Decision} :
    decides fn n seq d = true ↔ ∃ h, hdrOf d.cmd = some h ∧ h.fn = fn ∧ h.sluice = n ∧ h.seq = seq := by
  unfold decides
  cases hdrOf d.cmd <;> simp [and_assoc]

/-- SCRUB_PENDING of a command that does not wait, or with no scrub to wait for. -/
theorem exec_scrubPending_none {fn : Fn} {n : Nat} {seq : Word} {s : State}
    (h : s.work.decisions.find? (decides fn n seq) = none ∨ s.work.scrubs = []) : exec (.scrubPending fn n seq) s = .next s := by
  show execScrubPending fn n seq s = _
  rw [execScrubPending]
  change s.work.decisions.find? (fun d => (hdrOf d.cmd).any fun h => h.fn = fn && h.sluice = n && h.seq = seq) = none ∨ _ at h
  cases hf : s.work.decisions.find? (fun d => (hdrOf d.cmd).any fun h => h.fn = fn && h.sluice = n && h.seq = seq) with
  | none => simp only [hf]
  | some d => simp only [hf, if_pos (h.resolve_left (by rw [hf]; simp))]

/-- SCRUB_PENDING of a command that waits ends it, with nothing decided. -/
theorem exec_scrubPending_found {fn : Fn} {n : Nat} {seq : Word} {s : State} {d : Decision}
    (hf : s.work.decisions.find? (decides fn n seq) = some d) (hs : s.work.scrubs ≠ []) :
    exec (.scrubPending fn n seq) s = .next (finishCmd d.cmd .quota .scrubPending []
      (dropReleased { s with work.decisions := s.work.decisions.filter fun e => !decides fn n seq e })) := by
  show execScrubPending fn n seq s = _
  rw [execScrubPending]
  change s.work.decisions.find? (fun d => (hdrOf d.cmd).any fun h => h.fn = fn && h.sluice = n && h.seq = seq) = some d at hf
  simp only [hf, if_neg hs]
  rfl

/-! ## Sweeps and pages -/

theorem pagePins_work (t f : Nat) (s : State) : (pagePins t f s).work = s.work := by
  unfold pagePins
  dsimp only
  split <;> rfl

/-- A write of a page's bytes may change a sweep's buffer, and no other field of a polder. -/
theorem getPolder_extWrite {t f off p : Nat} {bs : List Byte} {s : State} {x : Polder} (hx : getPolder s p = some x) :
    ∃ o, getPolder (extWrite t f off bs s) p = some { x with rotation := o } := by
  unfold extWrite
  dsimp only
  split
  · rename_i q r plain hq
    by_cases hp : p = q
    · subst hp
      exact ⟨_, (getPolder_modPolder ..).trans (by rw [hx]; rfl)⟩
    · exact ⟨x.rotation, (getPolder_modPolder_other _ _ _ _ hp).trans hx⟩
  · exact ⟨x.rotation, (getPolder_of_work (pagePins_work ..) p).trans hx⟩

theorem getPolder_writeBack {p : Nat} {r : Rotation} {s : State} {x : Polder} (hx : getPolder s p = some x) :
    ∃ o, getPolder (writeBack p r s) p = some { x with rotation := o } := by
  have hx' : getPolder (modPolder s p fun x => { x with rotation := some { r with buffer := none } }) p =
      some { x with rotation := some { r with buffer := none } } := by rw [getPolder_modPolder, hx]; rfl
  unfold writeBack
  dsimp only
  split
  · obtain ⟨o, ho⟩ := getPolder_extWrite hx'
    exact ⟨o, ho⟩
  · exact ⟨_, hx'⟩

/-- A sweep that passes pages changes its polder's rotation alone: its place, its buffer, and whether it is done. -/
theorem getPolder_sweepOn {p n : Nat} {s : State} {x : Polder} {r : Rotation} (hx : getPolder s p = some x)
    (hr : x.rotation = some r) :
    ∃ r', getPolder (sweepOn p n s) p = some { x with rotation := some r' } ∧ r'.cmd = r.cmd ∧
      (r'.swept = true ↔ 3 ≤ r'.pos.1) ∧ (r'.swept = true → r'.buffer = none) := by
  unfold sweepOn
  rw [hx, Option.bind_some, hr]
  dsimp only
  obtain ⟨o, ho⟩ := getPolder_writeBack (r := r) hx
  refine ⟨_, (getPolder_modPolder ..).trans (congrArg (Option.map _) ho), rfl, decide_eq_true_iff, fun h => ?_⟩
  exact if_pos (of_decide_eq_true h)

/-- A page that no other request reads changes in its own request alone. -/
theorem getReq_setPage {p k j : Nat} {r : Request} {e : PageEntry} {f : PageEntry → PageEntry} {s : State}
    (hr : getReq s p k = some r) (he : r.pages[j]? = some e) (hs : e.shared = false) :
    getReq (setPage p k j f s) p k = some { r with pages := r.pages.set j (f e) } := by
  unfold setPage
  rw [hr, Option.bind_some, he]
  dsimp only
  rw [if_neg (by simp [hs])]
  exact getReq_setReq hr rfl

/-- Settles O51: the scratchpad's cycle by the outcome of each access, a scrub's end by its kind, a sweep by its rotation. -/
theorem storeEvents : Obligations.StoreEvents := by
  intro s
  refine ⟨fun io as h => congrArg _ (if_pos ?_), fun io as all hm hi ha => ?_, fun io all a x hi hx => ?_, fun n hn => ?_,
    fun n j hj => ⟨fun hr => ?_, fun hr u hu => ⟨fun hk => ⟨fun hc => ?_, fun c h hc hh => ?_⟩, fun x hk hx => ?_,
      fun hk => ?_, fun hk => ?_, fun hk => ?_⟩⟩,
    fun fn n seq h => ?_, fun fn n seq d h hd hh hfn hn hseq hs => ?_, fun p h => ?_, fun p x r hm hx hr => ?_,
    fun p n seq k h => ?_, fun p n seq k r e hm hr he hst hc => ?_, fun p k j r e f hr he hs => getReq_setPage hr he hs⟩
  · rcases h with h | h <;> simp [h]
  · subst ha
    exact congrArg _ (if_neg (by simp [hm, Nat.not_le.mpr hi]))
  · subst hx
    exact ⟨serveAccess_read, serveAccess_write, serveAccess_unserved rfl⟩
  · show execScrubDone n s = _
    rw [execScrubDone, hn]
  · rw [exec_scrubDone hj, if_neg (by simp [hr])]
  · rw [exec_scrubDone hj, if_pos hr, endScrub_frames _ hk, ← hu, hc, scrubAnswer]
  · rw [exec_scrubDone hj, if_pos hr, endScrub_frames _ hk, ← hu, hc]
    show Host.Outcome.next (finishCmd c .ok .none [] u) = _
    rw [finishCmd, hh]
  · obtain ⟨t, ht, hp, htdi⟩ := endReset_goesOn hx
    rw [exec_scrubDone hj, if_pos hr, endScrub_reset _ hk, ← hu]
    exact ⟨t, congrArg Host.Outcome.next ht, hp, htdi⟩
  · rw [exec_scrubDone hj, if_pos hr, endScrub_destroy _ hk, ← hu]
    exact ⟨_, rfl, removePolder_gone ..⟩
  · rw [exec_scrubDone hj, if_pos hr, endScrub_debug _ hk, ← hu]
  · rw [exec_scrubDone hj, if_pos hr, endScrub_decommission _ hk, ← hu]
  · refine exec_scrubPending_none (h.imp_left fun h => List.find?_eq_none.mpr fun d hd hit => ?_)
    obtain ⟨g, hg, hhit⟩ := decides_iff.mp hit
    exact h d hd g hg hhit
  · have hit : decides fn n seq d = true := decides_iff.mpr ⟨h, hh, hfn, hn, hseq⟩
    have hf : s.work.decisions.find? (decides fn n seq) = some d := by rw [hd, List.find?_cons_of_pos hit]
    have gone : s.work.decisions.filter (fun e => !decides fn n seq e) = [] := by
      rw [hd, List.filter_cons_of_neg (by rw [hit]; simp), List.filter_nil]
    have forgotten : s.work.released.filter (fun r => ([] : List Decision).any fun d => d.no < r.no) = [] :=
      List.filter_eq_nil_iff.mpr fun r _ => by simp
    rw [exec_scrubPending_found hf hs, finishCmd, hh, gone, dropReleased]
    dsimp only
    rw [forgotten]
  · show execKeySweepDone p s = _
    unfold execKeySweepDone
    rcases h with h | h
    · rw [if_neg (by simp [h])]
    · rw [sweepOn, h, ite_self]
  · obtain ⟨r', hp, hcmd, hswept, hbuf⟩ := getPolder_sweepOn (n := tierFrames 1 + tierFrames 2) hx hr
    exact ⟨_, r', congrArg Host.Outcome.next (if_pos hm), hp, hcmd, hswept, hbuf⟩
  · show execKvCopyDone p n seq k s = _
    unfold execKvCopyDone
    dsimp only
    split
    · rename_i r hr
      split
      · rename_i e he
        rw [if_neg]
        rcases h r e hr he with ⟨h2, h3⟩ | hc | hm
        · simp [h2, h3]
        · simp [hc]
        · simp [hm]
      · rfl
    · rfl
  · show execKvCopyDone p n seq k s = _
    unfold execKvCopyDone
    dsimp only
    rw [hr]
    dsimp only
    rw [he]
    dsimp only
    rw [if_pos (by simpa [hc, hm] using hst)]

end Sys2Proof.Proofs
end

section
/-! Quanta, self-test slices and decisions (O52, O53). -/

namespace Sys2Proof.Proofs
open Sys2Proof Sys2Proof.Machine Sys2Proof.Safety Sys2Proof.Laws

/-! ## Quanta -/

/-- The state and the experts that a quantum keeps leave the ends of its invocation alone. -/
theorem keepNew_ends (w : QWork) (i : Invocation) : (keepNew w i).finished = i.finished ∧ (keepNew w i).running = i.running := by
  unfold keepNew
  split <;> exact ⟨rfl, rfl⟩

theorem getRun_setRun {s : State} {p r : Nat} {y z : Run} (h : getRun s p r = some y) : getRun (setRun s p r z) p r = some z := by
  unfold getRun at h ⊢
  cases hx : getPolder s p with
  | none => rw [hx] at h; cases h
  | some x =>
    rw [setRun, getPolder_modPolder, hx]
    exact tget_tset_same ..

/-- A quantum of a run changes its own invocation: the tensors, and, but for Class S, whether it has ended. -/
theorem getRun_runQuantum {p r no : Nat} {isS last tideLast : Bool} {f : Table TensorData → Table TensorData} {w : QWork}
    {s : State} {y : Run} (h : getRun s p r = some y) :
    getRun (runQuantum p r no isS last tideLast f w s) p r = some { y with invs := y.invs.map fun i =>
      if i.no = no then
        { keepNew w { i with tensors := f i.tensors } with
          finished := if last && !isS then some s.tide.ix else i.finished
          running := if isS then i.running else !last && !tideLast }
      else i } := by
  unfold runQuantum
  rw [h]
  dsimp only
  rw [getRun_setRun h]
  congr 2
  refine List.map_congr_left fun i _ => ?_
  have hf : (keepNew w { i with tensors := f i.tensors }).finished = i.finished := (keepNew_ends ..).1
  have hr : (keepNew w { i with tensors := f i.tensors }).running = i.running := (keepNew_ends ..).2
  generalize keepNew w { i with tensors := f i.tensors } = k at hf hr ⊢
  cases isS with
  | false => simp only [Bool.false_eq_true, if_false, Bool.not_false, Bool.and_true, hf]
  | true => simp only [if_true, Bool.not_true, Bool.and_false, Bool.false_eq_true, if_false, ← hf, ← hr]

/-- A quantum of a run that ends: its results, then what its check finds. -/
theorem quantumEffect_run {q : QuantumEnd} {p r no : Nat} {s : State} {c : Computed} {u : State} (hw : q.who = .run p r no)
    (hc : c = computeQuantum s q)
    (hu : u = touchOutput q c.out (memoryWork q (countExc p c.out.exc (leaveUnits q c (grantRead q s))))) :
    ∃ v, v.work.polders = (runQuantum p r no (isClassS u p) q.last q.tideLast (outputInto s q c.out) q.work u).work.polders ∧
      tget v.work.tileLast (32 * q.stack + q.tile) ≠ none ∧
      (c.ok = true → quantumEffect q s = v) ∧
      (c.ok = false → quantumEffect q s = arithFailure p r no q.stack q.tile (bit (arrayWork q.work).isNone) v) := by
  have howner : ownerOf q.who = p := by rw [hw]; rfl
  generalize hz : runQuantum p r no (isClassS u p) q.last q.tideLast (outputInto s q c.out) q.work u = z
  have e : quantumEffect q s = checkQuantum q c
      { z with work.tileLast := tset z.work.tileLast (32 * q.stack + q.tile) (z.tide.ix, endNs z q, quantumRank z q.who) } := by
    unfold quantumEffect
    dsimp only
    rw [howner, ← hc, ← hu, hw]
    dsimp only
    rw [hz]
  refine ⟨{ z with
    work.tileLast := tset z.work.tileLast (32 * q.stack + q.tile) (z.tide.ix, endNs z q, quantumRank z q.who) }, rfl, ?_,
    fun hok => ?_, fun hok => ?_⟩
  · rw [tget_tset_same]
    exact Option.some_ne_none _
  · rw [e, checkQuantum, if_pos hok]
  · rw [e, checkQuantum, if_neg (by simp [hok]), howner, hw]
    rfl

/-! ## Slices of a tile -/

/-- A slice that passed: its time; a repeat that passed is a breach. -/
theorem slicePassed_effect (stack tile key : Nat) (s : State) :
    (key ∉ (getTile s stack tile).repeating → (slicePassed stack tile key s).safety.nextIndex = s.safety.nextIndex ∧
      tget (getTile (slicePassed stack tile key s) stack tile).results key = some ⟨0, some s.tide.nowQ⟩) ∧
    (key ∈ (getTile s stack tile).repeating → (slicePassed stack tile key s).safety.nextIndex = s.safety.nextIndex + 1 ∧
      tget (getTile (slicePassed stack tile key s) stack tile).results key = some ⟨1, some s.tide.nowQ⟩) := by
  have patrol : ∀ u : State, (if key / 16 = 10 then patrolled stack tile (key % 16) u else u).safety = u.safety ∧
      (if key / 16 = 10 then patrolled stack tile (key % 16) u else u).tide = u.tide := fun u => by
    split <;> exact ⟨rfl, rfl⟩
  unfold slicePassed
  dsimp only
  refine ⟨fun h => ?_, fun h => ?_⟩
  · rw [getTile_setTile]
    simp only [if_neg h]
    exact ⟨congrArg (·.nextIndex) (patrol s).1, by rw [(patrol s).2]; exact tget_tset_same ..⟩
  · rw [getTile_setTile]
    simp only [if_pos h]
    exact ⟨congrArg (·.nextIndex) (patrol _).1, by rw [(patrol _).2]; exact tget_tset_same ..⟩

/-- A slice that failed is repeated; a repeat that failed asks for the removal of the stack. -/
theorem sliceFailed_effect (stack tile key : Nat) (s : State) :
    (key ∉ (getTile s stack tile).repeating → (sliceFailed stack tile key s).work = s.work ∧
      (getTile (sliceFailed stack tile key s) stack tile).repeating = (getTile s stack tile).repeating ++ [key]) ∧
    (key ∈ (getTile s stack tile).repeating → s.work.stackOk.getD stack false = true →
      ∃ c, (stack, c) ∈ (sliceFailed stack tile key s).work.removals) := by
  unfold sliceFailed
  dsimp only
  refine ⟨fun h => ?_, fun h hs => ?_⟩
  · rw [if_neg h, getTile_setTile]
    exact ⟨rfl, rfl⟩
  · rw [if_pos h]
    exact removeStack_removals hs

/-! ## Tests of items outside the tiles -/

/-- The keys of the items that are to be repeated, without one that has ended. -/
theorem not_mem_filter_ne (k : Nat) (l : List Nat) : k ∉ l.filter (· ≠ k) := by
  simp

/-- A first test of an item outside the tiles that passed notes its time; one that failed is to be repeated. -/
theorem outsideEnd_first {item n : Nat} {s : State} (h : 32 * item + n ∉ s.safety.itemsRepeating) :
    outsideEnd item n true s = { s with
      safety.items := tset s.safety.items (32 * item + n) ⟨0, some s.tide.nowQ⟩
      safety.itemsRepeating := s.safety.itemsRepeating.filter (· ≠ 32 * item + n) } ∧
    outsideEnd item n false s = { s with safety.itemsRepeating := s.safety.itemsRepeating ++ [32 * item + n] } := by
  unfold outsideEnd
  dsimp only
  simp only [if_neg h]
  exact ⟨rfl, rfl⟩

/-- A repeated test that passed is a breach, and its item has ended. -/
theorem outsideEnd_repeat_passed {item n : Nat} {s : State} (h : 32 * item + n ∈ s.safety.itemsRepeating) :
    (outsideEnd item n true s).safety.nextIndex = s.safety.nextIndex + 1 ∧
      tget (outsideEnd item n true s).safety.items (32 * item + n) = some ⟨1, some s.tide.nowQ⟩ ∧
      32 * item + n ∉ (outsideEnd item n true s).safety.itemsRepeating := by
  unfold outsideEnd
  dsimp only
  simp only [if_pos h]
  exact ⟨rfl, tget_tset_same .., not_mem_filter_ne _ _⟩

/-- A repeated test that failed: a breach outside the stacks, else the removal of its stack is asked for. -/
theorem outsideEnd_repeat_failed {item n : Nat} {s : State} (h : 32 * item + n ∈ s.safety.itemsRepeating) :
    (outsideStack item n = none → (outsideEnd item n false s).safety.nextIndex = s.safety.nextIndex + 1) ∧
      (∀ j, outsideStack item n = some j → s.work.stackOk.getD j false = true →
        ∃ c, (j, c) ∈ (outsideEnd item n false s).work.removals) := by
  unfold outsideEnd
  dsimp only
  simp only [if_pos h]
  refine ⟨fun ho => by rw [ho]; rfl, fun j ho hs => ?_⟩
  rw [ho]
  exact removeStack_removals hs

/-- The end of a slice of a tile: its gap is free, and the slice has passed or failed. -/
theorem exec_selftestSliceEnd_tile {stack tile item n : Nat} {ok : Bool} {s : State} (hm : mainUp s = true) (hs : stack < 4)
    (ht : tile < 32) (hi : item < 16) (hn : n < 16) (hk : 16 * item + n ∈ sliceKeys) (u : State)
    (hu : u = setTile s stack tile { getTile s stack tile with
      slice := (getTile s stack tile).slice.filter (· ≠ 16 * item + n) }) :
    exec (.selftestSliceEnd stack tile item n ok) s = .next
      (if ok then slicePassed stack tile (16 * item + n) u else sliceFailed stack tile (16 * item + n) u) := by
  show execSelftestSliceEnd stack tile item n ok s = _
  rw [execSelftestSliceEnd, if_neg (by simp [hm]), if_neg (by omega)]
  dsimp only
  rw [if_neg (by simp [Nat.not_le.mpr hs, Nat.not_le.mpr ht, Nat.not_le.mpr hn, hk]), hu]

theorem exec_selftestSliceEnd_outside {stack tile item n : Nat} {ok : Bool} {s : State} (hm : mainUp s = true)
    (hi : 16 ≤ item) (hn : n < outsideInstances item) :
    exec (.selftestSliceEnd stack tile item n ok) s = .next (outsideEnd item n ok s) := by
  show execSelftestSliceEnd stack tile item n ok s = _
  rw [execSelftestSliceEnd, if_neg (by simp [hm]), if_pos hi, if_pos hn]

/-- A slice that names no tile, or no item of it, or nothing that is tested outside the tiles, changes nothing. -/
theorem exec_selftestSliceEnd_other {stack tile item n : Nat} {ok : Bool} {s : State}
    (h : mainUp s = false ∨ (item < 16 ∧ (4 ≤ stack ∨ 32 ≤ tile ∨ 16 ≤ n ∨ 16 * item + n ∉ sliceKeys)) ∨
      (16 ≤ item ∧ outsideInstances item ≤ n)) : exec (.selftestSliceEnd stack tile item n ok) s = .next s := by
  show execSelftestSliceEnd stack tile item n ok s = _
  rw [execSelftestSliceEnd]
  rcases h with h | ⟨hi, h⟩ | ⟨hi, h⟩
  · rw [if_pos (by simp [h])]
  · by_cases hm : (!mainUp s) = true
    · rw [if_pos hm]
    · rw [if_neg hm, if_neg (by omega)]
      dsimp only
      rw [if_pos]
      simp only [Bool.or_eq_true, decide_eq_true_eq]
      tauto
  · by_cases hm : (!mainUp s) = true
    · rw [if_pos hm]
    · rw [if_neg hm, if_pos hi, if_neg (Nat.not_lt.mpr h)]

/-- Settles O52: a quantum by what it works for, a slice by its item and by whether it is a repeat. -/
theorem tileEvents : Obligations.TileEvents := by
  intro s
  refine ⟨fun q h => congrArg _ (if_pos (by simp [h])), fun q h => congrArg _ (if_neg (by simp [h])),
    fun q p r no c u hw hc hu => quantumEffect_run hw hc hu, fun p r no isS last tideLast f w y h => getRun_runQuantum h,
    fun h => congrArg _ (if_pos ?_), fun hm hr hb => ⟨fun h => ?_, fun h => ?_⟩,
    fun stack tile item n ok h => exec_selftestSliceEnd_other h, fun stack tile item n hm hs ht hi hn hk => ⟨?_, ?_⟩,
    fun stack tile item n hm hi hn => ⟨fun h => ⟨?_, ?_⟩, fun h => ⟨?_, ?_⟩⟩, fun stack tile hb hs ht => congrArg _ (if_neg ?_),
    fun stack tile h => congrArg _ (if_pos ?_)⟩
  · rcases h with h | h | h <;> simp [h]
  · exact congrArg _ ((if_neg (by simp [hm, hr, hb])).trans (if_neg h))
  · exact congrArg _ ((if_neg (by simp [hm, hr, hb])).trans (if_pos h))
  · obtain ⟨first, again⟩ := slicePassed_effect stack tile (16 * item + n) (setTile s stack tile { getTile s stack tile with
      slice := (getTile s stack tile).slice.filter (· ≠ 16 * item + n) })
    rw [getTile_setTile] at first again
    exact ⟨_, exec_selftestSliceEnd_tile hm hs ht hi hn hk _ rfl, first, again⟩
  · obtain ⟨first, again⟩ := sliceFailed_effect stack tile (16 * item + n) (setTile s stack tile { getTile s stack tile with
      slice := (getTile s stack tile).slice.filter (· ≠ 16 * item + n) })
    rw [getTile_setTile] at first again
    exact ⟨_, exec_selftestSliceEnd_tile hm hs ht hi hn hk _ rfl, first, again⟩
  · rw [exec_selftestSliceEnd_outside hm hi hn, (outsideEnd_first h).1]
  · rw [exec_selftestSliceEnd_outside hm hi hn, (outsideEnd_first h).2]
  · exact ⟨_, exec_selftestSliceEnd_outside hm hi hn, outsideEnd_repeat_passed h⟩
  · exact ⟨_, exec_selftestSliceEnd_outside hm hi hn, outsideEnd_repeat_failed h⟩
  · simp [hb, Nat.not_le.mpr hs, Nat.not_le.mpr ht]
  · simpa [or_assoc] using h

/-! ## Decisions -/

/-- Settles O53: nothing is decided while decisions wait; a POLDER_CREATE by its checks and by what would fit. -/
theorem decisionEvents : Obligations.DecisionEvents := by
  intro s
  refine ⟨fun m ok hm hs => ?_, fun ok h => ?_, fun plans h => ?_, fun plans d rest hw hd => ⟨fun t ht => ?_, fun ht => ?_⟩,
    fun d h cls n w sr hb sp plans hd => ?_⟩
  · show execPromotionCopyDone ok s = _
    rw [execPromotionCopyDone, hm]
    dsimp only
    rw [if_pos hs]
  · show execPromotionCopyDone ok s = _
    rw [execPromotionCopyDone]
    cases hm : s.work.promotion with
    | none => rfl
    | some m =>
      dsimp only
      rw [if_neg (by simp [h m hm])]
  · show execAdmissionDecision plans s = _
    rw [execAdmissionDecision]
    split
    · rfl
    · rename_i hw
      rw [h.resolve_left hw]
  · show execAdmissionDecision plans s = _
    rw [execAdmissionDecision, if_neg (by simp [hw]), hd]
    dsimp only
    rw [ht]
    rfl
  · show execAdmissionDecision plans s = _
    rw [execAdmissionDecision, if_neg (by simp [hw]), hd]
    dsimp only
    rw [ht]
    rfl
  · have e : decideCommand d.cmd d.no plans s = decideCreate d.no h cls n w sr hb sp s := by rw [hd]; rfl
    rw [e, decideCreate]
    refine ⟨fun st r hc => by rw [hc], fun hc => ⟨fun hq => ?_, fun r hq => ⟨fun hf => ?_, fun hf => ?_⟩⟩⟩
    · rw [hc, hq]
    · rw [hc, hq]
      exact if_neg (by simpa [Option.isNone_iff_eq_none] using hf)
    · rw [hc, hq]
      exact if_pos (by rw [hf]; rfl)

end Sys2Proof.Proofs
end

section
/-! Conversions and residues (O60). -/

namespace Sys2Proof.Proofs
open Sys2Proof Sys2Proof.Machine Sys2Proof.Safety Sys2Proof.Laws

/-! ## Conversions -/

theorem roundUnits_whole (m : Nat) : roundUnits m 0 0 = m := by simp [roundUnits]

theorem isInt_of_le {c : Nat} (hc : c ≤ 3) : isInt c = true := decide_eq_true hc

/-- A natural number in an integer format: itself, or the largest one. -/
theorem convertTo_nat {c : Nat} (hc : c ≤ 3) (m : Nat) : convertTo c (.fin false m 0) =
    if 2 ^ (formatBits c - 1) ≤ m then (2 ^ (formatBits c - 1) - 1, 1) else (m, 0) := by
  simp only [convertTo, isInt_of_le hc, if_true, roundUnits_whole, Bool.false_eq_true, if_false]

/-- A negative number in an integer format: its two's complement, or the least one. -/
theorem convertTo_neg {c : Nat} (hc : c ≤ 3) (m : Nat) : convertTo c (.fin true m 0) =
    if 2 ^ (formatBits c - 1) < m then (2 ^ (formatBits c - 1), 1)
    else ((2 ^ formatBits c - m) % 2 ^ formatBits c, 0) := by
  simp only [convertTo, isInt_of_le hc, if_true, roundUnits_whole]

theorem convertTo_nan_int {c : Nat} (hc : c ≤ 3) : convertTo c .nan = (0, 1) := by
  simp only [convertTo, isInt_of_le hc, if_true]

theorem convertTo_nan_float {c k : Nat} (hc : 3 < c) (hk : canonicalNan c = some k) : convertTo c .nan = (k, 0) := by
  have notInt : isInt c = false := decide_eq_false (Nat.not_le.mpr hc)
  simp only [convertTo, notInt, Bool.false_eq_true, if_false, hk]

/-! ## Residues -/

theorem residue_lt (a : Int) : residue a < 127 := by unfold residue; omega

/-- A product of a residue with a power of two, as the datapath forms it. -/
theorem residue_shift (a : Int) (j : Nat) : residue a * 2 ^ j % 127 = residue (a * 2 ^ j) := by
  have : ((residue a * 2 ^ j % 127 : Nat) : Int) = (residue (a * 2 ^ j) : Nat) := by
    push_cast
    rw [residue_int, residue_int, Int.mul_emod, Int.emod_emod_of_dvd _ (dvd_refl _), ← Int.mul_emod]
  exact_mod_cast this

/-- Shifts count modulo 7, since 2^7 is 1 modulo 127. -/
theorem residue_shift_mod (a : Int) (k : Nat) : residue (a * 2 ^ (k % 7)) = residue (a * 2 ^ k) := by
  refine residue_congr _ _ ?_
  have h : ((2 : Int) ^ (k % 7)) % 127 = 2 ^ k % 127 := by
    have e := congrArg (· % 127) (two_pow_mod k)
    simp only [Nat.mod_mod] at e
    exact_mod_cast e.symm
  rw [Int.mul_emod, h, ← Int.mul_emod]

/-- Shifting back by what is missing to a multiple of 7 undoes a shift. -/
theorem residue_unshift (a : Int) (k : Nat) : residue (a * 2 ^ k * 2 ^ ((7 - k % 7) % 7)) = residue a := by
  have back : (k + (7 - k % 7) % 7) % 7 = 0 := by omega
  rw [mul_assoc, ← pow_add, ← residue_shift_mod, back, pow_zero, mul_one]

/-- The residue of a difference, as the datapath forms it. -/
theorem residue_sub (a b : Int) (j : Nat) : (residue a + 127 - residue b) * 2 ^ j % 127 = residue ((a - b) * 2 ^ j) := by
  rw [← residue_shift]
  have : (residue a + 127 - residue b) % 127 = residue (a - b) % 127 := by
    have ha := residue_int a
    have hb := residue_int b
    have hab := residue_int (a - b)
    have hlt := residue_lt b
    omega
  rw [Nat.mul_mod, this, ← Nat.mul_mod]

/-- A significand is its part above a shift and the part that the shift drops, under either sign. -/
theorem signed_split (neg : Bool) (m k : Nat) :
    (if neg then -(m : Int) else m) - (if neg then -((m % 2 ^ k : Nat) : Int) else (m % 2 ^ k : Nat)) =
      (if neg then -((m / 2 ^ k : Nat) : Int) else (m / 2 ^ k : Nat)) * 2 ^ k := by
  have h : (m : Int) = 2 ^ k * (m / 2 ^ k : Nat) + (m % 2 ^ k : Nat) := by
    exact_mod_cast (Nat.div_add_mod m (2 ^ k)).symm
  cases neg
  · simp only [Bool.false_eq_true, if_false]; linarith
  · simp only [if_true]; linarith

theorem alignedResidue_left (neg : Bool) (m k : Nat) :
    alignedResidue neg m k = residue (if neg then -((m * 2 ^ k : Nat) : Int) else (m * 2 ^ k : Nat)) := by
  unfold alignedResidue
  dsimp only
  rw [if_pos (Int.natCast_nonneg k), Int.toNat_natCast, residue_shift, residue_shift_mod]
  cases neg
  · simp
  · simp

theorem alignedResidue_right (neg : Bool) (m k : Nat) :
    alignedResidue neg m (-(k : Int)) = residue (if neg then -((m / 2 ^ k : Nat) : Int) else (m / 2 ^ k : Nat)) := by
  by_cases hk : k = 0
  · subst hk
    have := alignedResidue_left neg m 0
    simpa using this
  · unfold alignedResidue
    dsimp only
    rw [if_neg (by omega), neg_neg, Int.toNat_natCast, residue_sub, signed_split, residue_unshift]

/-- A 48-bit window read without sign is 2^48 more than its negative value, and 2^48 is 64 modulo 127. -/
theorem windowResidue_eq (a : Int) : windowResidue a = residue a := by
  unfold windowResidue residue
  split
  · congr 1
    omega
  · rfl

/-- Settles O60: rounding by `roundNearest`, integer conversion by its two saturations, residues by 2^7 = 1 modulo 127. -/
theorem conversionsAndResidues : Obligations.ConversionsAndResidues := by
  refine ⟨fun m e u => ⟨fun h => if_pos h, fun h => ?_⟩, fun c m hc => ⟨fun h => ?_, fun h => ?_, fun h0 h => ?_, fun h => ?_,
    convertTo_nan_int hc⟩, fun c k hc hk => convertTo_nan_float hc hk,
    fun m neg k => ⟨alignedResidue_left neg m k, alignedResidue_right neg m k⟩, fun a _ _ => windowResidue_eq a⟩
  · unfold roundUnits
    rw [if_neg (Int.not_le.mpr h)]
    exact roundNearest (Nat.two_pow_pos _)
  · rw [convertTo_nat hc, if_neg (Nat.not_le.mpr h)]
  · rw [convertTo_nat hc, if_pos h]
  · have half : 2 ^ (formatBits c - 1) ≤ 2 ^ formatBits c := Nat.pow_le_pow_right (by decide) (Nat.sub_le _ _)
    rw [convertTo_neg hc, if_neg (Nat.not_lt.mpr h), Nat.mod_eq_of_lt (by omega)]
  · rw [convertTo_neg hc, if_pos h]

end Sys2Proof.Proofs
end


section
/-! Votes of the wardens (O54): what an event leaves of a warden's queue, and each event's cases. -/

namespace Sys2Proof.Proofs

open Sys2Proof Sys2Proof.Machine Sys2Proof.Safety Sys2Proof.Laws

/-! ### What an emission leaves of the queue -/

theorem wardenBreach_queue (w x : Warden) (a b c d e f : Nat) (s : State) :
    (getWarden (wardenBreach w a b c d e f s) x).queue = (getWarden s x).queue := by
  unfold wardenBreach
  dsimp only
  split
  · cases x <;> rfl
  · cases w <;> cases x <;> rfl

theorem keepTrajectory_queue (w x : Warden) (v : Vote) (d : BitVec 128) (s : State) :
    (getWarden (keepTrajectory w v d s) x).queue = (getWarden s x).queue := by
  unfold keepTrajectory
  split
  · rfl
  · split
    · cases x <;> rfl
    · exact wardenBreach_queue ..

theorem leaveHold_queue (x : WardenSt) : (leaveHold x).queue = x.queue := by
  unfold leaveHold; split <;> rfl

theorem releaseHold_queue (k : Option Trajectory) (x : Warden) (v : Vote) (s : State) :
    (getWarden (releaseHold k v s) x).queue = (getWarden s x).queue := by
  unfold releaseHold
  split
  · split
    · cases x <;> exact leaveHold_queue _
    · rfl
  · rfl

theorem setVote_queue (w x : Warden) (v : Vote) (s : State) :
    (getWarden (setVote w v s) x).queue = (getWarden s x).queue := by
  cases w <;> cases x <;> rfl

/-- A payload whose digest fits is queued in segments, behind what the warden has to send already. -/
theorem emitVoted_queue {w : Warden} {v : Vote} {d : BitVec 128} {s : State} (hc : canEmit s w = true)
    (hd : resultDigest v.tag v.payload = d) : (getWarden (emitVoted w v d s) w).queue =
      (getWarden s w).queue ++ (portsFor s false v.polder v.run).flatMap (resultSegments s w v d) := by
  unfold emitVoted
  rw [if_neg (by simp [hc]), if_neg (not_not_intro hd)]
  dsimp only
  rw [releaseHold_queue, keepTrajectory_queue, setVote_queue, getWarden_setWarden]

/-! ### The event of a complete result -/

theorem exec_resultReady_idle {p r c : Nat} {bs : List Byte} {s : State}
    (h : ∀ y, getRun s p r = some y → isClassS s p = false ∨ c ∉ liveChannels s ∨ sentResult s p r c = true ∨
      4096 < bs.length ∨ bs = [] ∨ s.tide.discard = true ∨ resultInv y = none) :
    exec (.resultReady p r c bs) s = .next s := by
  show execResultReady p r c bs s = _
  rw [execResultReady]
  cases hy : getRun s p r with
  | none => rfl
  | some y =>
    refine congrArg _ ?_
    dsimp only
    split
    · rfl
    · next hn =>
      simp only [Bool.or_eq_true, Bool.not_eq_true', decide_eq_true_eq] at hn
      have hi : resultInv y = none := by
        rcases h y hy with h | h | h | h | h | h | h
        · exact absurd (by simp [h]) hn
        · exact absurd (by simp [h]) hn
        · exact absurd (by simp [h]) hn
        · exact absurd (by simp [h]) hn
        · exact absurd (by simp [h]) hn
        · exact absurd (by simp [h]) hn
        · exact h
      rw [hi]

theorem sendVote_first {p r c : Nat} {f : VoteFrame} {d : Option (BitVec 128)} {s : State} (h : sentResult s p r c = false) :
    sendVote p r c f d s = emit (.voteFrame .B f (voteFrameBytes f)) (emit (.voteFrame .A f (voteFrameBytes f))
      { s with work.results := s.work.results ++ [(p, r, c, d)] }) := by
  unfold sendVote
  exact if_neg (by simp [h])

/-- The frame that a channel sends with its complete result. -/
def resultFrame (s : State) (p r c : Nat) (y : Run) (i : Invocation) (bs : List Byte) : VoteFrame :=
  { tag := resultTag s p r, channel := c, stack := stackOfChannel s c, marker := false
    trajectory := (getGraph s p y.handle).any fun g => g.img.safety.any (·.carriesTrajectory)
    payload := channelResult s p y i c bs
    digest := resultDigest (resultTag s p r) (channelResult s p y i c bs), crcOk := true, testFrame := false }

theorem exec_resultReady_sends {p r c : Nat} {y : Run} {i : Invocation} {bs : List Byte} {s : State}
    (hS : isClassS s p = true) (hc : c ∈ liveChannels s) (hn : sentResult s p r c = false) (hb : bs ≠ [])
    (hl : bs.length ≤ 4096) (hd : s.tide.discard = false) (hy : getRun s p r = some y) (hi : resultInv y = some i) :
    exec (.resultReady p r c bs) s = .next (setRun
      (sendVote p r c (resultFrame s p r c y i bs) (some (resultFrame s p r c y i bs).digest) s) p r
      { y with invs := y.invs.map fun j =>
          if j.no = i.no && j.finished.isNone then
            { j with finished := some s.tide.ix, running := false, result := some (channelResult s p y i c bs) }
          else j }) := by
  show execResultReady p r c bs s = _
  rw [execResultReady, hy]
  refine congrArg _ ?_
  dsimp only
  rw [if_neg (by simp [hS, hc, hn, hb, hd, Nat.not_lt.mpr hl]), hi]
  have ht : (sendVote p r c (resultFrame s p r c y i bs) (some (resultFrame s p r c y i bs).digest) s).tide = s.tide := by
    rw [sendVote_first hn]; rfl
  rw [← ht]
  rfl

/-! ### The frames at a warden -/

theorem discardFrame_effect (crc : Bool) (w : Warden) (stack : Nat) (s : State) :
    tget (getWarden (discardFrame crc w stack s) w).discards (laneOf w stack) =
      some ((tget (getWarden s w).discards (laneOf w stack)).getD 0 + 1) ∧
    (getWarden (discardFrame crc w stack s) w).votes = (getWarden s w).votes ∧
    (crc = false → (getWarden (discardFrame crc w stack s) w).badLanes = (getWarden s w).badLanes) ∧
    (crc = true → (laneOf w stack, s.tide.ix) ∈ (getWarden (discardFrame crc w stack s) w).badLanes) := by
  have ht : ∀ x, (setWarden s w x).tide = s.tide := by intro x; cases w <;> rfl
  cases crc with
  | false =>
    refine ⟨?_, ?_, fun _ => ?_, fun h => by cases h⟩ <;> unfold discardFrame <;>
      simp only [Bool.false_eq_true, if_false, getWarden_setWarden, tget_tset_same]
  | true =>
    refine ⟨?_, ?_, (fun h => by cases h), fun _ => ?_⟩ <;> unfold discardFrame badLane <;>
      simp only [if_true, getWarden_setWarden, tget_tset_same, ht, List.mem_cons, true_or]

theorem exec_voteFrame_ignored {w : Warden} {f : VoteFrame} {s : State}
    (h : f.testFrame = true ∨ canVote s w = false ∨ f.stack ∉ channelStacks s) : exec (.voteFrame w f) s = .next s :=
  congrArg _ (if_pos (by
    simp only [Bool.or_eq_true, Bool.not_eq_true', decide_eq_true_eq]
    rcases h with h | h | h
    · exact .inl (.inl h)
    · exact .inl (.inr h)
    · exact .inr h))

/-- The warden listens to the lane of the frame's stack. -/
def listensTo (w : Warden) (f : VoteFrame) (s : State) : Prop :=
  f.testFrame = false ∧ canVote s w = true ∧ f.stack ∈ channelStacks s

theorem exec_voteFrame_discarded {w : Warden} {f : VoteFrame} {s : State} (hw : listensTo w f s)
    (h : f.crcOk = false ∨ expectedTag s f.tag = false) :
    exec (.voteFrame w f) s = .next (discardFrame (!f.crcOk) w f.stack s) := by
  obtain ⟨ht, hv, hs⟩ := hw
  refine congrArg Host.Outcome.next ((if_neg (by simp [ht, hv, hs])).trans (if_pos ?_))
  rcases h with h | h <;> simp [h]

/-- The vote that a frame belongs to, where the warden has it. -/
def voteOf (w : Warden) (f : VoteFrame) (s : State) : Option Vote :=
  (getWarden s w).votes.find? fun u => u.polder = f.tag.srcLocal / 64 && u.run = f.tag.srcLocal % 64

/-- The vote as it stands before the frame. -/
def voteBefore (w : Warden) (f : VoteFrame) (s : State) : Vote :=
  (voteOf w f s).getD { polder := f.tag.srcLocal / 64, run := f.tag.srcLocal % 64, tag := f.tag, frames := [] }

/-- What a frame says: its digest, or that it is a fault marker. -/
def frameDigest (f : VoteFrame) : Nat × Option (BitVec 128) := (f.channel, if f.marker then none else some f.digest)

/-- The vote with the frame, and with its payload where two live channels agree on it. -/
def voteWith (f : VoteFrame) (v : Vote) (s : State) : Vote :=
  if agreed s (v.frames ++ [frameDigest f]) = some f.digest && !f.marker && v.payload = [] then
    { v with frames := v.frames ++ [frameDigest f], payload := f.payload, trajectory := f.trajectory }
  else { v with frames := v.frames ++ [frameDigest f] }

theorem voteWith_frames (f : VoteFrame) (v : Vote) (s : State) :
    (voteWith f v s).frames = v.frames ++ [frameDigest f] ∧ (voteWith f v s).emitted = v.emitted := by
  unfold voteWith; split <;> exact ⟨rfl, rfl⟩

/-- The warden's votes with that of the frame at their end. -/
def withVote (w : Warden) (f : VoteFrame) (v : Vote) (s : State) : State :=
  setWarden s w { getWarden s w with
    votes := ((getWarden s w).votes.filter fun u =>
      !(u.polder = f.tag.srcLocal / 64 && u.run = f.tag.srcLocal % 64)) ++ [v] }

section
variable {w : Warden} {f : VoteFrame} {s : State}

/-- A frame names an expected result of a lane to which the warden listens. -/
def counts (w : Warden) (f : VoteFrame) (s : State) : Prop :=
  listensTo w f s ∧ f.crcOk = true ∧ expectedTag s f.tag = true

theorem exec_voteFrame_late (h : counts w f s)
    (hc : (getWarden s w).cut = true ∨ (voteBefore w f s).frames.any (·.1 = f.channel) = true) :
    exec (.voteFrame w f) s = .next s := by
  obtain ⟨⟨ht, hv, hs⟩, hcrc, htag⟩ := h
  refine congrArg Host.Outcome.next ((if_neg (by simp [ht, hv, hs])).trans
    ((if_neg (by simp [hcrc, htag])).trans (if_pos ?_)))
  rw [Bool.or_eq_true]
  exact hc

/-- A frame that the warden keeps: its vote, and what the vote emits. -/
theorem exec_voteFrame_kept (h : counts w f s) (hc : (getWarden s w).cut = false)
    (hn : (voteBefore w f s).frames.any (·.1 = f.channel) = false) :
    (agreed s ((voteBefore w f s).frames ++ [frameDigest f]) = some f.digest → f.marker = false →
      (voteBefore w f s).emitted = none → exec (.voteFrame w f) s =
        .next (emitVoted w (voteWith f (voteBefore w f s) s) f.digest (withVote w f (voteWith f (voteBefore w f s) s) s))) ∧
    (agreed s ((voteBefore w f s).frames ++ [frameDigest f]) ≠ some f.digest ∨ f.marker = true ∨
      (voteBefore w f s).emitted ≠ none → exec (.voteFrame w f) s =
        .next (withVote w f (voteWith f (voteBefore w f s) s) s)) := by
  obtain ⟨⟨ht, hv, hs⟩, hcrc, htag⟩ := h
  have hx : exec (.voteFrame w f) s = .next (
      (agreed s ((voteBefore w f s).frames ++ [frameDigest f])).elim (withVote w f (voteWith f (voteBefore w f s) s) s)
        fun d => if (voteWith f (voteBefore w f s) s).emitted.isSome || f.marker || d ≠ f.digest then
          withVote w f (voteWith f (voteBefore w f s) s) s
        else emitVoted w (voteWith f (voteBefore w f s) s) d (withVote w f (voteWith f (voteBefore w f s) s) s)) := by
    refine congrArg Host.Outcome.next ((if_neg (by simp [ht, hv, hs])).trans
      ((if_neg (by simp [hcrc, htag])).trans ((if_neg ?_).trans ?_)))
    · rw [hc, Bool.false_or]
      exact ne_of_eq_of_ne hn Bool.false_ne_true
    · show (match agreed s ((voteBefore w f s).frames ++ [frameDigest f]) with | some d => _ | none => _) = _
      cases agreed s ((voteBefore w f s).frames ++ [frameDigest f]) <;> rfl
  have he := (voteWith_frames f (voteBefore w f s) s).2
  refine ⟨fun ha hm hemit => ?_, fun hor => ?_⟩
  · rw [hx, ha, Option.elim_some, if_neg (by simp [he, hemit, hm])]
  · rw [hx]
    cases ha : agreed s ((voteBefore w f s).frames ++ [frameDigest f]) with
    | none => rfl
    | some d =>
      rw [Option.elim_some, if_pos]
      rw [he]
      rcases hor with hor | hor | hor
      · rw [ha] at hor
        have : d ≠ f.digest := fun e => hor (congrArg some e)
        simp [this]
      · simp [hor]
      · simp [Option.isSome_iff_ne_none.mpr hor]

end

/-- One frame is no agreement. -/
theorem agreed_single (s : State) (x : Nat × Option (BitVec 128)) : agreed s [x] = none := by
  have hl : (([x].filter fun f => f.1 ∈ liveChannels s).map (·.2)).length ≤ 1 := by
    rw [List.length_map]; exact List.length_filter_le _ [x]
  refine Option.eq_none_iff_forall_ne_some.mpr fun d h => ?_
  have h2 := (majority_iff _ d (hl.trans (by decide))).mp h
  exact absurd (h2.trans ((List.length_filter_le _ _).trans hl)) (by decide)

/-- The first frame of a result stands alone in its vote, at the end of the warden's votes. -/
theorem exec_voteFrame_first {w : Warden} {f : VoteFrame} {s : State} (h : counts w f s) (hc : (getWarden s w).cut = false)
    (hv : voteOf w f s = none) : exec (.voteFrame w f) s = .next (setWarden s w { getWarden s w with
      votes := (getWarden s w).votes ++ [{ polder := f.tag.srcLocal / 64, run := f.tag.srcLocal % 64, tag := f.tag,
                                           frames := [frameDigest f] }] }) := by
  have hb : voteBefore w f s = { polder := f.tag.srcLocal / 64, run := f.tag.srcLocal % 64, tag := f.tag, frames := [] } := by
    rw [voteBefore, hv]; rfl
  have ha : agreed s ((voteBefore w f s).frames ++ [frameDigest f]) = none := by rw [hb]; exact agreed_single s _
  rw [(exec_voteFrame_kept h hc (by rw [hb]; rfl)).2 (.inl (by rw [ha]; exact nofun))]
  have hw : voteWith f (voteBefore w f s) s = { voteBefore w f s with
      frames := (voteBefore w f s).frames ++ [frameDigest f] } := if_neg (by rw [ha]; simp)
  have hf : ((getWarden s w).votes.filter fun u =>
      !(u.polder = f.tag.srcLocal / 64 && u.run = f.tag.srcLocal % 64)) = (getWarden s w).votes :=
    List.filter_eq_self.mpr fun u hu => by
      simpa [← not_and_or] using List.find?_eq_none.mp hv u hu
  rw [hw, withVote, hf, hb]
  rfl

/-! ### The obligation -/

/-- Settles O54: each event of the vote by the branch that its conditions choose; a frame's vote is the one found under its
tag, and what is emitted goes behind the warden's queue. -/
theorem voteEvents : Obligations.VoteEvents := by
  intro s
  refine ⟨fun p r c bs h => exec_resultReady_idle h, ?_, fun w f h => exec_voteFrame_ignored h, ?_, ?_, ?_, ?_, ?_, ?_⟩
  case refine_1 =>
    intro p r c y i bs hS hc hn hb hl hd hy hi
    refine ⟨_, resultFrame s p r c y i bs, exec_resultReady_sends hS hc hn hb hl hd hy hi, ?_, rfl, rfl, rfl, rfl, rfl, ?_, ?_⟩
    · rw [sendVote_first hn]; rfl
    · rw [sendVote_first hn]
      exact List.any_eq_true.mpr ⟨_, List.mem_append_right _ (List.mem_singleton_self _), by simp⟩
    · refine getRun_setRun (y := y) ?_
      rw [sendVote_first hn]
      exact hy
  case refine_2 =>
    intro w f ht hv hs h
    obtain ⟨hd, hvotes, hok, hbad⟩ := discardFrame_effect (!f.crcOk) w f.stack s
    exact ⟨_, exec_voteFrame_discarded ⟨ht, hv, hs⟩ h, hd, hvotes,
      fun hc => hok (by simp [hc]), fun hc => hbad (by simp [hc])⟩
  case refine_3 =>
    intro w f ht hv hs hcrc htag old hold
    have hw : counts w f s := ⟨⟨ht, hv, hs⟩, hcrc, htag⟩
    have hold : voteOf w f s = old := hold.symm
    refine ⟨fun h => exec_voteFrame_late hw (h.imp_right fun ha => ?_),
      fun hcut hnone => exec_voteFrame_first hw hcut (hold.trans hnone), fun v fs hcut hv hn hfs => ?_⟩
    · unfold voteBefore
      rw [hold]
      cases old with
      | none => cases ha
      | some v => exact ha
    · subst hv hfs
      have hb : voteBefore w f s = v := by rw [voteBefore, hold]; rfl
      have hkept := exec_voteFrame_kept hw hcut (hb ▸ hn)
      rw [hb] at hkept
      refine ⟨voteWith f v s, withVote w f (voteWith f v s) s, rfl, (voteWith_frames f v s).1, (voteWith_frames f v s).2, ?_,
        hkept.1, hkept.2⟩
      intro ha hm hp
      unfold voteWith
      rw [if_pos (by rw [show agreed s (v.frames ++ [frameDigest f]) = some f.digest from ha, hm, hp]; simp)]
      exact ⟨rfl, rfl⟩
  case refine_4 =>
    intro w v d
    refine ⟨fun h => ?_, fun hc hd => ?_, fun hc hd => emitVoted_queue hc hd⟩
    · exact if_pos (by simp [h])
    · exact (if_neg (by simp [hc])).trans (if_pos hd)
  case refine_5 =>
    intro frames d hl
    unfold agreed
    dsimp only
    rw [majority_iff _ _ (by rw [List.length_map]; exact hl), List.filter_map, List.length_map]
    rfl
  case refine_6 =>
    intro w
    refine ⟨fun h => congrArg _ (if_pos (by simp [h])), fun h hx => ?_, fun h hx => ?_⟩
    · exact congrArg _ ((if_neg (by simp [h])).trans (if_pos (by cases w <;> exact hx)))
    · exact congrArg _ ((if_neg (by simp [h])).trans (if_neg (by cases w <;> simp [hx])))
  case refine_7 =>
    intro w lines
    refine ⟨fun h hx => congrArg _ (if_pos (by simp [h, hx])), fun h => congrArg _ (if_neg ?_)⟩
    rcases h with h | h <;> simp [h]

end Sys2Proof.Proofs
end


section
/-! The wardens' events (O55): segments and fallback points, tide marks, boots and trial boots. -/

namespace Sys2Proof.Proofs

open Sys2Proof Sys2Proof.Machine Sys2Proof.Safety Sys2Proof.Laws

/-! ### What a write of a warden and a warden's breach leave as they were -/

theorem setWarden_outside (s : State) (w : Warden) (x : WardenSt) : (setWarden s w x).tide = s.tide ∧
    (setWarden s w x).safety = s.safety ∧ (setWarden s w x).ident = s.ident ∧ (setWarden s w x).startup = s.startup ∧
    mainUp (setWarden s w x) = mainUp s := by
  cases w <;> exact ⟨rfl, rfl, rfl, rfl, rfl⟩

theorem wardenBreach_outside (w : Warden) (a b c d e f : Nat) (s : State) :
    (wardenBreach w a b c d e f s).tide = s.tide ∧ (wardenBreach w a b c d e f s).safety.hold = s.safety.hold ∧
    (getWarden (wardenBreach w a b c d e f s) w).state = (getWarden s w).state := by
  unfold wardenBreach
  dsimp only
  split
  · cases w <;> exact ⟨rfl, rfl, rfl⟩
  · cases w <;> exact ⟨rfl, rfl, rfl⟩

theorem armedNext_elsewhere {s : State} {x : WardenSt} (h : x.state ≠ .armed) : armedNext s x = x := if_pos h

/-! ### Tide marks -/

section
variable {w : Warden} {c : Nat} {relabel late : Bool} {s : State}

/-- The mark is the warden's first after its boot, or after a span without marks. -/
def firstMark (x : WardenSt) : Bool := x.stopped || (x.goodMarks = 0 && x.state = .armed)

/-- The warden is out of OFF and BOOT: it takes marks. -/
def takesMarks (x : WardenSt) : Prop := x.state ≠ .off ∧ x.state ≠ .boot

theorem exec_wardenTideMark_good (h : takesMarks (getWarden s w)) {u : State} (hu : u = marksReturn (marksResumed w s))
    (hg : firstMark (getWarden s w) = true ∨ (late = false ∧ (c = (getWarden u w).count + 1 ∨ relabel = true))) :
    exec (.wardenTideMark w c relabel late) s = .next (setWarden u w (unmute u w (armedNext u
      { getWarden u w with
        count := c, goodMarks := (getWarden u w).goodMarks + 1, peerSilent := (getWarden u w).peerSilent + 1 }))) := by
  subst hu
  refine congrArg Host.Outcome.next ((if_neg (by simp [h.1, h.2])).trans (if_neg ?_))
  show ¬ (((late || _) && !firstMark (getWarden s w)) = true)
  rcases hg with hg | ⟨hl, hg | hg⟩
  · rw [hg]; simp
  · rw [hl, hg]; simp
  · rw [hl, hg]; simp

theorem exec_wardenTideMark_bad (h : takesMarks (getWarden s w)) {u v : State} (hu : u = marksReturn (marksResumed w s))
    (hf : firstMark (getWarden s w) = false) (hb : late = true ∨ (c ≠ (getWarden u w).count + 1 ∧ relabel = false))
    (hv : v = wardenBreach w 0x0E 0 255 255 (if late then 0 else 1) 0 u) :
    exec (.wardenTideMark w c relabel late) s = .next (setWarden v w (unmute v w
      { getWarden v w with
        count := (getWarden v w).count + 1, goodMarks := 0, peerSilent := (getWarden v w).peerSilent + 1
        badMarks := v.tide.ix :: (getWarden v w).badMarks.filter fun i => v.tide.ix < i + 1000 })) := by
  subst hu hv
  refine congrArg Host.Outcome.next ((if_neg (by simp [h.1, h.2])).trans (if_pos ?_))
  show ((late || _) && !firstMark (getWarden s w)) = true
  rw [hf]
  rcases hb with hb | ⟨hb, hr⟩
  · rw [hb]; rfl
  · rw [hr]; simp [hb]

theorem marksResumed_running (h : (getWarden s w).stopped = false) :
    marksResumed w s = setWarden s w { getWarden s w with stopped := false, missing := 0 } := by
  unfold marksResumed
  dsimp only
  rw [if_neg (by simp [h])]

theorem marksResumed_stopped (h : (getWarden s w).stopped = true) (hm : mainUp s = true) :
    (marksResumed w s).safety.nextIndex = s.safety.nextIndex + 1 ∧
    getWarden (marksResumed w s) w = { getWarden s w with stopped := false, missing := 0 } := by
  obtain ⟨hn, hw⟩ := wardenBreach_next w 0x0E 0 255 255 3 (getWarden s w).missing s hm
  unfold marksResumed
  dsimp only
  rw [if_pos h, (setWarden_outside ..).2.1, hn, getWarden_setWarden, getWarden_of hw]
  exact ⟨rfl, rfl⟩

/-- A warden that takes marks, does not wait for them and is not muted, with no SAFE_HOLD. -/
structure Steady (w : Warden) (s : State) : Prop where
  muted : (getWarden s w).muted = false
  stopped : (getWarden s w).stopped = false
  hold : s.safety.hold = none

theorem Steady.resumed {w : Warden} {s : State} (h : Steady w s) :
    marksReturn (marksResumed w s) = setWarden s w { getWarden s w with missing := 0 } := by
  rw [marksReturn_running h.stopped h.hold]
  have hs := h.stopped
  generalize getWarden s w = x at hs
  cases x
  cases hs
  rfl

theorem exec_wardenTideMark_steady (h : Steady w s) (ht : takesMarks (getWarden s w)) :
    exec (.wardenTideMark w ((getWarden s w).count + 1) false false) s =
      .next (setWarden s w (unmute (setWarden s w { getWarden s w with missing := 0 }) w
        (armedNext (setWarden s w { getWarden s w with missing := 0 })
          { getWarden s w with
            count := (getWarden s w).count + 1, goodMarks := (getWarden s w).goodMarks + 1, missing := 0
            peerSilent := (getWarden s w).peerSilent + 1 }))) := by
  have hx := exec_wardenTideMark_good (c := (getWarden s w).count + 1) (relabel := false) (late := false) ht h.resumed.symm
    (.inr ⟨rfl, .inl (by rw [getWarden_setWarden])⟩)
  rwa [setWarden_setWarden, getWarden_setWarden] at hx

theorem exec_wardenTideMark_steady_voting (h : Steady w s) (hv : (getWarden s w).state = .voting) :
    exec (.wardenTideMark w ((getWarden s w).count + 1) false false) s = .next (setWarden s w { getWarden s w with
      count := (getWarden s w).count + 1, goodMarks := (getWarden s w).goodMarks + 1, missing := 0
      peerSilent := (getWarden s w).peerSilent + 1 }) := by
  have ht : takesMarks (getWarden s w) := ⟨by simp [hv], by simp [hv]⟩
  rw [exec_wardenTideMark_steady h ht, armedNext_elsewhere (by rw [hv]; exact nofun), unmute_unmuted]
  exact h.muted

theorem exec_wardenTideMark_late (h : Steady w s) (hv : (getWarden s w).state = .voting) (hm : mainUp s = true) :
    ∃ t, exec (.wardenTideMark w c relabel true) s = .next t ∧ (getWarden t w).goodMarks = 0 ∧
      (getWarden t w).count = (getWarden s w).count + 1 ∧ t.safety.nextIndex = s.safety.nextIndex + 1 := by
  have ht : takesMarks (getWarden s w) := ⟨by simp [hv], by simp [hv]⟩
  have hf : firstMark (getWarden s w) = false := by simp [firstMark, h.stopped, hv]
  obtain ⟨-, hsafe, -, -, hup⟩ := setWarden_outside s w { getWarden s w with missing := 0 }
  obtain ⟨hn, hw⟩ := wardenBreach_next w 0x0E 0 255 255 0 0 (setWarden s w { getWarden s w with missing := 0 }) (hup.trans hm)
  have hg := (getWarden_of hw w).trans (getWarden_setWarden s w _)
  refine ⟨_, exec_wardenTideMark_bad ht h.resumed.symm hf (.inl rfl) rfl, ?_⟩
  rw [if_pos rfl, unmute_unmuted (by rw [hg]; exact h.muted), getWarden_setWarden, (setWarden_outside ..).2.1, hn, hsafe, hg]
  exact ⟨rfl, rfl, rfl⟩

theorem exec_wardenTideMark_third (h : Steady w s) (hv : (getWarden s w).state = .armed)
    (h2 : (getWarden s w).goodMarks = 2) (hi : (getWarden s w).injectionOk = true) (hd : s.ident.wardenDebug = false) :
    ∃ t, exec (.wardenTideMark w ((getWarden s w).count + 1) false false) s = .next t ∧ (getWarden t w).state = .voting := by
  have ht : takesMarks (getWarden s w) := ⟨by simp [hv], by simp [hv]⟩
  obtain ⟨-, hsafe, hident, -⟩ := setWarden_outside s w { getWarden s w with missing := 0 }
  refine ⟨_, exec_wardenTideMark_steady h ht, ?_⟩
  rw [getWarden_setWarden]
  unfold armedNext
  rw [if_neg (not_not_intro hv), if_neg (by rw [hsafe, h.hold]; exact Bool.false_ne_true),
    if_pos (by rw [hident]; simp [h2, hi, hd]), unmute_unmuted]
  · exact if_neg (by simp [h.muted])
  · exact h.muted

/-! ### Missing marks -/

theorem exec_tideMarkMissing_ignored (h : awaitsMarks (getWarden s w) = false) : exec (.tideMarkMissing w) s = .next s :=
  congrArg _ (if_pos (by simp [h]))

/-- The state in which a missing mark is counted: the first of a span is a breach. -/
def missNoted (w : Warden) (s : State) : State :=
  if (getWarden s w).stopped then s else wardenBreach w 0x0E 0 255 255 2 0 s

/-- The warden counts a mark that is missing. -/
def markMissed (w : Warden) (s : State) : State :=
  setWarden (missNoted w s) w (unmute (missNoted w s) w { getWarden (missNoted w s) w with
    missing := (getWarden s w).missing + 1, stopped := true, goodMarks := 0
    count := (getWarden (missNoted w s) w).count + 1, peerSilent := (getWarden (missNoted w s) w).peerSilent + 1 })

theorem missNoted_outside (w : Warden) (s : State) : (missNoted w s).safety.hold = s.safety.hold ∧
    (getWarden (missNoted w s) w).state = (getWarden s w).state ∧ mainUp (missNoted w s) = mainUp s := by
  unfold missNoted
  split
  · exact ⟨rfl, rfl, rfl⟩
  · obtain ⟨-, hh, hw⟩ := wardenBreach_outside w 0x0E 0 255 255 2 0 s
    exact ⟨hh, hw, wardenBreach_mainUp ..⟩

theorem exec_tideMarkMissing_counts (h : awaitsMarks (getWarden s w) = true) : exec (.tideMarkMissing w) s = .next
    (if (getWarden s w).missing + 1 = 3 && (getWarden s w).state ≠ .armed && s.safety.hold.isNone then
      (if mainUp s then enterHold 4 (markMissed w s) else wardenHold w (markMissed w s)) else markMissed w s) := by
  obtain ⟨hh, hw, hm⟩ := missNoted_outside w s
  obtain ⟨-, hs, -, -, hup⟩ := setWarden_outside (missNoted w s) w (unmute (missNoted w s) w { getWarden (missNoted w s) w with
    missing := (getWarden s w).missing + 1, stopped := true, goodMarks := 0
    count := (getWarden (missNoted w s) w).count + 1, peerSilent := (getWarden (missNoted w s) w).peerSilent + 1 })
  refine congrArg Host.Outcome.next ((if_neg (by simp [h])).trans ?_)
  rw [← hh, ← hw, ← hm, ← hs, ← hup]
  rfl

theorem exec_tideMarkMissing_third (h : awaitsMarks (getWarden s w) = true) (hn : (getWarden s w).missing = 2)
    (ha : (getWarden s w).state ≠ .armed) (hh : s.safety.hold = none) : exec (.tideMarkMissing w) s = .next
    (if mainUp s then enterHold 4 (markMissed w s) else wardenHold w (markMissed w s)) := by
  rw [exec_tideMarkMissing_counts h, if_pos (by simp [hn, ha, hh])]

theorem exec_tideMarkMissing_other (h : awaitsMarks (getWarden s w) = true)
    (ho : (getWarden s w).missing ≠ 2 ∨ (getWarden s w).state = .armed ∨ s.safety.hold ≠ none) :
    exec (.tideMarkMissing w) s = .next (markMissed w s) := by
  rw [exec_tideMarkMissing_counts h, if_neg ?_]
  simp only [Bool.and_eq_true, decide_eq_true_eq, Option.isNone_iff_eq_none]
  rintro ⟨⟨h3, ha⟩, hn⟩
  rcases ho with ho | ho | ho
  · exact ho (by omega)
  · exact ha ho
  · exact ho hn

/-! ### Boots and trial boots -/

theorem exec_wardenBootDone_boot {ok : Bool} (h : (getWarden s w).state = .boot) {u : State} {y : WardenSt}
    (hu : u = if ok then s else wardenBreach w 0x08 2 255 255 0x61 0 s)
    (hy : y = { getWarden u w with
      state := .armed, injectionOk := ok, goodMarks := 0, muted := (getWarden u w).muted && !ok
      conflicts := 0, votes := [], peer := none }) :
    exec (.wardenBootDone w ok) s = .next (setWarden u w (armedNext u y)) := by
  subst hu hy
  exact congrArg Host.Outcome.next (if_neg (not_not_intro h))

theorem armedNext_unheld {u : State} {y : WardenSt} (hy : y.goodMarks = 0) (hh : u.safety.hold = none) :
    armedNext u y = y := by
  unfold armedNext
  split
  · rfl
  · rw [if_neg (by rw [hh]; exact Bool.false_ne_true), if_neg (by simp [hy])]

theorem armedNext_held {u : State} {y : WardenSt} (hy : y.state = .armed) (hh : u.safety.hold ≠ none) :
    armedNext u y = toHold u.tide.nowQ y := by
  unfold armedNext
  rw [if_neg (not_not_intro hy), if_pos (Option.isSome_iff_ne_none.mpr hh)]

theorem toBoot_startup (w : Warden) (s : State) : (toBoot w s).startup = s.startup := by
  unfold toBoot
  dsimp only
  split
  · rfl
  · exact (setWarden_outside ..).2.2.2.1

theorem trialBoot_startup (w : Warden) (s : State) : (trialBoot w s).startup = s.startup :=
  (toBoot_startup ..).trans (setWarden_outside ..).2.2.2.1

theorem exec_wardenTrialBoot_ignored {voted : Bool} (h : ∀ a, s.startup.activation = some a → a.paused = true ∨
      trialWarden a.stage ≠ some w ∨ (voted = true ∧ (canVote s w = false ∨ (getWarden s w).switched = false))) :
    exec (.wardenTrialBoot w voted) s = .next s := by
  show execWardenTrialBoot w voted s = _
  rw [execWardenTrialBoot]
  cases ha : s.startup.activation with
  | none => rfl
  | some a =>
    refine congrArg _ ?_
    dsimp only
    rcases h a ha with h | h | ⟨hv, h⟩
    · exact if_pos (by simp [h])
    · exact if_pos (by simp [h])
    · exact ite_eq_left_iff.mpr fun _ => (if_pos hv).trans (if_neg (by rcases h with h | h <;> simp [h]))

theorem exec_wardenTrialBoot_failed {a : Activation} (ha : s.startup.activation = some a) (hp : a.paused = false)
    (hw : trialWarden a.stage = some w) : exec (.wardenTrialBoot w false) s = .next (failActivation (wardenPart w)
      (toBoot w (setWarden s w { getWarden s w with switched := false }))) := by
  show execWardenTrialBoot w false s = _
  rw [execWardenTrialBoot, ha]
  exact congrArg Host.Outcome.next ((if_neg (by simp [hp, hw])).trans (if_neg Bool.false_ne_true))

theorem exec_wardenTrialBoot_voted {a : Activation} (ha : s.startup.activation = some a) (hp : a.paused = false)
    (hw : trialWarden a.stage = some w) (hv : canVote s w = true) (hs : (getWarden s w).switched = true) {u : State}
    (hu : u = { s with startup.activation := some { a with stage := a.stage + 1 } }) :
    exec (.wardenTrialBoot w true) s = .next (if a.stage = 0 then trialBoot .A u else u) := by
  subst hu
  show execWardenTrialBoot w true s = _
  rw [execWardenTrialBoot, ha]
  exact congrArg Host.Outcome.next ((if_neg (by simp [hp, hw])).trans ((if_pos rfl).trans (if_pos (by simp [hv, hs]))))

end

/-! ### The obligation -/

/-- Settles O55: each event of a warden by the branch that its conditions choose, where a breach and a write of the warden
leave SAFE_HOLD and the main package as they were. -/
theorem wardenEvents : Obligations.WardenEvents := by
  intro w s
  refine ⟨fun port => ⟨fun g hg => ?_, fun hn => ?_⟩, fun j hj hs hm => ?_, fun h => ?_, fun c relabel late h => ?_, ?_,
    marksResumed_running, marksResumed_stopped, ?_, ?_, ?_, ?_, exec_tideMarkMissing_ignored, ?_, ⟨rfl, rfl, rfl⟩,
    fun ok h => congrArg _ (if_pos h), ?_, ?_, ?_, fun voted => exec_wardenTrialBoot_ignored, ?_⟩
  case refine_1 =>
    show execSegmentSent w port s = _
    rw [execSegmentSent]
    dsimp only
    rw [hg]
  case refine_2 =>
    show execSegmentSent w port s = _
    rw [execSegmentSent]
    dsimp only
    rw [hn]
  case refine_3 =>
    show execFallbackPointRelease w s = _
    rw [execFallbackPointRelease]
    dsimp only
    rw [hj]
    exact congrArg _ (if_neg (by simp [hs, hm]))
  case refine_4 =>
    show execFallbackPointRelease w s = _
    rw [execFallbackPointRelease]
    dsimp only
    cases hj : (getWarden s w).trajectory with
    | none => rfl
    | some j =>
      rw [hj] at h
      refine congrArg _ (if_pos ?_)
      rcases h with h | h | h
      · cases h
      · simp [h]
      · simp [h]
  case refine_5 => exact congrArg _ (if_pos (by rcases h with h | h <;> simp [h]))
  case refine_6 =>
    intro c relabel late h1 h2 first u x hfirst hu hx
    subst hx
    have hf : firstMark (getWarden s w) = first := by
      rw [Bool.eq_iff_iff, hfirst]
      simp [firstMark]
    refine ⟨fun hg => exec_wardenTideMark_good ⟨h1, h2⟩ hu (hf.symm ▸ hg), fun hf' hb => ?_⟩
    exact ⟨_, _, rfl, rfl, exec_wardenTideMark_bad ⟨h1, h2⟩ hu (hf.trans hf') hb rfl⟩
  case refine_7 =>
    intro h
    unfold marksReturn
    split
    · next k hk => exact if_neg (by simp [h k hk])
    · rfl
  case refine_8 =>
    intro k hk hw
    unfold marksReturn
    rw [hk]
    exact if_pos hw
  case refine_9 =>
    intro hv hm hs hh
    have h : Steady w s := ⟨hm, hs, hh⟩
    exact ⟨exec_wardenTideMark_steady_voting h hv, fun c relabel => exec_wardenTideMark_late h hv⟩
  case refine_10 =>
    intro hv h2 hi hm hs hh hd
    exact exec_wardenTideMark_third ⟨hm, hs, hh⟩ hv h2 hi hd
  case refine_11 =>
    intro h
    refine ⟨missNoted w s, markMissed w s, fun hs => if_pos hs, fun hs => if_neg (by simp [hs]), rfl,
      exec_tideMarkMissing_other h, fun hn ha hh => ⟨fun hm => ?_, fun hm => ?_⟩⟩
    · rw [exec_tideMarkMissing_third h hn ha hh, if_pos hm]
    · rw [exec_tideMarkMissing_third h hn ha hh, if_neg (by simp [hm])]
  case refine_12 =>
    intro ok h
    refine ⟨if ok then s else wardenBreach w 0x08 2 255 255 0x61 0 s, _, fun hk => if_pos hk,
      fun hk => if_neg (by simp [hk]), rfl, ?_⟩
    have hx := exec_wardenBootDone_boot (ok := ok) h rfl rfl
    have hout : (if ok then s else wardenBreach w 0x08 2 255 255 0x61 0 s).tide = s.tide ∧
        (if ok then s else wardenBreach w 0x08 2 255 255 0x61 0 s).safety.hold = s.safety.hold := by
      obtain ⟨ht, hh, -⟩ := wardenBreach_outside w 0x08 2 255 255 0x61 0 s
      cases ok
      · exact ⟨ht, hh⟩
      · exact ⟨rfl, rfl⟩
    refine ⟨fun hh => ?_, fun hh => ?_⟩
    · rw [hx, armedNext_unheld rfl (hout.2.trans hh)]
    · rw [hx, armedNext_held rfl (hout.2.symm ▸ hh), hout.1]
  case refine_13 => exact fun h => congrArg _ (if_neg h)
  case refine_14 => exact fun h => congrArg _ (if_pos h)
  case refine_15 =>
    intro a ha hp hw
    refine ⟨fun hv hs => ⟨_, _, rfl, rfl, exec_wardenTrialBoot_voted ha hp hw hv hs rfl, ?_⟩,
      exec_wardenTrialBoot_failed ha hp hw⟩
    split
    · rw [trialBoot_startup]
    · rfl

end Sys2Proof.Proofs
end


section
/-! The codec, firmware staging and DORMANT (O56): slices and pictures, the engine's next picture, and the wake. -/

namespace Sys2Proof.Proofs

open Sys2Proof Sys2Proof.Machine Sys2Proof.Safety Sys2Proof.Laws

/-! ### Slices -/

/-- No slice that the picture has is the next one in bitstream order. -/
theorem emitSlices_waits {n count : Nat} {s : State} {q : Picture} (h : q.slices.find? (·.1 = q.emitted) = none) (f : Nat) :
    emitSlices n count f (s, q) = (s, q) := by
  cases f with
  | zero => rfl
  | succ f =>
    unfold emitSlices
    split
    · next hs => rw [h] at hs; cases hs
    · rfl

theorem exec_codecSliceDone_ignored {n index : Nat} {payload : List Byte} {rows : List Nat} {s : State}
    (h : ∀ q c, codingPicture s = some q → getSession s n = some c → q.session ≠ n ∨
      sliceOk c q index payload rows = false ∨ s.tide.discard = true ∨ s.tide.inBand = true) :
    exec (.codecSliceDone n index payload rows) s = .next s := by
  show execCodecSliceDone n index payload rows s = _
  rw [execCodecSliceDone]
  cases hq : codingPicture s with
  | none => rfl
  | some q =>
    cases hc : getSession s n with
    | none => rfl
    | some c =>
      refine congrArg _ (if_pos ?_)
      rcases h q c hq hc with h | h | h | h <;> simp [h]

/-- The picture with a slice more, and its rows' bits; the rows begun after it take their QP from them. -/
def withSlice (c : Session) (q : Picture) (index : Nat) (payload : List Byte) (rows : List Nat) : Picture :=
  { q with
    slices := q.slices ++ [(index, payload)], rows := rows
    qp := rowQp c { q with slices := q.slices ++ [(index, payload)], rows := rows } (nextRow c index).1 (nextRow c index).2 }

section
variable {q : Picture} {c : Session} {index : Nat} {payload : List Byte} {rows : List Nat} {s : State}

theorem exec_codecSliceDone_joins (hq : codingPicture s = some q) (hc : getSession s q.session = some c)
    (hk : sliceOk c q index payload rows = true) (hd : s.tide.discard = false) (hb : s.tide.inBand = false) :
    exec (.codecSliceDone q.session index payload rows) s = .next (if c.cfg.lowLatency = 1 then
      putPicture (emitSlices q.session s.tide.count (sliceCount c) (s, withSlice c q index payload rows)).2
        (emitSlices q.session s.tide.count (sliceCount c) (s, withSlice c q index payload rows)).1
    else putPicture (withSlice c q index payload rows) s) := by
  show execCodecSliceDone q.session index payload rows s = _
  rw [execCodecSliceDone, hq, hc]
  exact congrArg Host.Outcome.next (if_neg (by simp [hk, hd, hb]))

theorem exec_codecSliceDone_waits (hq : codingPicture s = some q) (hc : getSession s q.session = some c)
    (hk : sliceOk c q index payload rows = true) (hd : s.tide.discard = false) (hb : s.tide.inBand = false)
    (hw : c.cfg.lowLatency ≠ 1 ∨ (index ≠ q.emitted ∧ ∀ x ∈ q.slices, x.1 ≠ q.emitted)) :
    exec (.codecSliceDone q.session index payload rows) s = .next (putPicture (withSlice c q index payload rows) s) := by
  rw [exec_codecSliceDone_joins hq hc hk hd hb]
  rcases hw with hw | ⟨hi, hx⟩
  · rw [if_neg hw]
  · have hn : (q.slices ++ [(index, payload)]).find? (·.1 = q.emitted) = none := by
      rw [List.find?_eq_none]
      intro x hm
      rcases List.mem_append.mp hm with hm | hm
      · simpa using hx x hm
      · rw [List.mem_singleton.mp hm]; simpa using hi
    rw [emitSlices_waits (q := withSlice c q index payload rows) hn, ite_self]

/-- With LOW_LATENCY the slice that is next in bitstream order leaves. -/
theorem emitSlices_next (hc : getSession s q.session = some c) (hk : sliceOk c q index payload rows = true)
    (hi : index = q.emitted) : q.emitted <
      (emitSlices q.session s.tide.count (sliceCount c) (s, withSlice c q index payload rows)).2.emitted := by
  have hlt : index < sliceCount c := by
    simp only [sliceOk, Bool.and_eq_true, decide_eq_true_eq] at hk
    exact hk.1.1.1.1.2
  obtain ⟨f, hf⟩ : ∃ f, sliceCount c = f + 1 := ⟨sliceCount c - 1, by omega⟩
  obtain ⟨sl, hsl⟩ : ∃ sl, (withSlice c q index payload rows).slices.find? (·.1 = q.emitted) = some sl := by
    rw [← Option.isSome_iff_exists, List.find?_isSome]
    exact ⟨(index, payload), List.mem_append_right _ (List.mem_singleton_self _), by simp [hi]⟩
  rw [hf]
  exact emitSlices_first q.session s.tide.count f s (withSlice c q index payload rows) c sl hc hsl

end

/-! ### Pictures -/

theorem exec_codecPictureDone_ignored {n : Nat} {planes : List Byte} {found : DecodeFound} {refs : List Nat} {order : Int}
    {head : PictureHead} {s : State} (h : ∀ q, codingPicture s = some q → s.tide.discard = true ∨ s.tide.inBand = true ∨
      ∀ c, getSession s q.session = some c → pictureOk c q n = false) :
    exec (.codecPictureDone n planes found refs order head) s = .next s := by
  show execCodecPictureDone n planes found refs order head s = _
  rw [execCodecPictureDone]
  cases hq : codingPicture s with
  | none => rfl
  | some q =>
    refine congrArg _ (if_pos ?_)
    rcases h q hq with h | h | h
    · simp [h]
    · simp [h]
    · have hn : (getSession s q.session).any (fun c => pictureOk c q n) = false := by
        cases hc : getSession s q.session with
        | none => rfl
        | some c => exact h c hc
      simp [hn]

theorem exec_codecPictureDone_keeps {q : Picture} {c : Session} {n : Nat} {planes : List Byte} {found : DecodeFound}
    {refs : List Nat} {order : Int} {head : PictureHead} {s : State} (hq : codingPicture s = some q)
    (hd : s.tide.discard = false) (hb : s.tide.inBand = false) (hc : getSession s q.session = some c)
    (hk : pictureOk c q n = true) : exec (.codecPictureDone n planes found refs order head) s =
      .next (startNext (putPicture
        { q with done := true, codedBytes := n, decoded := some ⟨found, head, planes, refs, order⟩ } s)) := by
  show execCodecPictureDone n planes found refs order head s = _
  rw [execCodecPictureDone, hq]
  exact congrArg _ (if_neg (by simp [hd, hb, hc, hk]))

/-- The engine codes a picture just when one has started and is not done. -/
theorem coding_iff (s : State) : s.codec.queue.any (fun q => q.started && !q.done) = true ↔ codingPicture s ≠ none := by
  unfold codingPicture
  rw [← Option.isSome_iff_ne_none, List.find?_isSome, List.any_eq_true]

theorem startNext_idle {s : State} (h : s.power.stop = true ∨ mayLaunch s = false ∨ s.tide.inBand = true ∨
    codingPicture s ≠ none ∨ nextPicture s = none) : startNext s = s := by
  unfold startNext
  split
  · rfl
  · next hn =>
    simp only [Bool.or_eq_true, Bool.not_eq_true', coding_iff] at hn
    have hp : nextPicture s = none := by tauto
    rw [hp]

theorem startNext_starts {q : Picture} {c : Session} {s : State} (hs : s.power.stop = false) (hm : mayLaunch s = true)
    (hb : s.tide.inBand = false) (hc : codingPicture s = none) (hn : nextPicture s = some q)
    (hq : getSession s q.session = some c) :
    ∃ r, startNext s = putPicture r { s with codec.used := s.codec.used + pictureCost c } ∧ r.started = true ∧
      r.session = q.session ∧ r.tag = q.tag ∧ r.firstSeq = c.recordSeq ∧ r.slices = [] := by
  refine ⟨{ q with
    started := true, idr := nextIdr c, intra := nextIntra c, firstSeq := c.recordSeq, slices := []
    rows := [], emitted := 0, outOff := 0, target := (rateStart c (nextIdr c) (nextIntra c)).1
    limit := (rateStart c (nextIdr c) (nextIntra c)).2.1
    qp := (rateStart c (nextIdr c) (nextIntra c)).2.2 }, ?_, rfl, rfl, rfl, rfl, rfl⟩
  unfold startNext
  have hno : s.codec.queue.any (fun q => q.started && !q.done) = false := by
    rw [← Bool.not_eq_true, coding_iff, not_not]; exact hc
  rw [if_neg (by simp [hno, hm, hs, hb]), hn]
  dsimp only
  rw [hq]

theorem exec_codecCore_recodes {core : Nat} {s : State} (hm : mainUp s = true) :
    ∃ t, exec (.codecCore core) s = .next (startNext t) ∧ t.safety.nextIndex = s.safety.nextIndex + 1 ∧
      (∀ q ∈ t.codec.queue, q.started = false) ∧
      t.codec.queue.map (fun q => (q.session, q.tag)) = s.codec.queue.map (fun q => (q.session, q.tag)) := by
  have hall : OnlyStarted (s.codec.queue.filter (·.started)) (recordBreach 0x15 0 255 255 255 core 0 s) := fun q hq hs =>
    ⟨q, List.mem_filter.mpr ⟨hq, hs⟩, by simp [samePicture]⟩
  obtain ⟨hnone, hmap, -, hsafe⟩ := recode_all _ _ hall
  refine ⟨_, congrArg Host.Outcome.next (if_neg (by simp [hm])), ?_, hnone, hmap⟩
  exact congrArg (·.nextIndex) hsafe

/-! ### Staging and verification -/

theorem exec_fwStageDone_none {s : State} (h : s.startup.staging = []) : exec .fwStageDone s = .next s := by
  show execFwStageDone s = _
  rw [execFwStageDone, h]

theorem exec_fwStageDone_chunk {h : Hdr} {offset len : Nat} {last : Bool} {buf : Buf} {image : BankImage} {rest : List Instr}
    {s : State} (hs : s.startup.staging = .fwStage h offset len last buf image :: rest) :
    exec .fwStageDone s =
      .next (finish h .ok .none [] (writeChunk offset len last image { s with startup.staging := rest })) := by
  show execFwStageDone s = _
  rw [execFwStageDone, hs]

theorem exec_fwStageDone_other {c : Instr} {rest : List Instr} {s : State} (hs : s.startup.staging = c :: rest)
    (hc : ∀ h offset len last buf image, c ≠ .fwStage h offset len last buf image) :
    exec .fwStageDone s = .next { s with startup.staging := rest } := by
  show execFwStageDone s = _
  rw [execFwStageDone, hs]
  refine congrArg _ ?_
  dsimp only
  split
  · exact absurd rfl (hc _ _ _ _ _ _)
  · rfl

theorem exec_fwVerifyDone_none {s : State} (h : s.startup.verifying = []) : exec .fwVerifyDone s = .next s := by
  show execFwVerifyDone s = _
  rw [execFwVerifyDone, h]

theorem verifyOutcome_verifying (s : State) (rest : List Instr) :
    verifyOutcome { s with startup.verifying := rest } = verifyOutcome s := rfl

theorem exec_fwVerifyDone_fails {c : Instr} {rest : List Instr} {s : State} {st : Status} {n : Nat}
    (hs : s.startup.verifying = c :: rest) (ho : verifyOutcome s = some (st, n)) :
    exec .fwVerifyDone s = .next (finishCmd c st .none (le 2 n) { s with startup.verifying := rest }) := by
  show execFwVerifyDone s = _
  rw [execFwVerifyDone, hs]
  dsimp only
  rw [verifyOutcome_verifying, ho]

theorem exec_fwVerifyDone_passes {c : Instr} {rest : List Instr} {s : State}
    (hs : s.startup.verifying = c :: rest) (ho : verifyOutcome s = none) :
    exec .fwVerifyDone s = .next (finishCmd c .ok .none []
      { s with startup.verifying := rest, flash.verified := decide (s.startup.staging = []) }) := by
  show execFwVerifyDone s = _
  rw [execFwVerifyDone, hs]
  dsimp only
  rw [verifyOutcome_verifying, ho]

/-! ### The wake -/

theorem getSource_setSource_if (hub j k : Nat) (x : Source) (s : State) :
    getSource (setSource s hub k x) hub j = if j = k then x else getSource s hub j := by
  unfold getSource setSource
  rw [getHub_setHub, tget_tset]
  split <;> rfl

/-- An event that is merged leaves its source with a count, and no source of its hub without the one it had. -/
theorem mergeEvent_counts (hub j k : Nat) (s : State) (h : j = k ∨ (getSource s hub j).count ≠ 0) :
    (getSource (mergeEvent hub k s) hub j).count ≠ 0 := by
  unfold mergeEvent
  rw [getSource_setSource_if]
  split
  · exact Nat.pos_iff_ne_zero.mp (Nat.lt_min.mpr ⟨Nat.succ_pos _, by decide⟩)
  · next hn => exact h.resolve_left hn

theorem mergeEvents_counts (hub j : Nat) (l : List Nat) : ∀ s : State, j ∈ l ∨ (getSource s hub j).count ≠ 0 →
    (getSource (l.foldl (fun st k => mergeEvent hub k st) s) hub j).count ≠ 0 := by
  induction l with
  | nil => exact fun s h => h.resolve_left List.not_mem_nil
  | cons a l ih =>
    intro s h
    refine ih _ ?_
    rcases h with h | h
    · rcases List.mem_cons.mp h with h | h
      · exact .inr (mergeEvent_counts hub j a s (.inl h))
      · exact .inl h
    · exact .inr (mergeEvent_counts hub j a s (.inr h))

theorem mergeLatched_counts (hub j : Nat) (s : State) (h : j ∈ (getHub s hub).latched) :
    (getSource (mergeLatched hub s) hub j).count ≠ 0 := mergeEvents_counts hub j _ _ (.inl h)

theorem wakeTiles_parts (s : State) : (wakeTiles s).startup = s.startup ∧ (wakeTiles s).mem = s.mem ∧
    (wakeTiles s).host = s.host ∧ ∀ stack tile, stack < 4 → tile < 32 → s.work.stackOk.getD stack false = true →
      (getTile (wakeTiles s) stack tile).results = (passedTile s.tide.nowQ).results := by
  obtain ⟨h1, h2, h3, -, h5⟩ := passTiles_parts ((List.range 128).filter fun k => s.work.stackOk.getD (k / 32) false) s
  refine ⟨h1, h2, h3, fun stack tile hs ht hok => ?_⟩
  have hdiv : (32 * stack + tile) / 32 = stack := by omega
  have hmod : (32 * stack + tile) % 32 = tile := by omega
  have hmem := h5 (32 * stack + tile) (.inl (List.mem_filter.mpr ⟨List.mem_range.mpr (by omega), by rw [hdiv]; exact hok⟩))
  rwa [hdiv, hmod] at hmem

theorem exec_dormantWake_wakes {s : State} (he : s.startup.entering = false) (hd : s.startup.dormant = true) :
    ∃ t, exec .dormantWake s = .next t ∧
      t.startup.dormant = false ∧ t.startup.waking = false ∧ t.mem.selfRefresh = false ∧
      t.host.hub0.latched = [] ∧ t.host.hub1.latched = [] ∧
      (∀ k ∈ s.host.hub0.latched, (getSource t 0 k).count ≠ 0) ∧
      (∀ k ∈ s.host.hub1.latched, (getSource t 1 k).count ≠ 0) ∧
      (∀ stack tile, stack < 4 → tile < 32 → s.work.stackOk.getD stack false = true →
        (getTile t stack tile).results = (passedTile s.tide.nowQ).results) := by
  refine ⟨_, congrArg Host.Outcome.next ((if_neg (by simp [he])).trans (if_neg (by simp [hd]))), ?_⟩
  generalize hv : ({ s with
    startup.dormant := false
    startup.waking := false
    startup.dormantReq := false
    power.op := 0
    power.coreMv := Config.coreMv 0
    power.forced := true
    power.sinceRise := 0
    mem.selfRefresh := false } : State) = v
  have hvhost : v.host = s.host := by rw [← hv]
  have hvup : v.startup.dormant = false ∧ v.startup.waking = false ∧ v.mem.selfRefresh = false := by
    rw [← hv]; exact ⟨rfl, rfl, rfl⟩
  have hvtile : v.work.stackOk = s.work.stackOk ∧ v.tide.nowQ = s.tide.nowQ := by rw [← hv]; exact ⟨rfl, rfl⟩
  clear hv
  obtain ⟨hstart, hmem, hhost, htiles⟩ := wakeTiles_parts v
  generalize wakeTiles v = w at hstart hmem hhost htiles ⊢
  rw [hvhost] at hhost
  obtain ⟨a0, a1, astart, amem, asafe, -, acount⟩ := mergeLatched_parts 0 w
  have a1 : (getHub (mergeLatched 0 w) 1).latched = s.host.hub1.latched := by rw [a1, ← hhost]; rfl
  generalize mergeLatched 0 w = x at a0 a1 astart amem asafe acount ⊢
  obtain ⟨b0, b1, bstart, bmem, bsafe, bcount, -⟩ := mergeLatched_parts 1 x
  have b1' := fun k => mergeLatched_counts 1 k x
  generalize mergeLatched 1 x = t at b0 b1 bstart bmem bsafe bcount b1' ⊢
  obtain ⟨hv1, hv2, hv3⟩ := hvup
  refine ⟨?_, ?_, ?_, b0.trans a0, b1, fun k hk => ?_, fun k hk => ?_, fun stack tile hs ht hok => ?_⟩
  · rw [bstart, astart, hstart, hv1]
  · rw [bstart, astart, hstart, hv2]
  · rw [bmem, amem, hmem, hv3]
  · exact bcount k (acount rfl k (by rw [← hhost] at hk; exact hk))
  · exact b1' k (a1 ▸ hk)
  · rw [← hvtile.2, ← htiles stack tile hs ht (hvtile.1 ▸ hok)]
    unfold getTile
    rw [bsafe, asafe]

/-! ### The obligation -/

/-- Settles O56: each event by the branch that its conditions choose; a slice that is next leaves by the recursion of the
emission, and what a hub latched is counted by induction on the events merged. -/
theorem codecAndStartup : Obligations.CodecAndStartup := by
  intro s
  refine ⟨fun n index payload rows => exec_codecSliceDone_ignored, ?_,
    fun n planes found refs order head => exec_codecPictureDone_ignored,
    fun q c n planes found refs order head => exec_codecPictureDone_keeps, startNext_idle, fun q c => startNext_starts,
    fun core => exec_codecCore_recodes, fun core h => congrArg _ (if_pos (by simp [h])), exec_fwStageDone_none,
    fun c rest hs => ⟨fun h offset len last buf image hc => ?_, exec_fwStageDone_other hs⟩, exec_fwVerifyDone_none,
    fun c rest hs => ⟨fun st n => exec_fwVerifyDone_fails hs, exec_fwVerifyDone_passes hs⟩,
    fun he => ⟨congrArg _ (if_pos he), congrArg _ (if_pos he)⟩, fun he => ⟨congrArg _ (if_neg (by simp [he])), fun hd => ?_⟩,
    exec_dormantWake_wakes⟩
  case refine_1 =>
    intro q c index payload rows r hq hc hk hd hb hr
    subst hr
    refine ⟨exec_codecSliceDone_waits hq hc hk hd hb, fun hl => ⟨_, rfl, ?_, (emitSlices_grows ..).2, emitSlices_next hc hk⟩⟩
    exact (exec_codecSliceDone_joins hq hc hk hd hb).trans (congrArg _ (if_pos hl))
  case refine_2 => exact exec_fwStageDone_chunk (hc ▸ hs)
  case refine_3 => exact congrArg _ ((if_neg (by simp [he])).trans (if_pos (by simp [hd])))

end Sys2Proof.Proofs
end


section
/-! The Levee (O57): ports and their training, associations, and frames. -/

namespace Sys2Proof.Proofs

open Sys2Proof Sys2Proof.Machine Sys2Proof.Safety Sys2Proof.Laws

/-! ### Events that find the package unpowered, or no port -/

theorem unpowered_or_portless {port : Nat} {s : State} (h : mainUp s = false ∨ 8 ≤ port) :
    (!mainUp s || decide (8 ≤ port)) = true ∧ (mainUp s && decide (port < 8)) = false := by
  rcases h with h | h
  · simp [h]
  · simp [h, Nat.not_lt.mpr h]

theorem linkEvents_ignored {port : Nat} {s : State} (h : mainUp s = false ∨ 8 ≤ port) :
    (∀ c, exec (.cableDetect port c) s = .next s) ∧ exec (.trainingStepDone port) s = .next s ∧
    exec (.trainingTimeout port) s = .next s ∧ (∀ lane, exec (.laneFailure port lane) s = .next s) ∧
    exec (.portDown port) s = .next s ∧ exec (.codewordUncorrectable port) s = .next s ∧
    (∀ n, exec (.hopAcknowledgement port n) s = .next s) ∧ (∀ f, f.port = port → exec (.authFrame f) s = .next s) ∧
    (∀ f, f.port = port → exec (.dataFrame f) s = .next s) ∧ (∀ f, f.port = port → exec (.controlFrame f) s = .next s) := by
  obtain ⟨hn, hp⟩ := unpowered_or_portless h
  refine ⟨fun c => congrArg _ (if_pos hn), congrArg _ (if_pos ?_), congrArg _ (if_pos ?_), fun lane => congrArg _ (if_pos ?_),
    congrArg _ (if_neg ?_), congrArg _ (if_neg ?_), fun n => congrArg _ (if_neg ?_), fun f hf => congrArg _ (if_pos ?_),
    fun f hf => congrArg _ (if_pos ?_), fun f hf => congrArg _ (if_pos ?_)⟩
  case refine_1 => rw [hn]; rfl
  case refine_2 => rw [hn]; rfl
  case refine_3 => rw [hn]; rfl
  case refine_4 => rw [hp]; exact Bool.false_ne_true
  case refine_5 => rw [hp]; exact Bool.false_ne_true
  case refine_6 => rw [hp]; exact Bool.false_ne_true
  case refine_7 => rw [hf, hn]; rfl
  case refine_8 => rw [hf]; exact hn
  case refine_9 => rw [hf]; exact hn

/-! ### What keeps the associations, and what settles the key switches -/

@[simp] theorem getAssoc_setAssoc (s : State) (m : Nat) (a : Assoc) : getAssoc (setAssoc s m a) m = some a :=
  tget_tset_same ..

theorem getAssoc_mapAssocs (f : Assoc → Assoc) (s : State) (m : Nat) :
    getAssoc (mapAssocs f s) m = (getAssoc s m).map f := tget_map _ _ f

/-- An association but for the state of its key switch. -/
def unswitched (a : Assoc) : Assoc := { a with switchAt := none, switched := false }

/-- Two states have the same ports, and the same associations but for their key switches. -/
def SameLinks (s t : State) : Prop :=
  t.links.ports = s.links.ports ∧ ∀ m, (getAssoc t m).map unswitched = (getAssoc s m).map unswitched

theorem SameLinks.trans {s t u : State} (h : SameLinks s t) (g : SameLinks t u) : SameLinks s u :=
  ⟨g.1.trans h.1, fun m => (g.2 m).trans (h.2 m)⟩

theorem mapAssocs_sameLinks {f : Assoc → Assoc} (hf : ∀ a, unswitched (f a) = unswitched a) (s : State) :
    SameLinks s (mapAssocs f s) := by
  refine ⟨rfl, fun m => ?_⟩
  rw [getAssoc_mapAssocs, Option.map_map]
  exact congrArg (fun g => (getAssoc s m).map g) (funext hf)

theorem announceSwitch_sameLinks (s : State) : SameLinks s (announceSwitch s) :=
  mapAssocs_sameLinks (fun a => by split <;> rfl) s

theorem HostOnly.sameLinks {s t : State} (h : HostOnly s t) : SameLinks s t := by
  obtain ⟨_, _, _, rfl⟩ := h
  exact ⟨rfl, fun _ => rfl⟩

theorem settleRotations_sameLinks (s : State) : SameLinks s (settleRotations s) := by
  unfold settleRotations
  split
  · exact ⟨rfl, fun _ => rfl⟩
  · split
    · exact ⟨rfl, fun _ => rfl⟩
    · next c g rest _ =>
      have hrest : SameLinks s { s with links.rotations := rest } := ⟨rfl, fun _ => rfl⟩
      have hmap := hrest.trans (mapAssocs_sameLinks (f := fun a => { a with switchAt := none, switched := false })
        (fun _ => rfl) { s with links.rotations := rest })
      have hdone := hmap.trans (HostOnly.sameLinks (finc_hostOnly c .ok .none (le 2 g) _))
      dsimp only
      split
      · exact hdone
      · exact hdone.trans (announceSwitch_sameLinks _)

theorem SameLinks.getPort {s t : State} (h : SameLinks s t) (n : Nat) : getPort t n = getPort s n := by
  unfold Machine.getPort; rw [h.1]

/-- An association is there with all but its key switch. -/
theorem SameLinks.getAssoc {s t : State} (h : SameLinks s t) {m : Nat} {a : Assoc} (ha : getAssoc s m = some a) :
    ∃ b, Machine.getAssoc t m = some b ∧ unswitched b = unswitched a := by
  have hm := h.2 m
  rw [ha, Option.map_some, Option.map_eq_some_iff] at hm
  exact hm

theorem checkFollow_links (s : State) : (checkFollow s).links = s.links := by
  obtain ⟨x, hx⟩ := checkFollow_timeOnly s; rw [hx]

theorem sendAuth_assocs (n : Nat) (s : State) : (sendAuth n s).links.assocs = s.links.assocs := rfl

theorem reauthenticate_ends {m cause : Nat} {s : State} {a : Assoc} (h : getAssoc s m = some a) :
    getAssoc (reauthenticate m cause s) m = some { a with live := false, cause := cause } := by
  unfold reauthenticate
  rw [h]
  dsimp only
  have hf := fold_other (f := fun st n => sendAuth n (setPort st n { getPort st n with cause := cause }))
    (g := fun u => u.links.assocs) (fun _ _ => rfl) a.ports
    (checkFollow (setAssoc s m { a with live := false, cause := cause }))
  unfold getAssoc
  rw [hf, checkFollow_links]
  exact tget_tset_same ..

/-! ### Ports and their training -/

section
variable {port : Nat} {s : State}

/-- The events of a port are acted on. -/
theorem powered_port (hp : port < 8) (hm : mainUp s = true) : (!mainUp s || decide (8 ≤ port)) = false := by
  simp [hm, hp]

theorem exec_cableDetect_unreadable {c : Cable} (hp : port < 8) (hm : mainUp s = true)
    (hc : c.cmisOk = false ∨ c.app106 = false) :
    ∃ t, exec (.cableDetect port c) s = .next t ∧ (getPort t port).state = 0 ∧ (getPort t port).cause = 4 ∧
      (getPort t port).cable = false ∧ assocsOver t port = [] := by
  obtain ⟨hframe, hstate, -, hcause⟩ := takePortDown_parts port 4 s
  refine ⟨_, congrArg Host.Outcome.next ((if_neg (by rw [powered_port hp hm]; exact Bool.false_ne_true)).trans
    (if_pos (by rcases hc with hc | hc <;> simp [hc]))), ?_⟩
  rw [getPort_setPort]
  refine ⟨hstate, hcause, rfl, losePort_none port s _ ?_⟩
  exact congrArg (·.2.2.1) hframe

theorem exec_cableDetect_readable {c : Cable} (hp : port < 8) (hm : mainUp s = true) (h1 : c.cmisOk = true)
    (h2 : c.app106 = true) {u : State} (hu : u = trainPort port (setPort s port { getPort s port with cable := true })) :
    exec (.cableDetect port c) s =
      .next (if (getPort u port).state = 1 then setPort u port { getPort u port with step := 2 } else u) := by
  subst hu
  exact congrArg Host.Outcome.next ((if_neg (by rw [powered_port hp hm]; exact Bool.false_ne_true)).trans
    (if_neg (by simp [h1, h2])))

theorem trainPort_disabled {u : State} (h : (getPort u port).enabled = false ∨ u.ident.lifecycle = .decommissioned) :
    trainPort port u = setPort u port { getPort u port with cause := 1 } :=
  if_pos (by rcases h with h | h <;> simp [h])

/-- The port may train, but for its index, its lanes and its cable. -/
def trainable (port : Nat) (u : State) : Prop := (getPort u port).enabled = true ∧ u.ident.lifecycle ≠ .decommissioned

theorem trainable.notDisabled {u : State} (h : trainable port u) :
    ¬ (!(getPort u port).enabled || decide (u.ident.lifecycle = .decommissioned)) = true := by
  obtain ⟨h1, h2⟩ := h
  simp [h1, h2]

theorem trainPort_unindexed {u : State} (h : trainable port u) (hi : u.flash.index = none) :
    trainPort port u = setPort u port { getPort u port with cause := 11 } :=
  (if_neg h.notDisabled).trans (if_pos (by simp [hi]))

section
variable {u : State} (h : trainable port u) (hi : u.flash.index ≠ none)
include h hi

theorem trainPort_laneless (hw : widest (getPort u port).failed = 0) :
    trainPort port u = setPort u port { getPort u port with cause := 8 } :=
  (if_neg h.notDisabled).trans ((if_neg (by simp [hi])).trans (if_pos hw))

theorem trainPort_cableless (hw : widest (getPort u port).failed ≠ 0) (hc : (getPort u port).cable = false) :
    trainPort port u = setPort u port { getPort u port with cause := 2 } :=
  (if_neg h.notDisabled).trans ((if_neg (by simp [hi])).trans ((if_neg hw).trans (if_pos (by simp [hc]))))

theorem trainPort_trains (hw : widest (getPort u port).failed ≠ 0) (hc : (getPort u port).cable = true) :
    trainPort port u = setPort u port { getPort u port with state := 1, step := 1, lanes := 0 } :=
  (if_neg h.notDisabled).trans ((if_neg (by simp [hi])).trans ((if_neg hw).trans (if_neg (by simp [hc]))))

end

/-- A port without a lane to train on keeps its state, whatever else stands against its training. -/
theorem trainPort_laneless_state {u : State} (hw : widest (getPort u port).failed = 0) :
    (getPort (trainPort port u) port).state = (getPort u port).state := by
  by_cases hd : (getPort u port).enabled = false ∨ u.ident.lifecycle = .decommissioned
  · rw [trainPort_disabled hd, getPort_setPort]
  · have ht : trainable port u := by simpa [trainable] using hd
    by_cases hi : u.flash.index = none
    · rw [trainPort_unindexed ht hi, getPort_setPort]
    · rw [trainPort_laneless ht hi hw, getPort_setPort]

theorem exec_trainingStepDone_next (hp : port < 8) (hm : mainUp s = true) (h1 : (getPort s port).state = 1)
    (hs : (getPort s port).step < 4) : exec (.trainingStepDone port) s =
      .next (setPort s port { getPort s port with step := (getPort s port).step + 1, waitS := 0 }) :=
  congrArg Host.Outcome.next ((if_neg (by rw [powered_port hp hm]; simp [h1])).trans (if_pos hs))

theorem exec_trainingStepDone_last (hp : port < 8) (hm : mainUp s = true) (h1 : (getPort s port).state = 1)
    (hs : 4 ≤ (getPort s port).step) : exec (.trainingStepDone port) s =
      .next (sendAuth port (setPort s port { getPort s port with
          step := 5, state := 2, lanes := widest (getPort s port).failed, attempts := 0, waitS := 0 })) :=
  congrArg Host.Outcome.next ((if_neg (by rw [powered_port hp hm]; simp [h1])).trans (if_neg (Nat.not_lt.mpr hs)))

theorem exec_trainingTimeout_retries (hp : port < 8) (hm : mainUp s = true) (h0 : (getPort s port).state ≠ 0)
    (ha : assocsOver s port = []) : exec (.trainingTimeout port) s =
      .next (setPort s port { getPort s port with
        state := 1, step := 1, lanes := 0, cause := 3, attempts := (getPort s port).attempts + 1
        waitS := if 2 ≤ (getPort s port).attempts then 10 else 1 }) := by
  have hw : (if 3 ≤ (getPort s port).attempts + 1 then 10 else 1) = if 2 ≤ (getPort s port).attempts then 10 else 1 := by
    simp only [Nat.add_le_add_iff_right (n := 1) (m := 2) (k := (getPort s port).attempts)]
  rw [← hw]
  exact congrArg Host.Outcome.next (if_neg (by rw [powered_port hp hm]; simp [h0, ha]))

theorem exec_laneFailure_down {lane : Nat} {v : State} (hp : port < 8) (hm : mainUp s = true) (hl : lane < 4)
    (hv : v = setPort s port { getPort s port with
      failed := if lane ∈ (getPort s port).failed then (getPort s port).failed else lane :: (getPort s port).failed }) :
    ((getPort s port).state = 0 → exec (.laneFailure port lane) s = .next v) ∧
    ((getPort s port).state ≠ 0 → exec (.laneFailure port lane) s = .next (trainPort port (takePortDown port 8 v))) := by
  subst hv
  have hn : ¬ (!mainUp s || decide (8 ≤ port) || decide (4 ≤ lane)) = true := by rw [powered_port hp hm]; simp [hl]
  exact ⟨fun h => congrArg Host.Outcome.next ((if_neg hn).trans (if_pos h)),
    fun h => congrArg Host.Outcome.next ((if_neg hn).trans (if_neg h))⟩

theorem exec_laneFailure_zero (hp : port < 8) (hm : mainUp s = true) (h0 : (getPort s port).state ≠ 0) :
    ∃ u, exec (.laneFailure port 0) s = .next u ∧ (getPort u port).state = 0 ∧
      (s.ident.lifecycle ≠ .decommissioned → s.flash.index.isSome = true → (getPort s port).enabled = true →
        (getPort u port).cause = 8) := by
  refine ⟨_, (exec_laneFailure_down hp hm (by decide) rfl).2 h0, ?_⟩
  generalize hx : (if 0 ∈ (getPort s port).failed then (getPort s port).failed else 0 :: (getPort s port).failed) = lanes
  have hmem : 0 ∈ lanes := by
    rw [← hx]
    split
    · assumption
    · exact List.mem_cons_self
  obtain ⟨hframe, hstate, -, -⟩ := takePortDown_parts port 8 (setPort s port { getPort s port with failed := lanes })
  simp only [linkFrame, getPort_setPort, Prod.mk.injEq] at hframe
  obtain ⟨hflash, hident, -, henabled, hfailed, -⟩ := hframe
  generalize takePortDown port 8 (setPort s port { getPort s port with failed := lanes }) = w at *
  have hw : widest (getPort w port).failed = 0 := by rw [hfailed]; exact if_pos hmem
  refine ⟨(trainPort_laneless_state hw).trans hstate, fun hd hi he => ?_⟩
  have ht : trainable port w := ⟨henabled.trans he, by rw [hident]; exact hd⟩
  rw [trainPort_laneless ht (by rw [hflash]; exact Option.isSome_iff_ne_none.mp hi) hw, getPort_setPort]

/-! ### Authentication -/

/-- AUTH frames are taken on a port. -/
def takesAuth (port : Nat) (s : State) : Prop :=
  port < 8 ∧ mainUp s = true ∧ ((getPort s port).state = 2 ∨ (getPort s port).state = 3) ∧
    s.ident.debugOpen = false ∧ s.startup.unlocking = none

theorem exec_authFrame_ignored {f : AuthFrame} (h : ((getPort s f.port).state ≠ 2 ∧ (getPort s f.port).state ≠ 3) ∨
    s.ident.debugOpen = true ∨ s.startup.unlocking ≠ none) : exec (.authFrame f) s = .next s := by
  refine congrArg Host.Outcome.next (if_pos ?_)
  rcases h with ⟨h2, h3⟩ | h | h
  · simp [h2, h3]
  · simp [h]
  · simp [Option.isSome_iff_ne_none.mpr h]

theorem exec_authFrame {f : AuthFrame} (h : takesAuth f.port s) : exec (.authFrame f) s = .next
    ((authFault f s).elim
      (if f.periodQ ≠ (formAssoc f s).tide.periodQ && !busyAdmitted (formAssoc f s) && (formAssoc f s).tide.change.isNone &&
          (f.busy || ownLower (formAssoc f s) f.peer)
        then acceptTide f.periodQ (formAssoc f s).tide.swellLen none true (formAssoc f s) else formAssoc f s)
      fun k => refuseAssoc f k s) := by
  obtain ⟨hp, hm, hs, hd, hu⟩ := h
  show execAuthFrame f s = _
  rw [execAuthFrame, if_neg (by rw [powered_port hp hm]; simp [hd, hu]; tauto)]
  cases authFault f s <;> rfl

theorem authFault_fleet {f : AuthFrame} (h : f.fleet ≠ s.ident.fleet ∨ f.macOk = false) : authFault f s = some 5 :=
  if_pos (by rcases h with h | h <;> simp [h])

section
variable {f : AuthFrame} (h1 : f.fleet = s.ident.fleet) (h2 : f.macOk = true)
include h1 h2

theorem authFault_index (h : s.flash.index = some f.peer ∨
      ∃ a, getAssoc s f.peer = some a ∧ a.live = true ∧ a.nonce ≠ f.nonce) :
    authFault f s = some 6 := by
  refine (if_neg (by simp [h1, h2])).trans (if_pos ?_)
  rcases h with h | ⟨a, ha, hl, hn⟩
  · simp [h]
  · simp [ha, hl, hn]

theorem authFault_period (hi : s.flash.index ≠ some f.peer)
    (ha : ∀ a, getAssoc s f.peer = some a → a.live = true → a.nonce = f.nonce) :
    authFault f s = if !samePeer f s && periodClash f s then some 7 else none := by
  refine (if_neg (by simp [h1, h2])).trans (if_neg ?_)
  simp only [Bool.or_eq_true, decide_eq_true_eq, not_or]
  refine ⟨hi, ?_⟩
  cases hx : getAssoc s f.peer with
  | none => simp
  | some a =>
    have hn := ha a hx
    simp only [Option.any_some, Bool.and_eq_true, decide_eq_true_eq]
    exact fun hc => hc.2 (hn hc.1)

end

/-- The settling of key switches leaves an association live over its ports, with its nonce and its counters. -/
theorem settled_live {f : AuthFrame} {P : Prop} {u : State} {x : Port} {b : Assoc} (hb : getAssoc u f.peer = some b)
    (hl : b.live = true) (hports : f.port ∈ b.ports) (hx : x.state = 2)
    (hfresh : P → b.nonce = f.nonce ∧ b.rxSeen = [] ∧ b.txCounter = 1) :
    ∃ a, getAssoc (settleRotations (setPort u f.port x)) f.peer = some a ∧ a.live = true ∧ f.port ∈ a.ports ∧
      (getPort (settleRotations (setPort u f.port x)) f.port).state = 2 ∧
      (P → a.nonce = f.nonce ∧ a.rxSeen = [] ∧ a.txCounter = 1) := by
  have hsame := settleRotations_sameLinks (setPort u f.port x)
  obtain ⟨a, ha, hab⟩ := hsame.getAssoc (m := f.peer) (a := b) hb
  have hlive : a.live = b.live := congrArg (·.live) hab
  have hp : a.ports = b.ports := congrArg (·.ports) hab
  have hnonce : a.nonce = b.nonce := congrArg (·.nonce) hab
  have hseen : a.rxSeen = b.rxSeen := congrArg (·.rxSeen) hab
  have htx : a.txCounter = b.txCounter := congrArg (·.txCounter) hab
  refine ⟨a, ha, hlive.trans hl, hp ▸ hports, ?_, fun h => ?_⟩
  · rw [hsame.getPort, getPort_setPort, hx]
  · rw [hnonce, hseen, htx]; exact hfresh h

/-- An association that authenticates is live over the frame's port; one that was not live before has fresh counters. -/
theorem formAssoc_live (f : AuthFrame) (s : State) : ∃ a, getAssoc (formAssoc f s) f.peer = some a ∧ a.live = true ∧
    f.port ∈ a.ports ∧ (getPort (formAssoc f s) f.port).state = 2 ∧
    ((∀ b, getAssoc s f.peer = some b → b.live = false) → a.nonce = f.nonce ∧ a.rxSeen = [] ∧ a.txCounter = 1) := by
  unfold formAssoc
  dsimp only
  cases getAssoc s f.peer with
  | none =>
    refine settled_live (getAssoc_setAssoc ..) ?_ ?_ ?_ ?_
    · rfl
    · exact List.mem_singleton_self _
    · rfl
    · exact fun _ => ⟨rfl, rfl, rfl⟩
  | some c =>
    have hmem : f.port ∈ (if f.port ∈ c.ports then c.ports else c.ports ++ [f.port]) := by
      split
      · assumption
      · exact List.mem_append_right _ (List.mem_singleton_self _)
    dsimp only
    by_cases hl : c.live = true
    · rw [if_pos hl]
      refine settled_live (getAssoc_setAssoc ..) ?_ ?_ ?_ ?_
      · exact hl
      · exact hmem
      · rfl
      · exact fun h => absurd hl (by simp [h c rfl])
    · rw [if_neg hl]
      refine settled_live (getAssoc_setAssoc ..) ?_ ?_ ?_ ?_
      · rfl
      · exact hmem
      · rfl
      · exact fun _ => ⟨rfl, rfl, rfl⟩

theorem refuseAssoc_cause (f : AuthFrame) (cause : Nat) (s : State) :
    (getPort (refuseAssoc f cause s) f.port).cause = cause := by
  unfold refuseAssoc
  rw [getPort_setPort]

theorem exec_authRetry_live {peer : Nat} (h : ∀ a, getAssoc s peer = some a → a.live = true) :
    exec (.authRetry peer) s = .next s := by
  show execAuthRetry peer s = _
  rw [execAuthRetry]
  refine congrArg _ (ite_eq_left_iff.mpr fun _ => ?_)
  cases ha : getAssoc s peer with
  | none => rfl
  | some a => exact if_pos (h a ha)

theorem exec_authRetry_refused {peer : Nat} {a : Assoc} (hm : mainUp s = true) (ha : getAssoc s peer = some a)
    (hl : a.live = false) : exec (.authRetry peer) s = .next (a.ports.foldl (fun st n => sendAuth n st) s) := by
  show execAuthRetry peer s = _
  rw [execAuthRetry, if_neg (by simp [hm]), ha]
  exact congrArg _ (if_neg (by simp [hl]))

theorem exec_keySwitchTimeout_ignored {peer : Nat} (h : ∀ a, getAssoc s peer = some a →
    a.live = false ∨ a.switchAt = none ∨ a.switched = true) : exec (.keySwitchTimeout peer) s = .next s := by
  show execKeySwitchTimeout peer s = _
  rw [execKeySwitchTimeout]
  refine congrArg _ (ite_eq_left_iff.mpr fun _ => ?_)
  cases ha : getAssoc s peer with
  | none => rfl
  | some a => exact if_neg (by rcases h a ha with h | h | h <;> simp [h])

theorem exec_keySwitchTimeout_ends {peer : Nat} {a : Assoc} (hm : mainUp s = true) (ha : getAssoc s peer = some a)
    (hl : a.live = true) (hk : a.switchAt.isSome = true) (hs : a.switched = false) :
    ∃ t b, exec (.keySwitchTimeout peer) s = .next t ∧ getAssoc t peer = some b ∧ b.live = false ∧ b.cause = 9 := by
  refine ⟨reauthenticate peer 9 s, _, ?_, reauthenticate_ends ha, rfl, rfl⟩
  show execKeySwitchTimeout peer s = _
  rw [execKeySwitchTimeout, if_neg (by simp [hm]), ha]
  exact congrArg _ (if_pos (by simp [hl, hk, hs]))

/-! ### Frames -/

section
variable {src counter : Nat} {gen tagOk : Bool} {a : Assoc}

theorem acceptFrame_unauthenticated (h : ∀ a, getAssoc s src = some a → a.live = false) :
    acceptFrame port src counter gen tagOk s = (s, false) := by
  unfold acceptFrame
  cases ha : getAssoc s src with
  | none => rfl
  | some a => exact if_pos (by simp [h a ha])

theorem acceptFrame_repeated (ha : getAssoc s src = some a) (hl : a.live = true) (hf : freshCounter a counter = false) :
    acceptFrame port src counter gen tagOk s = (dropFrame port true s, false) := by
  unfold acceptFrame
  rw [ha]
  exact (if_neg (by simp [hl])).trans (if_pos (by simp [hf]))

theorem acceptFrame_failed (ha : getAssoc s src = some a) (hl : a.live = true) (hf : freshCounter a counter = true)
    (hb : tagOk = false ∨ keptGen s a gen = false) :
    acceptFrame port src counter gen tagOk s = (dropFrame port false s, false) := by
  unfold acceptFrame
  rw [ha]
  exact (if_neg (by simp [hl])).trans ((if_neg (by simp [hf])).trans (if_pos (by rcases hb with hb | hb <;> simp [hb])))

theorem acceptFrame_accepted (ha : getAssoc s src = some a) (hl : a.live = true) (hf : freshCounter a counter = true)
    (ht : tagOk = true) (hg : keptGen s a gen = true) : acceptFrame port src counter gen tagOk s =
      (settleRotations (setAssoc s src (noteFrame s a counter gen)), true) := by
  unfold acceptFrame
  rw [ha]
  exact (if_neg (by simp [hl])).trans ((if_neg (by simp [hf])).trans (if_neg (by simp [ht, hg])))

end

theorem exec_dataFrame_discarded {f : DataFrame} {t : State} (hp : f.port < 8) (hm : mainUp s = true)
    (h : acceptFrame f.port f.src f.counter f.keyGen f.tagOk s = (t, false)) : exec (.dataFrame f) s = .next t := by
  show execDataFrame f s = _
  rw [execDataFrame, if_neg (by rw [powered_port hp hm]; exact Bool.false_ne_true), h]
  rfl

theorem exec_controlFrame_discarded {f : ControlFrame} {t : State} (hp : f.port < 8) (hm : mainUp s = true)
    (h : acceptFrame f.port f.src f.counter f.keyGen f.tagOk s = (t, false)) : exec (.controlFrame f) s = .next t := by
  show execControlFrame f s = _
  rw [execControlFrame, if_neg (by rw [powered_port hp hm]; exact Bool.false_ne_true), h]
  rfl

theorem exec_dataFrame_input {f : DataFrame} {u : State} {c : Consumer} {intake : Nat} {d : Datum} (hp : f.port < 8)
    (hm : mainUp s = true) (h : acceptFrame f.port f.src f.counter f.keyGen f.tagOk s = (u, true))
    (hf : f.payload = .input c intake d) : exec (.dataFrame f) s = .next (
      if epochOf intake = 0 then { u with tide.ordInvalid := sat32 (u.tide.ordInvalid + 1) }
      else if (getPolder u c.polder).isNone then u
      else if ixOfLabel u intake + 2 ≤ u.tide.ix then lateInput c (ixOfLabel u intake + 2) u
      else awaitInput ⟨datumTag intake d d.seq, intake, ixOfLabel u intake + 2, { c with linked := true }, d⟩ u) := by
  show execDataFrame f s = _
  rw [execDataFrame, if_neg (by rw [powered_port hp hm]; exact Bool.false_ne_true), h, hf]
  rfl

theorem exec_dataFrame_tensor {f : DataFrame} {u : State} {p run bs : Nat} (hp : f.port < 8)
    (hm : mainUp s = true) (h : acceptFrame f.port f.src f.counter f.keyGen f.tagOk s = (u, true))
    (hf : f.payload = .tensor p run bs) : exec (.dataFrame f) s = .next
      (if (p, run, f.src) ∈ u.links.jobs then u else { u with links.jobs := u.links.jobs ++ [(p, run, f.src)] }) := by
  show execDataFrame f s = _
  rw [execDataFrame, if_neg (by rw [powered_port hp hm]; exact Bool.false_ne_true), h, hf]
  rfl

theorem noteFrame_rxHigh (s : State) (a : Assoc) (counter : Nat) (gen : Bool) :
    (noteFrame s a counter gen).rxHigh = max a.rxHigh counter := by
  unfold noteFrame
  dsimp only
  split <;> rfl

/-- What an accepted control frame leaves in the association of its sender, and the keeper that it gives. -/
theorem controlFrame_remembered {g : ControlFrame} {a : Assoc} {z : State}
    (hz : z = noteControl g (settleRotations (setAssoc s g.src (noteFrame s a g.counter g.keyGen)))) :
    ∃ b, getAssoc (followTime g z) g.src = some b ∧ b.lastTide = some g.tide ∧ b.keeper = g.keeper ∧ b.hops = g.hops ∧
      b.rxHigh = max a.rxHigh g.counter ∧ (followTime g z).time.keeper = some (keeperIndex z) := by
  obtain ⟨c, hc, hca⟩ := (settleRotations_sameLinks (setAssoc s g.src (noteFrame s a g.counter g.keyGen))).getAssoc
    (getAssoc_setAssoc ..)
  have hhigh : c.rxHigh = max a.rxHigh g.counter := (congrArg (·.rxHigh) hca).trans (noteFrame_rxHigh ..)
  generalize settleRotations (setAssoc s g.src (noteFrame s a g.counter g.keyGen)) = y at hz hc
  unfold noteControl at hz
  rw [hc] at hz
  obtain ⟨b, hb, hnoted⟩ : ∃ b, getAssoc z g.src = some b ∧ b.lastTide = some g.tide ∧ b.keeper = g.keeper ∧
      b.hops = g.hops ∧ b.rxHigh = max a.rxHigh g.counter := by
    rw [hz]
    refine ⟨_, getAssoc_setAssoc .., ?_⟩
    exact ⟨rfl, rfl, rfl, hhigh⟩
  obtain ⟨h1, h2, h3, h4⟩ := hnoted
  obtain ⟨t, k, hfollow, hkeeper⟩ := followTime_timeOnly g z
  rw [hfollow]
  exact ⟨b, hb, h1, h2, h3, h4, hkeeper⟩

end

/-! ### The obligation -/

/-- Settles O57: each event by the branch that its conditions choose; the associations survive the settling of key switches
but for their own switch, and a port that goes down keeps what the choice of its training reads. -/
theorem leveeEvents : Obligations.LeveeEvents := by
  intro port s
  refine ⟨linkEvents_ignored, fun hm peer => ⟨congrArg _ (if_pos (by simp [hm])), congrArg _ (if_pos (by simp [hm]))⟩,
    fun hp hm => ⟨fun c => ⟨exec_cableDetect_unreadable hp hm, fun h1 h2 => ⟨_, rfl, exec_cableDetect_readable hp hm h1 h2 rfl⟩⟩,
    fun u => ⟨trainPort_disabled, fun he hd => ⟨trainPort_unindexed ⟨he, hd⟩, fun hi => ⟨trainPort_laneless ⟨he, hd⟩ hi,
      fun hw => ⟨trainPort_cableless ⟨he, hd⟩ hi hw, trainPort_trains ⟨he, hd⟩ hi hw⟩⟩⟩⟩,
    fun h1 => ⟨exec_trainingStepDone_next hp hm h1, exec_trainingStepDone_last hp hm h1⟩,
    fun h1 => congrArg _ (if_pos (by simp [h1])), ⟨_, rfl, ?_⟩, exec_trainingTimeout_retries hp hm,
    fun h => congrArg _ (if_pos ?_), fun cause => ?_, fun h => congrArg _ (if_pos (by simp [hm, hp, h])),
    fun h => congrArg _ (if_neg (by simp [h])), fun lane hl => congrArg _ (if_pos (by simp [hl])),
    fun lane v hl hv => exec_laneFailure_down hp hm hl hv, exec_laneFailure_zero hp hm,
    fun h => congrArg _ (if_pos (by simp [hm, hp, h])), fun h => congrArg _ (if_neg (by simp [h])),
    fun count => congrArg _ (if_pos (by simp [hm, hp])), ?_, ?_, ?_, fun peer => exec_authRetry_live,
    fun peer a => exec_authRetry_refused hm, fun p tagOk => ?_, ?_, fun peer => exec_keySwitchTimeout_ignored,
    fun peer a => exec_keySwitchTimeout_ends hm⟩⟩
  case refine_1 => exact congrArg (·.nonce) (getPort_setPort ..)
  case refine_2 => rcases h with h | h <;> simp [h]
  case refine_3 =>
    obtain ⟨hframe, hstate, hlanes, hcause⟩ := takePortDown_parts port cause s
    exact ⟨hstate, hcause, hlanes, losePort_none port s _ (congrArg (·.2.2.1) hframe)⟩
  case refine_4 =>
    rintro f rfl h
    exact exec_authFrame_ignored h
  case refine_5 =>
    rintro f rfl hs hd hu
    have ht : takesAuth f.port s := ⟨hp, hm, hs, hd, hu⟩
    refine ⟨fun h => ?_, fun h1 h2 => ⟨fun h => ?_, fun hi ha => ⟨fun h3 h4 => ?_, fun h3 => ?_⟩⟩⟩
    · rw [exec_authFrame ht, authFault_fleet h]; rfl
    · rw [exec_authFrame ht, authFault_index h1 h2 h]; rfl
    · rw [exec_authFrame ht, authFault_period h1 h2 hi ha, if_pos (by simp [h3, h4])]; rfl
    · obtain ⟨a, ha', hlive, hports, hstate, hfresh⟩ := formAssoc_live f s
      refine ⟨_, a, rfl, ha', hlive, hports, hstate, hfresh, ?_⟩
      rw [exec_authFrame ht, authFault_period h1 h2 hi ha, if_neg (by rcases h3 with h3 | h3 <;> simp [h3])]
      rfl
  case refine_6 =>
    rintro f cause rfl
    exact refuseAssoc_cause f cause s
  case refine_7 =>
    unfold dropFrame
    rw [getPort_setPort]
    exact ⟨rfl, rfl⟩
  case refine_8 =>
    rintro f rfl g hg
    have hpg : g.port < 8 := hg.symm ▸ hp
    refine ⟨fun h => exec_dataFrame_discarded hp hm (acceptFrame_unauthenticated h),
      fun h => exec_controlFrame_discarded hpg hm (acceptFrame_unauthenticated h), fun a ha hl => ⟨fun h => ?_, fun h hb => ?_, ?_⟩,
      fun a ha hl => ⟨fun h => ?_, fun h hb => ?_, ?_⟩⟩
    · exact exec_dataFrame_discarded hp hm (acceptFrame_repeated ha hl h)
    · exact exec_dataFrame_discarded hp hm (acceptFrame_failed ha hl h hb)
    · intro h ht hk u hu
      have hacc := acceptFrame_accepted (port := f.port) ha hl h ht hk
      rw [← hu] at hacc
      refine ⟨fun c intake d hf => ?_, fun p run bs => exec_dataFrame_tensor hp hm hacc⟩
      rw [exec_dataFrame_input hp hm hacc hf]
      refine ⟨fun h0 => congrArg _ (if_pos h0), fun h0 hn => ?_, fun h0 hn due hdue => ?_⟩
      · exact congrArg _ ((if_neg h0).trans (if_pos (by simp [hn])))
      · rw [if_neg h0, if_neg (by simp [hn]), ← hdue]
        exact ⟨fun hd => congrArg _ (if_pos hd), fun hd => congrArg _ (if_neg (Nat.not_le.mpr hd))⟩
    · exact exec_controlFrame_discarded hpg hm (hg ▸ acceptFrame_repeated ha hl h)
    · exact exec_controlFrame_discarded hpg hm (hg ▸ acceptFrame_failed ha hl h hb)
    · intro h ht hk
      obtain ⟨b, hb, h1, h2, h3, h4, h5⟩ := controlFrame_remembered (s := s) (g := g) (a := a) rfl
      refine ⟨_, _, _, _, _, b, rfl, rfl, hb, h1, h2, h3, h4, h5, rfl, rfl, rfl, ?_⟩
      show execControlFrame g s = _
      rw [execControlFrame, if_neg (by rw [powered_port hpg hm]; exact Bool.false_ne_true), acceptFrame_accepted ha hl h ht hk]
      rfl

end Sys2Proof.Proofs
end


section
/-! The security engine (O58): signing, SPDM sessions, IDE streams and TDIs. -/

namespace Sys2Proof.Proofs

open Sys2Proof Sys2Proof.Machine Sys2Proof.Safety Sys2Proof.Laws

/-! ### Signing -/

section
variable {fn : Fn} {s : State}

theorem exec_attestSigned_idle (h : mainUp s = false ∨ ((getFunc s fn).signing = none ∧ (getFunc s fn).spdmSigning = false)) :
    exec (.attestSigned fn) s = .next s := by
  show execAttestSigned fn s = _
  rw [execAttestSigned]
  dsimp only
  rcases h with h | ⟨h1, h2⟩
  · exact congrArg _ (if_pos (by simp [h]))
  · refine congrArg _ (ite_eq_left_iff.mpr fun _ => ?_)
    rw [h1]
    exact if_neg (by simp [h2])

theorem exec_attestSigned_report {o : OpenCmd} {h : Hdr} {nonce : BitVec 256} {buf : Buf} (hm : mainUp s = true)
    (ho : (getFunc s fn).signing = some o) (hc : o.cmd = .attest h nonce buf) :
    exec (.attestSigned fn) s = .next (
      if buf.fault then finish h .badParam .bufferFault [] (setFunc s fn { getFunc s fn with signing := none, captured := [] })
      else finish h .ok .none (le 4 (getFunc s fn).captured.length) (hostWrite fn buf.addr (getFunc s fn).captured
        (setFunc s fn { getFunc s fn with signing := none, captured := [] }))) := by
  show execAttestSigned fn s = _
  rw [execAttestSigned]
  dsimp only
  rw [if_neg (by simp [hm]), ho]
  dsimp only
  rw [hc]

theorem exec_attestSigned_other {o : OpenCmd} (hm : mainUp s = true) (ho : (getFunc s fn).signing = some o)
    (hc : ∀ h nonce buf, o.cmd ≠ .attest h nonce buf) : exec (.attestSigned fn) s = .next s := by
  show execAttestSigned fn s = _
  rw [execAttestSigned]
  dsimp only
  rw [if_neg (by simp [hm]), ho]
  refine congrArg _ ?_
  dsimp only
  split
  · next hx => exact absurd hx (hc _ _ _)
  · rfl

theorem exec_attestSigned_spdm (hm : mainUp s = true) (hn : (getFunc s fn).signing = none)
    (hs : (getFunc s fn).spdmSigning = true) : exec (.attestSigned fn) s =
      .next (emit (.spdm fn false (getFunc s fn).captured)
        (setFunc s fn { getFunc s fn with spdmSigning := false, captured := [] })) := by
  show execAttestSigned fn s = _
  rw [execAttestSigned]
  dsimp only
  rw [if_neg (by simp [hm]), hn]
  exact congrArg _ (if_pos hs)

theorem spdmSign_unreached (m : List Byte) (h : reachable s fn = false) : spdmSign fn m s = s :=
  if_pos (by simp [h])

theorem spdmSign_busy (m : List Byte) (h : reachable s fn = true) (hb : signingBusy s fn = true) :
    spdmSign fn m s = emit (.spdm fn true []) s :=
  (if_neg (by simp [h])).trans (if_pos hb)

theorem spdmSign_free (m : List Byte) (h : reachable s fn = true) (hb : signingBusy s fn = false) :
    spdmSign fn m s = setFunc s fn { getFunc s fn with spdmSigning := true, captured := m } :=
  (if_neg (by simp [h])).trans (if_neg (by simp [hb]))

/-! ### Sessions and streams -/

theorem getFunc_of_funcs {s t : State} (h : t.host.funcs = s.host.funcs) (g : Fn) : getFunc t g = getFunc s g := by
  unfold getFunc; rw [h]

/-- The end of a session writes its own function, and of the others only sluices. -/
theorem endSession_others {g : Fn} (h : g ≠ fn) : getFunc (endSession fn s) g = getFunc s g := by
  unfold endSession
  dsimp only
  split
  · rfl
  · refine (getFunc_of_funcs (fold_other (g := fun u => u.host.funcs) (fun u n => ?_) _ _) g).trans (getFunc_setFunc_other h)
    split <;> rfl

theorem endSession_none (h : (getFunc s fn).session = false) : endSession fn s = s := if_pos (by simp [h])

/-- A stream that a session may program on a function. -/
def streamFits (fn : Fn) (stream : Nat) (s : State) : Prop :=
  (getFunc s fn).session = true ∧ stream ∉ (getFunc s fn).ideStreams ∧ streamCount s none < 8 ∧
    (s.host.bifurcated = true → streamCount s (some (linkOf fn)) < 4)

theorem exec_ideKm_takes {stream : Nat} (hr : reachable s fn = true) (h : streamFits fn stream s) :
    exec (.ideKm fn stream) s = .next (setFunc s fn { getFunc s fn with
      ideStreams := stream :: (getFunc s fn).ideStreams }) := by
  obtain ⟨hs, hm, h8, h4⟩ := h
  refine congrArg Host.Outcome.next ((if_neg (by simp [hs, hr, hm])).trans (if_neg ?_))
  simp only [Bool.or_eq_true, Bool.and_eq_true, decide_eq_true_eq, not_or, not_and, Nat.not_le]
  exact ⟨h8, h4⟩

theorem exec_ideKm_refused {stream : Nat} (h : (getFunc s fn).session = false ∨ stream ∈ (getFunc s fn).ideStreams ∨
    8 ≤ streamCount s none ∨ (s.host.bifurcated = true ∧ 4 ≤ streamCount s (some (linkOf fn)))) :
    exec (.ideKm fn stream) s = .next s := by
  rcases h with h | h | h | ⟨hb, h⟩
  · exact congrArg _ (if_pos (by simp [h]))
  · exact congrArg _ (if_pos (by simp [h]))
  · exact congrArg _ (ite_eq_left_iff.mpr fun _ => if_pos (by simp [h]))
  · exact congrArg _ (ite_eq_left_iff.mpr fun _ => if_pos (by simp [hb, h]))

end

/-! ### TDIs -/

section
variable {p : Nat} {s : State}

theorem tdispMove_unreached (ok : Bool) (next : Nat) (h : reachable s (.vf p) = false) : tdispMove p ok next s = s :=
  if_pos (by simp [h])

theorem tdispMove_moves {ok : Bool} (next : Nat) (h : reachable s (.vf p) = true) (hk : ok = true) :
    tdispMove p ok next s = emit (.tdisp p true []) (setTdi s p next) :=
  (if_neg (by simp [h])).trans (if_pos hk)

theorem tdispMove_refused {ok : Bool} (next : Nat) (h : reachable s (.vf p) = true) (hk : ok = false) :
    tdispMove p ok next s = emit (.tdisp p false []) s :=
  (if_neg (by simp [h])).trans (if_neg (by simp [hk]))

theorem exec_stopInterfaceRequest_reached (h : reachable s (.vf p) = true) (ht : getTdi s p ≠ 0) :
    (getPolder s p = none → exec (.stopInterfaceRequest p) s = .next (emit (.tdisp p true []) (setTdi s p 0))) ∧
    (∀ x, getPolder s p = some x →
      (x.resetting = false → ∃ q, exec (.stopInterfaceRequest p) s =
        .next { s with tide.queued := s.tide.queued ++ [q] } ∧ q.cmd = .stopInterfaceRequest p ∧ q.dueIx = s.tide.ix + 1) ∧
      (x.resetting = true → exec (.stopInterfaceRequest p) s = .next { s with
        work.scrubs := s.work.scrubs.map fun j =>
          if j.polder = p && j.kind ≠ .frames then { j with tdisp := true } else j })) := by
  have hx : exec (.stopInterfaceRequest p) s = execStopInterfaceRequest p s := rfl
  rw [execStopInterfaceRequest, if_neg (by simp [h]), if_neg ht] at hx
  refine ⟨fun hn => ?_, fun x hp => ⟨fun hr => ?_, fun hr => ?_⟩⟩
  · rw [hx, hn]
  · rw [hx, hp]
    dsimp only
    rw [if_neg (by simp [hr])]
    exact ⟨_, rfl, rfl, rfl⟩
  · rw [hx, hp]
    exact congrArg _ (if_pos hr)

end

/-! ### The obligation -/

/-- Settles O58: each event by the branch that its conditions choose; the end of a session writes no function but its own. -/
theorem securityEvents : Obligations.SecurityEvents := by
  intro fn s
  refine ⟨exec_attestSigned_idle, fun o hm ho => ⟨fun h nonce buf hc => ?_, exec_attestSigned_other hm ho⟩,
    exec_attestSigned_spdm, fun nonce stream h => ⟨?_, ?_, congrArg _ (if_neg (by simp [h])), congrArg _ (if_pos (by simp [h]))⟩,
    fun h nonce => ⟨fun hb => ⟨?_, ?_⟩, fun hb => ⟨?_, ?_⟩⟩, fun h => congrArg _ (if_pos h),
    ⟨_, rfl, session_end fn s, fun g => endSession_others, endSession_none⟩,
    fun stream hr => ⟨fun h1 h2 h3 h4 => exec_ideKm_takes hr ⟨h1, h2, h3, h4⟩, exec_ideKm_refused⟩,
    fun p h => ⟨congrArg _ (tdispMove_unreached _ 1 h), congrArg _ (tdispMove_unreached _ 2 h),
      congrArg _ (if_pos (by simp [h])), congrArg _ (if_pos (by simp [h]))⟩,
    fun p h => ⟨fun h0 => ?_, fun h0 => ?_, fun h1 => ?_, fun h1 => ?_, fun h1 => ?_, fun h1 h2 => ?_, fun h0 => ?_,
      fun h0 => (exec_stopInterfaceRequest_reached h h0).1, fun x h0 => (exec_stopInterfaceRequest_reached h h0).2 x⟩,
    fun p => ⟨fun h => congrArg _ (if_pos ?_), fun h1 h2 => congrArg _ (if_neg (by simp [h1, h2]))⟩,
    fun hm hh => congrArg _ (if_pos (by simp [hm, hh])), fun h => congrArg _ (if_neg ?_)⟩
  case refine_1 =>
    rw [exec_attestSigned_report hm ho hc]
    exact ⟨fun hf => congrArg _ (if_neg (by simp [hf])), fun hf => congrArg _ (if_pos hf)⟩
  case refine_2 => exact congrArg _ (spdmSign_unreached _ h)
  case refine_3 => exact congrArg _ (spdmSign_unreached _ h)
  case refine_4 => exact congrArg _ (spdmSign_busy _ h hb)
  case refine_5 => exact congrArg _ (spdmSign_busy _ h hb)
  case refine_6 => exact congrArg _ (spdmSign_free _ h hb)
  case refine_7 =>
    exact ⟨_, congrArg _ (spdmSign_free _ h hb), (List.prefix_append _ _).trans (List.prefix_append _ _)⟩
  case refine_8 => exact congrArg _ (tdispMove_moves 1 h (decide_eq_true h0))
  case refine_9 => exact congrArg _ (tdispMove_refused 1 h (decide_eq_false h0))
  case refine_10 => exact congrArg _ (tdispMove_moves 2 h (decide_eq_true h1))
  case refine_11 => exact congrArg _ (tdispMove_refused 2 h (decide_eq_false h1))
  case refine_12 => exact congrArg _ ((if_neg (by simp [h])).trans (if_pos (by rcases h1 with h1 | h1 <;> simp [h1])))
  case refine_13 => exact congrArg _ ((if_neg (by simp [h])).trans (if_neg (by simp [h1, h2])))
  case refine_14 => exact congrArg _ ((if_neg (by simp [h])).trans (if_pos h0))
  case refine_15 => rcases h with h | h <;> simp [h]
  case refine_16 => rcases h with h | h <;> simp [h]

end Sys2Proof.Proofs
end


section
/-! The debug transport and the management bus (O59): what an access's grant leaves alone, and each request's answer. -/

namespace Sys2Proof.Proofs

open Sys2Proof Sys2Proof.Machine Sys2Proof.Safety Sys2Proof.Laws

/-! ### A grant writes no memory and moves no pointer -/

/-- The bytes of memory, and the transport's pointer. -/
def debugView (s : State) : List Host.Cell × Nat := (s.mem.cells, s.startup.pointer)

theorem debugView_of_hostOnly {s t : State} (h : HostOnly s t) : debugView t = debugView s := by
  obtain ⟨_, _, _, rfl⟩ := h; rfl

theorem starve_debugView (inst input : Nat) (s : State) : debugView (starve inst input s) = debugView s := by
  unfold starve
  dsimp only
  have raised : ∀ x, debugView (raise (starveSource inst).1 (starveSource inst).2 (setArbiter s inst x)) = debugView s :=
    fun x => (debugView_of_hostOnly (raise_hostOnly _ _ (setArbiter s inst x))).trans rfl
  split <;> exact raised _

theorem cycleAt_debugView (inst : Nat) (rs : List Requester) (s : State) : debugView (cycleAt inst rs s) = debugView s := by
  unfold cycleAt
  refine (fold_other (g := debugView) (fun u i => ?_) _ _).trans rfl
  split
  · rfl
  · exact starve_debugView ..

theorem dbgGrant_debugView (pl : DbgPlace) (s : State) : debugView (dbgGrant pl s) = debugView s := by
  cases pl with
  | cells a => rfl
  | sram k a => exact cycleAt_debugView ..
  | ext tier a => exact cycleAt_debugView ..
  | unit_ key => rfl

/-! ### The TAP, and requests that no unit answers -/

section
variable {seq : Byte} {s : State}

theorem tapPermits_idcode (s : State) : tapPermits s 0x01 = true := rfl

theorem tapPermits_dtrans (s : State) : tapPermits s 0x20 = decide (s.ident.lifecycle ≠ .decommissioned) := by
  unfold tapPermits
  rw [show decide ((0x20 : Byte) = 0x01) = false from rfl, show decide ((0x20 : Byte) = 0xFF) = false from rfl,
    show decide ((0x20 : Byte) = 0x20) = true from rfl, show decide ((0x20 : Byte) = 0x00) = false from rfl,
    show decide ((0x20 : Byte) = 0x02) = false from rfl]
  simp

theorem exec_tapInstruction_up {code : Byte} (hu : s.aon.up = true) :
    (tapPermits s code = true → code ≠ 0x01 → exec (.tapInstruction code) s = .next { s with startup.tap := code }) ∧
    (tapPermits s code = false → exec (.tapInstruction code) s = .next { s with startup.tap := 0xFF }) ∧
    (code = 0x01 → exec (.tapInstruction code) s = .next (emit (.idcode 0x09640A5D) { s with startup.tap := 0x01 })) := by
  have hx : exec (.tapInstruction code) s = .next (if code = 0x01 then
      emit (.idcode idcode) { s with startup.tap := if tapPermits s code then code else 0xFF }
    else { s with startup.tap := if tapPermits s code then code else 0xFF }) := congrArg _ (if_neg (by simp [hu]))
  refine ⟨fun hp hc => ?_, fun hp => ?_, fun hc => ?_⟩
  · rw [hx, if_neg hc, if_pos hp]
  · have hc : code ≠ 0x01 := fun hc => by rw [hc, tapPermits_idcode] at hp; cases hp
    rw [hx, if_neg hc, if_neg (by simp [hp])]
  · rw [hx, if_pos hc, hc, if_pos (tapPermits_idcode s)]; rfl

/-- The transport is out of force: nothing answers. -/
theorem onUnit_off (h : dtransOn s = false) (cmd : Nat) (act : Nat → State → State) : onUnit cmd seq act s = s :=
  if_pos (by simp [h])

/-- The transport has no unit for a request, for the reason with the code `r`: none is selected, or it is out of reach. -/
theorem onUnit_refused (h : dtransOn s = true) {r : Nat} (hr : (s.startup.target = none ∧ r = 3) ∨
      (∃ t, s.startup.target = some t ∧ targetReach s t = false ∧ r = 2)) (cmd : Nat) (act : Nat → State → State) :
    onUnit cmd seq act s = emit (.dtrans cmd seq r 0 0) s := by
  rcases hr with ⟨hn, rfl⟩ | ⟨t, ht, hreach, rfl⟩
  · exact onUnit_unselected h hn cmd seq act
  · exact onUnit_denied h ht hreach cmd seq act

theorem exec_dbgSelect {t : Nat} (h : dtransOn s = true) :
    (isTarget t = false → exec (.dbgSelect seq t) s = .next (emit (.dtrans 1 seq 3 0 0) s)) ∧
    (isTarget t = true → targetReach s t = true → exec (.dbgSelect seq t) s =
      .next (emit (.dtrans 1 seq 0 0 0) { s with startup.target := some t })) ∧
    (isTarget t = true → targetReach s t = false → exec (.dbgSelect seq t) s = .next (emit (.dtrans 1 seq 2 0 0) s)) := by
  have hon : ¬ (!dtransOn s) = true := by simp [h]
  refine ⟨fun ht => ?_, fun ht hr => ?_, fun ht hr => ?_⟩
  · exact congrArg Host.Outcome.next ((if_neg hon).trans (if_pos (by simp [ht])))
  · exact congrArg Host.Outcome.next ((if_neg hon).trans ((if_neg (by simp [ht])).trans (if_neg (by simp [hr]))))
  · exact congrArg Host.Outcome.next ((if_neg hon).trans ((if_neg (by simp [ht])).trans (if_pos (by simp [hr]))))

end

/-! ### Requests to the selected unit -/

@[simp] theorem getUnit_setUnit (s : State) (t : Nat) (u : Unit_) : getUnit (setUnit s t u) t = u := by
  unfold getUnit setUnit
  rw [tget_tset_same]
  rfl

/-- The transport answers for the unit that it has selected, which is in reach. -/
structure Answers (s : State) (t : Nat) : Prop where
  inForce : dtransOn s = true
  selected : s.startup.target = some t
  inReach : targetReach s t = true

section
variable {seq : Byte} {s : State} {t : Nat} (h : Answers s t)
include h

theorem onUnit_acts (cmd : Nat) (act : Nat → State → State) : onUnit cmd seq act s = act t s :=
  onUnit_reached h.inForce h.selected h.inReach cmd seq act

theorem exec_dbgHalt : ((getUnit s t).halted = true → exec (.dbgHalt seq) s = .next (emit (.dtrans 2 seq 0 0 0) s)) ∧
    ((getUnit s t).halted = false → ∃ u, exec (.dbgHalt seq) s = .next u ∧ (getUnit u t).halted = true ∧
      (getUnit u t).atBreak = false ∧ (getUnit u t).steps = 0 ∧ (getUnit u t).breaks = (getUnit s t).breaks) := by
  refine ⟨fun hh => ?_, fun hh => ?_⟩
  · show execDbgHalt seq s = _
    rw [execDbgHalt, onUnit_acts h]
    dsimp only
    rw [if_pos hh]
    rfl
  · refine ⟨_, congrArg Host.Outcome.next (onUnit_acts h 2 _), ?_⟩
    dsimp only
    rw [if_neg (by simp [hh])]
    have hu := getUnit_setUnit { s with fresh := s.fresh + 1 } t
      { getUnit s t with halted := true, atBreak := false, steps := 0, pc := Config.unitPc s.fresh }
    exact ⟨congrArg (·.halted) hu, congrArg (·.atBreak) hu, congrArg (·.steps) hu, congrArg (·.breaks) hu⟩

theorem exec_dbgResume : ∃ u, exec (.dbgResume seq) s = .next u ∧ (getUnit u t).halted = false ∧ (getUnit u t).steps = 0 ∧
    u.mem = s.mem ∧ u.out = .dtrans 3 seq 0 0 0 :: s.out := by
  refine ⟨_, congrArg Host.Outcome.next (onUnit_acts h 3 _), ?_⟩
  have hu := getUnit_setUnit s t { getUnit s t with halted := false, atBreak := false, steps := 0 }
  exact ⟨congrArg (·.halted) hu, congrArg (·.steps) hu, rfl, rfl⟩

theorem exec_dbgStep_runs {n : Nat} (h1 : 1 ≤ n) (h2 : n ≤ 65535) : ∃ u, exec (.dbgStep seq n) s = .next u ∧
    (getUnit u t).halted = false ∧ (getUnit u t).steps = n ∧ u.out = .dtrans 4 seq 0 0 0 :: s.out := by
  refine ⟨_, congrArg Host.Outcome.next ((onUnit_acts h 4 _).trans (if_pos (by simp [h1, h2]))), ?_⟩
  have hu := getUnit_setUnit s t { getUnit s t with halted := false, atBreak := false, steps := n }
  exact ⟨congrArg (·.halted) hu, congrArg (·.steps) hu, rfl⟩

theorem exec_dbgStep_unstated {n : Nat} (hn : n = 0 ∨ 65535 < n) : ∃ r, exec (.dbgStep seq n) s =
    .next (emit (.dtrans 4 seq r 0 0) { s with fresh := s.fresh + 1 }) := by
  refine ⟨_, congrArg Host.Outcome.next ((onUnit_acts h 4 _).trans (if_neg ?_))⟩
  simp only [Bool.and_eq_true, decide_eq_true_eq]
  omega

theorem exec_dbgSetAddr (space : Nat) (a : Word64) :
    (dbgPlace s t (space % 256) a.toNat ≠ none → exec (.dbgSetAddr seq space a) s = .next (emit (.dtrans 7 seq 0 0 0)
      { s with startup.space := space % 256, startup.pointer := a.toNat })) ∧
    (dbgPlace s t (space % 256) a.toNat = none → exec (.dbgSetAddr seq space a) s = .next (emit (.dtrans 7 seq 4 0 0) s)) := by
  have hx : exec (.dbgSetAddr seq space a) s = execDbgSetAddr seq space a s := rfl
  rw [execDbgSetAddr, onUnit_acts h] at hx
  refine ⟨fun hp => ?_, fun hp => ?_⟩
  · obtain ⟨pl, hpl⟩ := Option.ne_none_iff_exists'.mp hp
    rw [hx, hpl]
    rfl
  · rw [hx, hp]
    rfl

theorem exec_dbgRead_outside (hp : dbgPlace s t s.startup.space s.startup.pointer = none) :
    exec (.dbgRead seq) s = .next (emit (.dtrans 8 seq 4 0 0) s) := by
  show execDbgRead seq s = _
  rw [execDbgRead, onUnit_acts h, hp]
  rfl

theorem exec_dbgWrite_outside (hp : dbgPlace s t s.startup.space s.startup.pointer = none) (w : Word64) :
    exec (.dbgWrite seq w) s = .next (emit (.dtrans 9 seq 4 0 0) s) := by
  show execDbgWrite seq w s = _
  rw [execDbgWrite, onUnit_acts h, hp]
  rfl

theorem exec_dbgWrite_stores {pl : DbgPlace} (hp : dbgPlace s t s.startup.space s.startup.pointer = some pl) (w : Word64) :
    exec (.dbgWrite seq w) s = .next (emit (.dtrans 9 seq 0 0 0)
      (dbgStore t pl (le 8 w.toNat) { dbgGrant pl s with startup.pointer := s.startup.pointer + 8 })) := by
  have hv : (dbgGrant pl s).startup.pointer = s.startup.pointer := congrArg (·.2) (dbgGrant_debugView pl s)
  show execDbgWrite seq w s = _
  rw [execDbgWrite, onUnit_acts h, hp, ← hv]
  rfl

theorem exec_dbgRead_loads {pl : DbgPlace} (hp : dbgPlace s t s.startup.space s.startup.pointer = some pl) :
    ∃ u, exec (.dbgRead seq) s = .next u ∧ u.startup.pointer = s.startup.pointer + 8 ∧ u.mem.cells = s.mem.cells ∧
      u.out.head? = some (.dtrans 8 seq 0 (BitVec.ofNat 64 (unle (dbgLoad s t pl))) 0) := by
  have hx : exec (.dbgRead seq) s = execDbgRead seq s := rfl
  rw [execDbgRead, onUnit_acts h, hp] at hx
  have hv := dbgGrant_debugView pl s
  exact ⟨_, hx, congrArg (·.2 + 8) hv, congrArg (·.1) hv, rfl⟩

/-- A word written in a scratchpad is the word read there, and every byte outside it stays. -/
theorem exec_dbgWrite_cells {a : Nat} (hp : dbgPlace s t s.startup.space s.startup.pointer = some (.cells a)) (w : Word64) :
    ∃ u, exec (.dbgWrite seq w) s = .next u ∧ u.startup.pointer = s.startup.pointer + 8 ∧
      (MemoryCanonical s → dbgLoad u t (.cells a) = le 8 w.toNat) ∧
      (∀ y, y < a ∨ a + 8 ≤ y → readByte u.mem.cells y = readByte s.mem.cells y) := by
  refine ⟨_, exec_dbgWrite_stores h hp w, rfl, fun hc => ?_, fun y hy => ?_⟩
  · have hread := readBytes_writeBytes s.mem.cells a (le 8 w.toNat) hc
    rwa [le_length] at hread
  · exact readByte_writeBytes_other s.mem.cells a y (le 8 w.toNat) (by rwa [le_length])

theorem exec_dbgStatus_halted (hh : (getUnit s t).halted = true) : exec (.dbgStatus seq) s = .next (emit
    (.dtrans 10 seq 0 (getUnit s t).pc (1 + if (getUnit s t).atBreak then 2 + 4 * (getUnit s t).slot else 0))
    { s with fresh := s.fresh + 1 }) := by
  show execDbgStatus seq s = _
  rw [execDbgStatus, onUnit_acts h]
  dsimp only
  rw [hh, if_pos rfl]
  cases (getUnit s t).atBreak with
  | true =>
    have hsum : bitAt 0 true + bitAt 1 (true && true) + (if (true && true) = true then 4 * (getUnit s t).slot else 0) =
        1 + (if true = true then 2 + 4 * (getUnit s t).slot else 0) := Nat.add_assoc 1 2 _
    rw [hsum]
    rfl
  | false => rfl

theorem exec_dbgStatus_running (hh : (getUnit s t).halted = false) : ∃ pc, exec (.dbgStatus seq) s =
    .next (emit (.dtrans 10 seq 0 pc 0) { s with fresh := s.fresh + 1 }) := by
  have hx : exec (.dbgStatus seq) s = execDbgStatus seq s := rfl
  rw [execDbgStatus, onUnit_acts h] at hx
  dsimp only at hx
  rw [hh] at hx
  exact ⟨_, hx⟩

end

/-! ### Breakpoints -/

theorem exec_breakpointHit_running {s : State} {t slot : Nat} {pc : Word64} (ht : isTarget t = true)
    (hh : (getUnit s t).halted = false) :
    (tget (getUnit s t).breaks slot = some pc → exec (.breakpointHit t slot false pc) s = .next (setUnit s t
      { getUnit s t with halted := true, atBreak := true, slot := slot, steps := 0, pc := pc })) ∧
    (tget (getUnit s t).breaks slot ≠ some pc → exec (.breakpointHit t slot false pc) s = .next s) ∧
    ((getUnit s t).steps ≠ 0 → exec (.breakpointHit t slot true pc) s = .next (setUnit s t
      { getUnit s t with halted := true, atBreak := false, steps := 0, pc := pc })) ∧
    ((getUnit s t).steps = 0 → exec (.breakpointHit t slot true pc) s = .next s) := by
  have hn : ¬ ((getUnit s t).halted || !isTarget t) = true := by simp [hh, ht]
  refine ⟨fun hb => ?_, fun hb => ?_, fun hs => ?_, fun hs => ?_⟩
  · exact congrArg Host.Outcome.next ((if_neg hn).trans ((if_neg Bool.false_ne_true).trans (if_pos hb)))
  · exact congrArg Host.Outcome.next ((if_neg hn).trans ((if_neg Bool.false_ne_true).trans (if_neg hb)))
  · exact congrArg Host.Outcome.next ((if_neg hn).trans ((if_pos rfl).trans (if_neg hs)))
  · exact congrArg Host.Outcome.next ((if_neg hn).trans ((if_pos rfl).trans (if_pos hs)))

/-! ### The management bus -/

theorem answerBus_answers {addr : Nat} {s : State} (h : busAnswers s addr = true) (cmd : Nat) (milli : Int) :
    answerBus addr cmd milli s = emit (.pmbus cmd (linear11 milli)) s := if_pos h

theorem answerBus_silent {addr : Nat} {s : State} (h : busAnswers s addr = false) (cmd : Nat) (milli : Int) :
    answerBus addr cmd milli s = s := if_neg (by simp [h])

section
variable {addr : Nat} {s : State}

theorem exec_busReads_perTide (h : busAnswers s addr = true) (hp : perTide s = true) :
    exec (.readVin addr) s = .next (emit (.pmbus 0x88 (linear11 (10 * s.aon.edgeVin))) s) ∧
    exec (.readTemperature1 addr) s = .next (emit (.pmbus 0x8D (linear11 (1000 * (hottest s).1))) s) ∧
    exec (.readTemperature2 addr) s = .next (emit (.pmbus 0x8E (linear11 (1000 * s.power.edgeInlet))) s) := by
  refine ⟨?_, ?_, ?_⟩
  · show execReadVin addr s = _
    rw [execReadVin, answerBus_answers h, inputTenMv, if_pos hp]
  · show execReadTemperature1 addr s = _
    rw [execReadTemperature1, answerBus_answers h, if_pos hp]
  · show execReadTemperature2 addr s = _
    rw [execReadTemperature2, answerBus_answers h, if_pos hp]

theorem exec_busReads_held (h : busAnswers s addr = true) (hp : perTide s = false) :
    exec (.readVin addr) s = .next (emit (.pmbus 0x88 (linear11 (10 * s.aon.vin48))) s) ∧
    exec (.readTemperature1 addr) s = .next (emit (.pmbus 0x8D (linear11 (1000 * s.aon.heldHottest))) s) ∧
    exec (.readTemperature2 addr) s = .next (emit (.pmbus 0x8E (linear11 (1000 * s.power.inlet))) s) := by
  have hn : ¬ perTide s = true := by simp [hp]
  refine ⟨?_, ?_, ?_⟩
  · show execReadVin addr s = _
    rw [execReadVin, answerBus_answers h, inputTenMv, if_neg hn]
  · show execReadTemperature1 addr s = _
    rw [execReadTemperature1, answerBus_answers h, if_neg hn]
  · show execReadTemperature2 addr s = _
    rw [execReadTemperature2, answerBus_answers h, if_neg hn]

theorem exec_readIin_answers (h : busAnswers s addr = true) :
    exec (.readIin addr) s = .next (emit (.pmbus 0x89 (linear11 (currentMa s))) { s with fresh := s.fresh + 1 }) := by
  show execReadIin addr s = _
  rw [execReadIin, answerBus_answers h]
  rfl

theorem exec_readPin_up (h : busAnswers s addr = true) (hm : mainUp s = true) :
    exec (.readPin addr) s = .next (emit (.pmbus 0x97 (linear11 (1000 * s.power.powerW))) s) :=
  congrArg Host.Outcome.next ((if_pos hm).trans (answerBus_answers h ..))

theorem exec_readPin_down (h : busAnswers s addr = true) (hm : mainUp s = false) :
    exec (.readPin addr) s = .next (emit (.pmbus 0x97 (linear11 (s.aon.vin48 * currentMa s / 100)))
      { s with fresh := s.fresh + 1 }) := by
  show execReadPin addr s = _
  rw [execReadPin, if_neg (by simp [hm]), answerBus_answers h]
  rfl

theorem exec_busReads_silent (h : busAnswers s addr = false) :
    exec (.readVin addr) s = .next s ∧ exec (.readTemperature1 addr) s = .next s ∧
    exec (.readTemperature2 addr) s = .next s ∧ exec (.readIin addr) s = .next { s with fresh := s.fresh + 1 } ∧
    (mainUp s = true → exec (.readPin addr) s = .next s) ∧
    (mainUp s = false → exec (.readPin addr) s = .next { s with fresh := s.fresh + 1 }) := by
  refine ⟨congrArg _ (answerBus_silent h ..), congrArg _ (answerBus_silent h ..), congrArg _ (answerBus_silent h ..), ?_,
    fun hm => congrArg _ ((if_pos hm).trans (answerBus_silent h ..)), fun hm => ?_⟩
  · show execReadIin addr s = _
    rw [execReadIin, answerBus_silent h]
  · show execReadPin addr s = _
    rw [execReadPin, if_neg (by simp [hm]), answerBus_silent h]

end

/-! ### The obligation -/

/-- Settles O59: each request by whether the transport is in force and has a unit in reach, where the grant of an access leaves
memory and the pointer alone; and each read of the bus by its address. -/
theorem debugAndPmbus : Obligations.DebugAndPmbus := by
  intro seq s
  refine ⟨fun code => ⟨fun h => congrArg _ (if_pos (by simp [h])), exec_tapInstruction_up, fun h => ?_⟩, fun h => ?_,
    fun t => exec_dbgSelect, fun h r hr => ?_, fun t h1 h2 h3 => ?_,
    fun t slot pc => exec_breakpointHit_running, fun t slot e pc h => congrArg _ (if_pos ?_), fun addr h => ?_,
    fun addr => exec_busReads_silent⟩
  case refine_1 => rw [tapPermits_dtrans, h]; rfl
  case refine_2 =>
    have off := fun cmd act => congrArg (Host.Outcome.next (σ := State) (φ := Fault) (ρ := Refusal))
      (onUnit_off (seq := seq) h cmd act)
    exact ⟨fun t => congrArg _ (if_pos (by simp [h])), off 2 _, off 3 _, fun n => off 4 _, fun n a => off 5 _, fun n => off 6 _,
      fun p a => off 7 _, off 8 _, fun w => off 9 _, off 10 _⟩
  case refine_3 =>
    have refused := fun cmd act => congrArg (Host.Outcome.next (σ := State) (φ := Fault) (ρ := Refusal))
      (onUnit_refused (seq := seq) h hr cmd act)
    exact ⟨refused 2 _, refused 3 _, fun n => refused 4 _, fun n a => refused 5 _, fun n => refused 6 _, fun p a => refused 7 _,
      refused 8 _, fun w => refused 9 _, refused 10 _⟩
  case refine_4 =>
    have h : Answers s t := ⟨h1, h2, h3⟩
    obtain ⟨halted, running⟩ := exec_dbgHalt (seq := seq) h
    exact ⟨halted, running, exec_dbgResume h, fun n => exec_dbgStep_runs h, fun n => exec_dbgStep_unstated h,
      fun slot a => ⟨congrArg _ (onUnit_acts h 5 _), congrArg _ (onUnit_acts h 6 _)⟩, exec_dbgSetAddr h,
      fun hp => ⟨exec_dbgRead_outside h hp, exec_dbgWrite_outside h hp⟩,
      fun pl hp => ⟨fun w => ⟨_, exec_dbgWrite_stores h hp w, rfl⟩, exec_dbgRead_loads h hp⟩,
      fun a w hp => exec_dbgWrite_cells h hp w, exec_dbgStatus_halted h, exec_dbgStatus_running h⟩
  case refine_5 => rcases h with h | h <;> simp [h]
  case refine_6 =>
    exact ⟨exec_busReads_perTide h, exec_busReads_held h, ⟨_, exec_readIin_answers h⟩, exec_readPin_up h,
      fun hm => ⟨_, exec_readPin_down h hm⟩⟩

end Sys2Proof.Proofs
end
